-- ==== Sys2Proof/Word.lean ====
section
/-!
DEFINITION. The word types of SCV-W1152 and the fixed vocabulary of R6-R8: bytes, 32-bit registers, 64-bit device
addresses, 32-byte items (one item is one flit, R32), and the sparse table that holds numbered things.
-/
namespace Sys2Proof

/-- One byte. -/
abbrev Byte := BitVec 8
/-- One register (R8): 32 bits. -/
abbrev Word := BitVec 32
/-- One device address (R161), or one 64-bit word of a memory or sync word. -/
abbrev Dword := BitVec 64
/-- One 32-byte item or flit (R32, R63): byte k is bits [8k+7:8k]. -/
abbrev Item := BitVec 256
/-- A 16-bit fault code (R239). -/
abbrev Code := BitVec 16

/-- A sparse table of numbered things: pairs of a number and its thing, numbers strictly rising.
A number that is not listed has the default that the reader names. -/
abbrev Tbl (α : Type) := List (Nat × α)

end Sys2Proof
end

