-- ==== Sys2Proof/Syntax.lean ====
section
/-!
DEFINITION. The commands of the block: one constructor of `Instr` for each row of spec/opcode_table.json, with the row's
operands. Operands that the physical world, a host or a peer supplies (an ECC outcome, host memory's bytes, a temperature)
stand beside those that name the object acted on.
-/
namespace Sys2Proof

/-- What a SECDED check found (R182). -/
inductive Ecc where
  | clean
  | corrected
  | uncorrectable
deriving DecidableEq, Repr

/-- What the SECDED checks of a link found as a packet crossed it (R140). -/
inductive LinkEcc where
  | clean
  | corrected
  | headerBad
  | payloadBad
deriving DecidableEq, Repr

/-- What one patrol-scrub access of an SRAM reads (R184). -/
inductive ScrubTarget where
  /-- word (8 bytes) `w` of the cell's data storage -/
  | data (w : Nat)
  /-- word `w` of the slot and configuration store -/
  | store (w : Nat)
  /-- entry `i`, counted from the head, of queue `q` -/
  | queue (q i : Nat)
  /-- word `w` of a C-cell's accumulator store: accumulators 2w and 2w + 1 -/
  | acc (w : Nat)
  /-- word `w` of a G-cell's hash accumulator: half of record w / 2 -/
  | hash (w : Nat)
  /-- word `w` of stream-buffer line `i` of a P-cell -/
  | line (i w : Nat)
  /-- word `w` of posted-write entry `i`, counted from the oldest -/
  | pwb (i w : Nat)
  /-- any other store that no address reaches -/
  | hidden
deriving DecidableEq, Repr

/-- A register of a host site's configuration space (R267, R268). -/
inductive CfgReg where
  /-- Vendor ID in [15:0], Device ID in [31:16] -/
  | ids
  /-- Revision ID in [7:0], class code in [31:8] -/
  | classRev
  /-- BAR0, low half -/
  | bar0Lo
  /-- BAR0, high half -/
  | bar0Hi
  /-- base address registers 2 to 5 -/
  | bar (k : Nat)
  /-- MSI-X Message Control -/
  | msixControl
  /-- word `w` of the PCIe DVSEC for CXL devices (0), the Register Locator DVSEC (1) or the Flex Bus Port DVSEC (2) -/
  | dvsec (k w : Nat)
deriving DecidableEq, Repr

/-- A register named by REGISTER_WRITE (R9): the space it lies in and its offset. -/
inductive RegTarget where
  /-- BAR0 of a host site (R270) -/
  | bar0 (site off : Nat)
  /-- the configuration space of a host site (R268) -/
  | config (site : Nat) (reg : CfgReg)
  /-- CLK_STATUS of the helm (R322) -/
  | clkStatus
  /-- BAR0 bridge register window of a host site (R271) -/
  | brw (site off : Nat)
  /-- the image window of a host site (R270) -/
  | image (site off : Nat)
  /-- the MSI-X table of a host site (R270), offsets from its start -/
  | msix (site off : Nat)
  /-- the CXL component registers of a host site (R270), offsets from the HDM decoder capability -/
  | component (site off : Nat)
  /-- management UNIT 0 of a site: cell store, router block, engine block (R168) -/
  | unit0 (x y off : Nat)
  /-- base-die registers of a field (R168 UNIT 1) -/
  | baseDie (f off : Nat)
  /-- the field resolution store of a field (R168 UNIT 2) -/
  | store (f off : Nat)
deriving DecidableEq, Repr

/-- One codeword as a lane receiver takes it (R293, R295): how many of its symbols the decoder must correct, none when it cannot; and the
5,140 message bits that result. -/
structure Codeword where
  fix : Option Nat
  msg : BitVec 5140
deriving DecidableEq, Repr

/-- One frame (R295): DATA or IDLE, its sequence number, its link control flit and its flits. -/
structure Frame where
  data   : Bool
  seq    : Nat
  ctl    : Option Item
  flits  : List Item
deriving DecidableEq, Repr

/-- The commands. -/
inductive Instr where
  -- mailbox commands: host site and TAG of the command that SLOT_TAKE copied out
  | hello (s : Nat) (tag : Word)
  | queryInfo (s : Nat) (tag : Word)
  | partitionSet (s : Nat) (tag : Word)
  | programLoad (s : Nat) (tag : Word) (image : List Byte)
  | programUnload (s : Nat) (tag : Word)
  | sessionOpen (s : Nat) (tag : Word)
  | sessionClose (s : Nat) (tag : Word)
  | run (s : Nat) (tag : Word)
  | runCancel (s : Nat) (tag : Word)
  | sound (s : Nat) (tag : Word)
  | pairSet (s : Nat) (tag : Word)
  | fixFetch (s : Nat) (tag : Word)
  | attest (s : Nat) (tag : Word)
  | logRead (s : Nat) (tag : Word)
  | countersRead (s : Nat) (tag : Word)
  | linkStatus (s : Nat) (tag : Word)
  | powerPolicy (s : Nat) (tag : Word)
  | partitionReset (s : Nat) (tag : Word)
  -- bridge
  | mbxDoorbell (s : Nat) (v : Word)
  | mbxSlotWrite (s slot off : Nat) (data : List Byte)
  | slotTake (s : Nat)
  | completionRecordWrite (s : Nat)
  | cringHeadWrite (s : Nat) (v : Word)
  | cringCfgWrite (s : Nat) (v : Word)
  | brwClrCnt (s : Nat)
  | gatedAccess (s block : Nat) (write : Bool)
  | registerWrite (r : RegTarget) (v : Word)
  -- start-up: good crystals, and the host links as they train (site, modules, width, rate); bad or good objects by number; PEERS names
  -- port, lane and the peer's stepping
  | clocks (xtalA xtalB : Bool) (links : List (Nat × List Nat × Nat × Nat))
  | helmLoad (s : Nat) (image : List Byte)
  | helmVerify
  | towers (badChannels : List (Nat × Nat))
  | fieldsPower (bad : List Nat)
  | roseLock (bad : List Nat)
  | meshTest (badLinks : List (Nat × Nat × Nat)) (tables : List (Nat × Nat × Nat × Word))
  | cellMicrocode (incomplete : List (Nat × Nat))
  | defects
  | peers (good : List (Nat × Nat × Nat))
  | ready
  | moduleReset (forceFull : Bool)
  | runOnNextStep
  | stepTimeout (unfinished : List Nat)
  -- slot firings: site and slot; two-path units carry whether the paths differ
  | dot (x y n : Nat)
  | accOut (x y n : Nat)
  | accClr (x y n : Nat)
  | vadd (x y n : Nat) (differ : Bool)
  | vmul (x y n : Nat) (differ : Bool)
  | vmax (x y n : Nat) (differ : Bool)
  | vscale (x y n : Nat)
  | cvt (x y n : Nat)
  | load (x y n : Nat)
  | store (x y n : Nat)
  | fwd (x y n : Nat)
  | sel (x y n : Nat)
  | merge (x y n : Nat)
  | route (x y n : Nat)
  | token (x y n : Nat)
  | cmp (x y n : Nat)
  | sync (x y n : Nat)
  | sread (x y n : Nat)
  | swrite (x y n : Nat)
  | dma (x y n : Nat)
  | dmaCompletion (x y n : Nat)
  | exp2 (x y n : Nat) (differ : Bool)
  | log2 (x y n : Nat) (differ : Bool)
  | rcp (x y n : Nat) (differ : Bool)
  | rsqrt (x y n : Nat) (differ : Bool)
  | sigm (x y n : Nat) (differ : Bool)
  | tanh (x y n : Nat) (differ : Bool)
  | sincos (x y n : Nat) (differ : Bool)
  | rsum (x y n : Nat) (differ : Bool)
  | rmax (x y n : Nat) (differ : Bool)
  | topk (x y n : Nat) (differ : Bool)
  | chRead (x y n : Nat)
  | chWrite (x y n : Nat)
  | gatherExpand (x y n : Nat)
  | gatherSpan (x y n : Nat)
  | plan (x y n : Nat)
  | check (x y n : Nat)
  | hashAdd (x y n : Nat)
  | hashDrain (x y n : Nat)
  | resultWrite (x y id : Nat)
  -- cell control
  | start (x y : Nat)
  | stop (x y : Nat)
  | apply (x y : Nat)
  | clrCnt (x y : Nat)
  | applyComplete (x y : Nat)
  | idlePoint (x y : Nat)
  | wdogTrip (x y : Nat)
  -- static streams
  | streamItemSend (x y q : Nat)
  | streamItemArrive (x y l : Nat) (ecc : Ecc)
  | creditReturn (x y q : Nat)
  | staticFlitHop (x y l : Nat) (ecc : Ecc)
  | qextGranuleMove (x y q : Nat)
  | joinItemArrive (x y l : Nat) (differ : Bool) (ecc : Ecc)
  | joinOutput (x y o : Nat)
  -- dynamic packets
  | packetInject (x y port : Nat) (ecc : LinkEcc)
  | packetHop (x y port vc : Nat) (ecc : LinkEcc)
  | packetEject (x y port vc : Nat) (ecc : LinkEcc)
  | rd (x y port : Nat)
  | rdata (x y port : Nat)
  | wr (x y port : Nat)
  | wrack (x y port : Nat)
  | fault (x y port : Nat)
  | syncrsp (x y port : Nat)
  | mwr (x y port : Nat)
  | mrd (x y port : Nat)
  | mcMiss (x y port : Nat)
  | mcDone (x y port : Nat)
  | multicastForward (x y t port : Nat) (ecc : LinkEcc)
  | mcHoldExpiry (x y t port : Nat)
  | linkAliveLoss (x y port : Nat)
  | flushStatic (x y : Nat)
  | rtrClrCnt (x y : Nat)
  | laneMapWrite (x y l : Nat) (v : Word)
  | transferTimeout (x y tag : Nat)
  -- sync words
  | syncAdd (x y : Nat)
  | syncSub (x y : Nat)
  | syncSet (x y : Nat)
  | syncSetConfigure (x y : Nat)
  | arrive (x y : Nat)
  | waitGe (x y : Nat)
  | waitResend (x y tag : Nat)
  | clr0 (x y : Nat)
  | clr1 (x y : Nat)
  | swClrCnt (x y : Nat)
  | swWordHiWrite (x y k : Nat) (v : Word)
  | swWordLoRead (x y k : Nat)
  -- channels and memory
  | pwbDrain (x y : Nat)
  | streamLineFetch (x y n : Nat)
  | streamLineArrive (x y n : Nat)
  | invAll (x y : Nat)
  | pcClrCnt (x y : Nat)
  | gcClrCnt (x y : Nat)
  | sgClrCnt (x y : Nat)
  | sightCompare (x y k : Nat)
  | sramScrub (x y : Nat) (t : ScrubTarget) (ecc : Ecc)
  | dramScrub (f ch : Nat) (ecc : Ecc)
  | dramRefresh (f ch bank : Nat)
  | cxlMemRead (s : Nat) (hdm : Nat)
  | cxlMemWrite (s : Nat) (hdm : Nat) (data : List Byte) (enables : BitVec 64)
  -- host data
  | inputRead (s : Nat) (windows : List (List Byte))
  | egressWrite (s x y : Nat)
  | slackTimeout (s : Nat)
  | outputFinalise (s : Nat) (readBack : List (List Byte))
  -- runs
  | helmReport
  | programSwitch (p : Nat)
  | drainFail (p x y : Nat)
  | runStart (p : Nat)
  | runEnd (p : Nat)
  | guardExpiry (p : Nat)
  | fixSeal (p : Nat)
  | partitionResetFinish (p : Nat)
  | sounding (p : Nat) (failing : List (Nat × Nat × Bool))
  -- peer lanes: port and lane
  | frameSend (k n : Nat)
  | frameReceive (k n : Nat) (cw : Codeword)
  | nak (k n seq : Nat)
  | nakRepeat (k n : Nat)
  | ackTimeout (k n : Nat)
  | linkDown (k n : Nat)
  | laneRetrain (k n : Nat) (good : Bool)
  | peerHello (k n : Nat) (flit : Item)
  | keepAlive (k : Nat)
  | peerPacketArrive (k n cls : Nat)
  -- clocks and power
  | crystalFail (isB : Bool)
  | crystalGoodAgain (isB : Bool)
  | deadReckoningEntry
  | deadReckoningExit (isB : Bool) (unlocked : List Nat)
  | roseSlip (bounds : List (Nat × Nat))
  | ungate (f : Nat)
  | lull (f : Nat)
  | railsOff (f : Nat)
  | railsOn (f : Nat)
  | trip (f : Nat)
  | srEnter (f : Nat)
  | srExit (f : Nat)
  | pwrGateWrite (f : Nat) (hi : Bool) (v : Word)
  | cellGateClose (x y : Nat)
  | cellGateOpen (x y : Nat)
  | lullIdleExpiry (f : Nat)
  | doldrumsIdleExpiry (f : Nat)
  | wakeRequest (f : Nat)
  | doldrumsWakeDone (f : Nat) (good : Bool)
  | reefStep (temps : List (Nat × Nat × Int))
  | reefPastFloorExpiry (f : Nat)
  | tjHotReport (f : Nat) (tj : Int)
  | dramHotReport (f : Nat) (td : Int)
  | thermalShutdown (f : Nat)
  | hwThermalTrip (f : Nat) (tj : Int)
  | powerStageTrip (f : Nat)
  | pwrReefWrite (f : Nat) (v : Word)
  | inputInRange
  | inputOutOfRange
  | resetN
  | rimDieOvertemp
  -- Logbook and service network
  | logRecordWrite
  | logWallLoWrite (s : Nat) (v : Word)
  | logWallHiWrite (s : Nat) (v : Word)
  | logLoRead (s off : Nat)
  | fenceRenewal
  | serviceParentTimeout (f : Nat)
  -- host link
  | hostModuleRetry (s m : Nat) (good : Bool)
  | hostLinkRetrain (s : Nat) (modules : List Nat) (width rate : Nat)
  | linkDegraded (s : Nat) (modules : List Nat) (width rate : Nat)
  -- microcode
  | mcPort (x y : Nat) (flits : List Item)
  | mcClear (x y : Nat)
  | mcVerify (x y : Nat)
  | mcReport (x y : Nat)
  -- SMBus, JTAG, supplies
  | smbusBlockRead (code : Nat) (pecGood : Bool)
  | smbusBlockWrite (code : Nat) (v : Word) (pecGood : Bool)
  | alertResponse
  | jtagInstruction (code : Nat)
  | telemetrySample (mv da watts coolIn coolOut : Nat) (td : Nat × Int)
  | towerRailOvercurrent (f : Nat)
  | hostDieStart (s : Nat)
  | hostReadCompletion (s : Nat) (hostTag : Nat) (data : List Byte)
  | bootRomRecordDrop
deriving DecidableEq, Repr

end Sys2Proof
end

