-- ==== Sys2Proof/Decode.lean ====
section
/-!
DEFINITION. Decoding of table words. spec/opcode_table.json gives no row any bits (its `fields` lists are empty), so no
word spells a command.
-/
namespace Sys2Proof

/-- The command a word spells by the table's bits: none, for the table gives no row any bits. In part DESIGN CHOICE, log 1. -/
def decodeTableWord (_nbits _w : Nat) : Option Instr := none

end Sys2Proof
end

