-- ==== Sys2Proof/Config.lean ====
section
/-!
DEFINITION. What one implementation fixes and what the spec leaves open: every constant here is opaque, so no proof can
see a value of it. A free value drawn afresh is the constant applied to `State.fresh`, which the step reads and advances.
-/
namespace Sys2Proof.Config

/-- A 32-byte value the spec leaves unspecified (accumulators, predicates and storage after R245 and R328). DESIGN CHOICE, log 3. -/
opaque freeByte : Nat → Nat → Byte
/-- A 32-bit value the spec leaves unspecified, at draw `n` and position `k`. DESIGN CHOICE, log 3. -/
opaque freeWord : Nat → Nat → Word
/-- Random bytes of the helm's random source, as one number: CHAIN_ID (R231) at draw `n`. DESIGN CHOICE, log 11. -/
opaque random256 : Nat → BitVec 256
/-- The attestation key's private number, as the random source gives it at draw `n` (R375). DESIGN CHOICE, log 11. -/
opaque attestationKey : Nat → Nat
/-- The device identity key's private number, kept in OTP (R375). DESIGN CHOICE, log 11. -/
opaque identityKey : Nat
/-- The per-message number of the ECDSA signature made at draw `n`. DESIGN CHOICE, log 11. -/
opaque signNumber : Nat → Nat
/-- Whether the X.509 certificate bytes lead from the leaf that holds `key` to the Grenori root (R391). DESIGN CHOICE, log 11. -/
opaque chainToRoot : List Byte → List Byte → Bool
/-- The device identity and device CA certificates (R392). DESIGN CHOICE, log 11. -/
opaque certificate : List Byte
/-- Which of the values allowed by the error bound of R78 a function unit delivers: function number, operand bits. DEDUCED, log 12. -/
opaque fnOffset : Nat → Word → Int
/-- Core cycles of a period of the slow oscillator beyond the 56,847 of its highest frequency, 2 % above 32.768 kHz, up to the 59,166 of
its lowest (R313). DESIGN CHOICE, log 13. -/
opaque slowSlack : Nat → Fin 2320
/-- Cycles, less one, by which the Pilot timers gain in 20 core cycles while the fast RC oscillator, +-5 %, feeds them (R313, R319).
DESIGN CHOICE, log 13. -/
opaque rcDrift : Nat → Fin 3
/-- What the phase detectors of a field read in a core cycle (R316, R338). DESIGN CHOICE, log 13. -/
opaque phaseOffset : Nat → Nat → Byte
/-- A byte of region 6 of a slow-scan dump, from the values that the region shows: the spec does not give its layout (R374). DESIGN
CHOICE, log 15. -/
opaque scanByte : List Nat → Nat → Byte
/-- A value the spec does not state for these operands (DESIGN CHOICE, log 16): draw and position. -/
opaque unstated : Nat → Nat → Word
/-- The offset of the HDM decoder capability among the CXL component registers (R267). DESIGN CHOICE, log 65. -/
opaque hdmOffset : Nat
/-- The value of a DVSEC or component register, by its place and by what was last written to it, 0 at reset (R267).
DESIGN CHOICE, log 65. -/
opaque capReg : Nat → Word → Word
/-- Helm-die stepping (R277): letter in [7:4], digit in [3:0]. DESIGN CHOICE, log 5. -/
opaque helmStepping : Byte
/-- Bridge-die stepping, in the same form. DESIGN CHOICE, log 5. -/
opaque bridgeStepping : Byte
/-- SHA-512 of the public keys in OTP key slots 0-3 (R375). DESIGN CHOICE, log 5. -/
opaque otpKey : Nat → BitVec 512
/-- Calibration offset of a field's sensors, in units of 0.25 degrees C, 0-12 (R333). -/
opaque calibration : Nat → Fin 13
/-- A part whose further JTAG instructions are open (R412). DESIGN CHOICE, log 5. -/
opaque jtagOpen : Bool

end Sys2Proof.Config
end

