-- ==== Sys2Proof/Machine/State.lean ====
section
/-!
DEFINITION. The state of SCV-W1152 as plain data: cells and routers by site, fields, bridges, partitions, sessions, the
helm, its Logbook, clocks and pins, and the queue of waiting commands. INVENTORY.md lists each piece with its rule.
-/
namespace Sys2Proof.Machine

/-! ### Memories -/

/-- An addressed store of bytes (R162, R163). `cells` holds the bytes that differ from what an unlisted address reads as;
`gen` is 0 for a store whose unlisted bytes read as zero, else the draw of the free values they read as (R245, R328);
`bad` and `weak` are the 64-bit words with an uncorrectable and a correctable error (R182, R183). -/
structure Memory where
  gen   : Nat
  cells : List Host.Cell
  bad   : List Nat
  weak  : List Nat
deriving DecidableEq, Repr

/-- An exact dyadic number m * 2^e, as the sight unit and the dot units hold sums without rounding (R67, R217). -/
structure Dyadic where
  m : Int
  e : Int
deriving DecidableEq, Repr

/-! ### Cells -/

/-- R57. -/
inductive CellState where
  | idle
  | active
  | frozen
deriving DecidableEq, Repr

/-- One item held in a queue: `since` is the first pulse in which it can be popped (R32, R34). -/
structure QItem where
  data  : Item
  since : Nat
  bad   : Bool
deriving DecidableEq, Repr

/-- A queue (R32-R34): hardware entries, extension ring, the pulses of its last pop and push, the credits it holds as the
source of a stream and, for an inbound queue, the cycles of pops whose credits have still to reach sources: with each the
sources it has reached, site number and queue (R33, R147). `ringIn` and `ringOut` count the items that have entered and left the
ring, which gives the ring addresses of both ends; `lastMove` is the pulse of the last granule move (R34). -/
structure Queue where
  hw      : List QItem
  ring    : List QItem
  lastPop : Option Nat
  lastPut : Option Nat
  credits : Nat
  owed    : List (Nat × List (Nat × Nat))
  ringIn  : Nat
  ringOut : Nat
  lastMove : Option Nat
deriving DecidableEq, Repr

/-- Issue units (R30, R43). The PREDICT unit is a unit of its own: R120 names it, R30 does not list it (DEDUCED, log 40). -/
inductive Exu where
  | dot (n : Nat)
  | vec
  | move
  | acc
  | steer
  | sync
  | strm (n : Nat)
  | dma
  | fn
  | red
  | topk
  | chan
  | gath
  | pred
  | hash
deriving DecidableEq, Repr

/-- What an issued op still has to do (R42): result items for queues, additions into accumulators, a predicate.
`due` is the pulse of its write; `waiting` holds it until a response, a line or an acknowledgement arrives;
`fixed` says that its latency is a number of pulses, for which APPLY waits (R60); `promised` that its result places were
promised at issue (R42), as those of a HASH_DRAIN are not (R129). -/
structure Op where
  id      : Nat
  slot    : Nat
  due     : Nat
  fixed   : Bool
  promised : Bool
  waiting : Bool
  outs    : List (Nat × Item)
  adds    : List (Nat × Bool × Word)
  accLo   : Nat
  accLen  : Nat
  isDot   : Bool
  pred    : Option (Nat × Bool)
deriving DecidableEq, Repr

/-- What a slot carries from firing to firing: its count (R44), firings since START, scale byte positions (R66), a partly
filled target item and scale item (R73, R75), the position in a widening source item with that item and its live mask when it
came through a descriptor, and a partial reduction (R80). -/
structure SlotRun where
  left    : Nat
  retired : Bool
  count   : Nat
  sc0     : Nat
  sc1     : Nat
  part    : List Byte
  scPart  : List Byte
  block   : List Word
  wide    : Nat
  held    : Option (Item × Nat)
  red     : List Word
  pairs   : List (Nat × Word)
deriving DecidableEq, Repr

/-- What a response must do when it arrives (R137): the request kinds of the engines. -/
inductive ReqKind where
  /-- a sync operation of slot `slot`, whose response item goes to the op (R48, R206) -/
  | sync (wait : Bool) (operand : Word)
  /-- a DMA read: the bytes go to the transfer's buffer (R415) -/
  | dmaRead
  /-- a DMA write (R415) -/
  | dmaWrite
  /-- an engine fetch into staging at byte `off`, of `len` bytes, for a group of span number `span` or for the expand ring (R108) -/
  | fetch (off len : Nat) (span : Option Nat) (group : Nat)
  /-- the history read of open span number `k` (R120), and its write (R122) -/
  | histRead (k : Nat)
  | histWrite
  /-- a spill record write (R128) -/
  | spill
  /-- a report to the helm (R226) -/
  | report
deriving DecidableEq, Repr

/-- A request that awaits its response (R139, R261): `age` counts unheld core cycles. -/
structure Req where
  tag    : Nat
  slot   : Nat
  opId   : Nat
  kind   : ReqKind
  dest   : Dword
  age    : Nat
  resend : Option Nat
deriving DecidableEq, Repr

/-- A tile transfer of the DMA (R415): bytes read so far, writes still to be issued and acknowledged. -/
structure Dma where
  opId    : Nat
  slot    : Nat
  srcDesc : Nat
  dstDesc : Nat
  srcAddr : Dword
  dstAddr : Dword
  srcTile : Nat
  dstTile : Nat
  number  : Nat
  buf     : List Host.Cell
  reads   : Nat
  writes  : Nat
  issued  : Bool
  bytes   : Nat
deriving DecidableEq, Repr

/-- Microcode registers and store of a cell (R352). -/
structure Microcode where
  complete : Bool
  crcFail  : Bool
  count    : Nat
  chunks   : Tbl (List Byte)
  badCrc   : Nat
  crc      : Dword
  expect   : Dword
deriving DecidableEq, Repr

/-- A parked waiter of a sync word (R206): requester, tag, operand, and the sync index it named (R201). -/
structure Waiter where
  index : Nat
  mod  : Nat
  x    : Nat
  y    : Nat
  port : Nat
  tag  : Nat
  operand : Word
deriving DecidableEq, Repr

/-- One sync word with its wait list and register halves (R199, R206, R211). -/
structure SyncWord where
  word     : Dword
  waiters  : List Waiter
  heldLo   : Word
  capHi    : Option Word
deriving DecidableEq, Repr

/-- One posted-write entry: channel, granule address in it, byte enables, bytes, who waits for its acknowledgement, and its words (0-7)
that read uncorrectable (R18, R173, R182). -/
structure Pwb where
  chan    : Nat
  granule : Nat
  enables : BitVec 64
  data    : List Byte
  waiting : Option (Nat × Nat × Nat × Nat × Nat)
  opId    : Option Nat
  bad     : List Nat
deriving DecidableEq, Repr

/-- One stream-buffer line: stream, address of its 256 B in channel offsets, data, words read uncorrectable (R175, R183). A line that
one CH_READ reads directly has the number 8 + its op in place of a stream. -/
structure Line where
  stream : Nat
  addr   : Nat
  data   : List Byte
  bad    : List Nat
deriving DecidableEq, Repr

/-- A line fetch in flight; `dead` when an acquire or START has discarded it (R176, R198). `taken` is the line as a CH_READ that waits
for it has read it: a read takes effect in issue order (R98). -/
structure LineFetch where
  stream : Nat
  addr   : Nat
  dead   : Bool
  taken  : Option Line
deriving DecidableEq, Repr

/-- A CH_READ that waits for a line (R175). -/
structure ChWait where
  opId   : Nat
  stream : Nat
  step   : Nat
  desc   : Nat
  lines  : List Nat
deriving DecidableEq, Repr

/-- P-cell channel controller (R173-R178); `lastChan` is the channel of the last request that a P-cell in paired service served (R18). -/
structure PChan where
  strm    : Tbl Word
  scope   : Tbl Word
  pwb     : List Pwb
  lines   : List Line
  fetches : List LineFetch
  waits   : List ChWait
  cnt     : Tbl Word
  fixedSum : Nat
  lastChan : Option Nat
deriving DecidableEq, Repr

/-- EXPAND progress of one slot (R115): stream offsets are counted from the command's ADDR; `hdr` is the header of the tile at
`tileOff` once the engine has read it. -/
structure Expand where
  addr    : Nat
  left    : Nat
  tileOff : Nat
  asked   : Nat
  item    : Nat
  hdr     : Option (BitVec 256)
deriving DecidableEq, Repr

/-- An open span (R117-R123) with its number. Group sets are bit masks. -/
structure Span where
  num      : Nat
  desc     : Nat
  slot     : Nat
  base     : Nat
  gstride  : Nat
  hist     : Nat
  layer    : Nat
  groups   : Nat
  rows     : Nat
  fmt      : Nat
  mx       : Bool
  planned  : Bool
  fetched  : BitVec 64
  missing  : Tbl Nat
  live     : BitVec 64
  checked  : Nat
  misses   : Nat
  emitted  : Nat
deriving DecidableEq, Repr

/-- A drain in progress (R129): its op, and the residue records and the items that carry them; `none` while it waits for spill
acknowledgements. -/
structure Drain where
  opId    : Nat
  slot    : Nat
  residue : Option (Nat × Nat)
deriving DecidableEq, Repr

/-- G-cell engine (R110-R130): progress of EXPAND by slot, open spans with the number of the next, the hash accumulator with the
64-bit words of it that read uncorrectable, and its drain. -/
structure GEng where
  cfg       : Word
  histBase  : Dword
  spillBase : Dword
  spillCap  : Word
  spillCount : Nat
  fallback  : Bool
  fbLayer   : Nat
  cnt       : Tbl Word
  expands   : Tbl Expand
  spans     : List Span
  nextSpan  : Nat
  hash      : Tbl (BitVec 128)
  hashBad   : List Nat
  hashFree  : Nat
  drain     : Option Drain
  collected : Nat
deriving DecidableEq, Repr

/-- An open sight window (R215, R217): exact sums, group results counted, and in `firings` the steps of SRC1's walk, or the firings, taken. -/
structure SightWin where
  d       : Dyadic
  c       : Dyadic
  p       : Dyadic
  q       : Dyadic
  n       : Nat
  firings : Nat
  skip    : Bool
  full    : Bool
  accLo   : Nat
  accHi   : Nat
deriving DecidableEq, Repr

/-- Sight registers (R221) and windows; `done` counts windows of each entry since START. -/
structure Sight where
  entry    : Tbl Word
  window   : Tbl Word
  windows  : Word
  skipped  : Word
  winSum   : Nat
  skipSum  : Nat
  mismatch : Word
  capD     : Word
  capC     : Word
  capTol   : Word
  capInfo  : Word
  captured : Bool
  wins     : Tbl SightWin
  done     : Tbl Nat
deriving DecidableEq, Repr

/-- One cell (R30, R57-R60); `owes` says that a report of retired slots is still to be sent since START (R416). `issueFrom` is the
first pulse in which slots can issue (R41, R60) and `haltFrom` the first in which a STOP or an APPLY keeps them from it (R57, R60);
`wdogWas` is the limit in force in the pulse in which CELL_WDOG_LIMIT was written (R60); `bankUse` lists the SRAM banks that granule
moves and scrub accesses have taken in this pulse (R34, R36, R184); `predWas` and `predCmp` are, once something has written CELL_PRED in this pulse,
what slots read in it and the bits that CMP wrote (R45, R60); `accHeld` holds the accumulator ranges of ops that wrote in this
pulse, with whether each was a DOT (R46); `dataWas` is the data storage as it was at the start of this pulse, once a store through a
descriptor has changed it (R98); `lastIssue` is the last issue: pulse and slot (R89). `accBad`
lists the 64-bit words of the accumulator store that read uncorrectable (R183). -/
structure Cell where
  state      : CellState
  stopping   : Bool
  lockedWrite : Bool
  wdogTrip   : Bool
  faultSt    : Bool
  applyPending : Bool
  wdogLimit  : Word
  wdogWas    : Option Word
  wdogCount  : Nat
  wdogInfo   : Word
  slotEn     : BitVec 64
  slotEnShadow : BitVec 64
  pred       : BitVec 8
  predWas    : Option (BitVec 8)
  predCmp    : BitVec 8
  issueFrom  : Nat
  haltFrom   : Nat
  bankUse    : List Nat
  accHeld    : List (Bool × Nat × Nat)
  faultCode  : Code
  qcfg       : Tbl Word
  qext       : Tbl Word
  lockedWrites : Word
  firings    : Word
  outStalls  : Word
  inStalls   : Word
  slots      : Tbl (BitVec 128)
  descs      : Tbl (BitVec 256)
  storeBad   : List Nat
  queues     : Tbl Queue
  runs       : Tbl SlotRun
  walk       : Tbl Nat
  aflags     : BitVec 5
  eccFixed   : Nat
  accGen     : Nat
  acc        : Tbl Word
  accBad     : List Nat
  data       : Memory
  dataWas    : Option Memory
  lastIssue  : Option (Nat × Nat)
  pulse      : Nat
  busy       : List (Exu × Nat)
  ops        : List Op
  nextOp     : Nat
  reqs       : List Req
  nextTag    : Nat
  epoch      : BitVec 2
  dmas       : List Dma
  owes       : Bool
  gated      : Bool
  quietSince : Nat
  mc         : Option Microcode
  w0         : SyncWord
  w1         : SyncWord
  syncCnt    : Tbl Word
  pc         : PChan
  gc         : GEng
  sg         : Sight
deriving DecidableEq, Repr

/-! ### Routers -/

/-- A dynamic packet (R136) with its fields apart; LEN is the number of payload flits. `damaged` marks a payload whose
CRC check will fail (R140). -/
structure Packet where
  dest    : Dword
  srcMod  : Nat
  srcX    : Nat
  srcY    : Nat
  srcPort : Nat
  dstX    : Nat
  dstY    : Nat
  dstPort : Nat
  cls     : Nat
  detour  : Bool
  down    : Bool
  mc      : Bool
  op      : Nat
  tag     : Nat
  status  : Code
  reason  : Nat
  arg     : Dword
  payload : List Item
  damaged : Bool
deriving DecidableEq, Repr

/-- What a detour-table entry says (R143): a ROUTE with PORT_UP, PORT_DN, DN_VALID, or one of the other types. -/
inductive Detour where
  | route (up dn : Nat) (dnValid : Bool)
  | fenced
  | lost
  | redirect
deriving DecidableEq, Repr

/-- A packet in a router: the input port whose buffer holds it and the first cycle in which it can leave (R139, R141). `tabs`: the
site entry and the field entry for its destination, and for the pair of that, as the tables stood when its header arrived (R146). -/
structure Flight where
  pkt   : Packet
  port  : Nat
  ready : Nat
  tabs  : List (Option Detour × Option Detour)
deriving DecidableEq, Repr

/-- A static flit in a lane buffer (R135); `bad`: a check on its way found an uncorrectable error (R140, R213). -/
structure Flit where
  data  : Item
  bad   : Bool
  ready : Nat
deriving DecidableEq, Repr

/-- A complete sum of a reduction join on its way out, with the first cycle in which it can leave (R147). -/
structure JoinOut where
  sum : Item
  bad : Bool
  due : Nat
deriving DecidableEq, Repr

/-- A reduction join at an output lane (R147): input lanes whose item of the partial sum has been added, that sum (of no use while
`got` is empty), and complete sums, oldest first. -/
structure Join where
  got  : List Nat
  sum  : Item
  bad  : Bool
  outs : List JoinOut
deriving DecidableEq, Repr

/-- A multicast packet held by a tree router (R152): the input port that holds it, the cycle its
last flit arrives, branches open, children awaited, drops counted. -/
structure McHeld where
  tree    : Nat
  pkt     : Packet
  from_   : Nat
  since   : Nat
  open_   : List Nat
  await   : List Nat
  drops   : Nat
deriving DecidableEq, Repr

/-- One router (R132-R159). `updown` none: the value of the start-up order (R145). `used` and `tail` are of each output link
(port number; 5 for the link from the cell into the router): the cycle after that in which it last carried a flit, and the
payload flits still to cross (R133); `rrLane` and `rrVc` the output lane, and the input channel, that it served last. -/
structure Router where
  fence     : Word
  updown    : Option Word
  mcHold    : Word
  wheel     : Tbl Word
  laneMap   : Tbl Word
  dtField   : Tbl Word
  dtSite    : Tbl Word
  mcTree    : Tbl Word
  linkDown  : BitVec 5
  laneFault : BitVec 20
  cnt       : Tbl Word
  lanes     : Tbl (List Flit)
  joins     : Tbl Join
  bufs      : List Flight
  inject    : List Packet
  arrived   : List (Nat × Packet)
  held      : List McHeld
  used      : Tbl Nat
  tail      : Tbl Nat
  rrLane    : Tbl Nat
  rrVc      : Tbl Nat
  total     : Tbl Nat
deriving DecidableEq, Repr

/-! ### Peer lanes -/

/-- R311 states of a lane. -/
inductive LaneState where
  | unconnected
  | training
  | up
  | keepAlive
  | miswired
  | version
deriving DecidableEq, Repr

/-- A request sent over a lane and not yet answered (R302). -/
structure LaneReq where
  x    : Nat
  y    : Nat
  port : Nat
  tag  : Nat
deriving DecidableEq, Repr

/-- One lane of a link die (R291-R305). -/
structure Lane where
  state     : LaneState
  out       : Bool
  ver       : Nat
  peer      : Nat
  peerStep  : Nat
  sendSeq   : Nat
  expectSeq : Nat
  ackSeq    : Nat
  ackAt     : Nat
  replayBuf : List Frame
  replayFrom : Option Nat
  replayUntil : Option Nat
  replaySince : Option Nat
  replayTimes : List Nat
  sinceState : Nat
  sentAck   : Nat
  recvReplay : Option Nat
  nakSeq    : Option Nat
  nakAt     : Nat
  credits   : List Nat
  freed     : List Nat
  sentFreed : List Nat
  peerFreed : List Nat
  tx        : List Item
  rx        : List Item
  rxPkts    : List Packet
  reqs      : List LaneReq
  downAt    : Option Nat
  downTimes : List Nat
  lastFrame : Option Frame
  hello     : Bool
  sentKA    : Bool
  peerKA    : Bool
  peerReplay : Bool
  cleanAt   : Option Nat
  synced    : Bool
  zeroRun   : Nat
  badRun    : Nat
  lockLost  : Option Nat
deriving DecidableEq, Repr

/-! ### Fields -/

/-- R325. -/
inductive PowerState where
  | underway
  | lull
  | doldrums
  | off
deriving DecidableEq, Repr

/-- What a drain saves of a cell (R245 step 2, R328): configuration store, engine registers, retained storage. -/
structure CellSave where
  x      : Nat
  y      : Nat
  cell   : Cell
  stored : List Host.Cell
deriving DecidableEq, Repr

/-- The field record of saved settings (R358): flags, Logbook position, the draw of the training results, lanes out. -/
structure FieldRec where
  towerOk   : Bool
  withdrawn : Bool
  lanesOk   : Bool
  logPos    : Nat
  /-- the draw of its training results (R359) -/
  draw      : Nat
  /-- channels that failed training -/
  failed    : List Nat
  /-- lanes in service, and lanes out until module reset, as 96 × port + lane -/
  laneIn    : List Nat
  laneOut   : List Nat
deriving DecidableEq, Repr

/-- One field: resolution store (R170), base die (R243, R338), power (R325-R337), tower (R163). `coolAt` is the cycle of step 3 of a
thermal shutdown (R156), `lostAt` that of a trip (R157). -/
structure Field where
  frsPart    : Word
  frsRect    : Tbl Word
  frsOut     : Tbl Word
  frsModules : Word
  frsSync    : Tbl Word
  xferTimeout : Word
  power      : PowerState
  sr         : Bool
  rails      : Bool
  tripped    : Bool
  hwThermal  : Bool
  refused    : Bool
  reefReg    : BitVec 4
  reef       : BitVec 4
  gates      : BitVec 64
  fieldGate  : Bool
  gateRefused : Word
  tj         : Int
  sensor     : Nat
  td         : Int
  oscEn      : Bool
  couple     : BitVec 4
  locked     : Bool
  slip       : BitVec 4
  /-- the cycle in which the oscillator started, until the field is LOCKED (R316) -/
  lockSince  : Option Nat
  /-- the cycle in which the rails came up (R324) -/
  litAt      : Nat
  fieldOff   : Bool
  preset     : Bool
  idleSince  : Option Nat
  lullTry    : Option Nat
  entry      : Option Nat
  waking     : Option Nat
  past       : Option Nat
  shutting   : Bool
  coolAt     : Option Nat
  lostAt     : Option Nat
  cxlLast    : Option Nat
  savedCells : List CellSave
  savedSync  : List (Nat × Nat × Nat × Dword)
  savedRouters : List (Nat × Router)
  tower      : Memory
  trained    : Bool
  withdrawn  : Bool
  towerRails : Bool
  railsLatch : Bool
  scrubAt    : Tbl Nat
  refreshed  : Tbl Nat
  settings   : Option FieldRec
  altParent  : Bool
  primaryDead : Bool
  mcBase     : Tbl Microcode
  lostGen    : Nat
deriving DecidableEq, Repr

/-! ### Bridges -/

/-- A command that firmware has copied out of a slot and is executing (R273, R274). -/
structure MbxCmd where
  slot    : Nat
  opcode  : Nat
  version : Nat
  flags   : Nat
  tag     : Word
  length  : Nat
  resv    : Bool
  body    : List Byte
  arrival : Nat
  accepted : Bool
deriving DecidableEq, Repr

/-- A completion record (R281) as firmware produces it, before PHASE is set. -/
structure Completion where
  opcode  : Nat
  version : Nat
  kind    : Nat
  tag     : Word
  status  : Code
  orig    : Code
  slot    : Nat
  body    : List Byte
  noIntr  : Bool
deriving DecidableEq, Repr

/-- A completion kept for duplicates (R264). -/
structure Kept where
  comp : Completion
  at_  : Nat
deriving DecidableEq, Repr

/-- A posted memory write to the host (R195), an output of the device. -/
structure HostWrite where
  addr : Nat
  data : List Byte
deriving DecidableEq, Repr

/-- An entry of the egress coalescer (R285): line address, bytes written, opening cycle, writes to acknowledge. -/
structure Egress where
  line   : Nat
  bytes  : List Host.Cell
  opened : Nat
  acks   : List Packet
deriving DecidableEq, Repr

/-- A host read outstanding for a cell (R155): the request to answer. -/
structure HostRead where
  hostTag : Nat
  pkt     : Packet
deriving DecidableEq, Repr

/-- One bridge die (R265-R290). -/
structure Bridge where
  hostUp      : Bool
  linkUp      : Bool
  /-- the modules that the link runs on (R265) -/
  up          : List Nat
  width       : Nat
  rate        : Nat
  /-- the rate that training reached at the full reference, for the retraining of R319 and R321 -/
  fullRate    : Nat
  leftOut     : List Nat
  retryAt     : Nat
  keepAlive   : Bool
  clkEn       : Word
  gatedStatus : Word
  gatedCount  : Word
  lockedWrites : Word
  evtStatus   : Word
  evtMask     : Word
  evtAddr     : Dword
  cringBase   : Dword
  cringCfg    : Word
  head        : Nat
  tail        : Nat
  phase       : Bool
  egressCfg   : Word
  hwin        : Tbl Word
  imgLo       : Word
  imgHi       : Word
  imgWin      : Memory
  rejected    : Bool
  /-- the base address in BAR0, its low 26 bits zero (R268) -/
  bar0        : Dword
  /-- MSI-X Message Control: Enable in bit 15, Function Mask in bit 14 (R287) -/
  msixCtl     : Word
  /-- written registers of the DVSECs and of the component registers but the HDM decoder (R267) -/
  capRegs     : Tbl Word
  msixTable   : Tbl Word
  msixPending : BitVec 4
  hdmBase     : Dword
  hdmCommitted : Bool
  hdmSize     : Nat
  slotBytes   : Tbl Byte
  owned       : BitVec 16
  doorbells   : List Nat
  executing   : List MbxCmd
  dups        : List MbxCmd
  kept        : List Kept
  version     : Option Nat
  comps       : List Completion
  posted      : List HostWrite
  msix        : List Nat
  lastRead    : List Byte
  egress      : List Egress
  outWritten  : List Nat
  outStore    : List Host.Cell
  lineStoreA  : List Host.Cell
  lineStoreB  : List Host.Cell
  hostReads   : List HostRead
  nextHostTag : Nat
deriving DecidableEq, Repr

/-! ### Programs, sessions, runs -/

/-- A site entry of the image (R381). -/
structure SiteCfg where
  x      : Nat
  y      : Nat
  cls    : Nat
  wdog   : Word
  slotEn : BitVec 64
  pred   : Word
  qcfg   : List Word
  qext   : List Word
  slots  : List (BitVec 128)
  descs  : List (BitVec 256)
  engine : Option (List Byte)
deriving DecidableEq, Repr

/-- A router entry of the image (R382). -/
structure RouteCfg where
  x     : Nat
  y     : Nat
  wheel : List Word
  lanes : List (Nat × Word)
deriving DecidableEq, Repr

/-- A buffer-table entry (R383). -/
structure Buffer where
  kind  : Nat
  scope : Nat
  index : Nat
  addr  : Dword
  size  : Nat
deriving DecidableEq, Repr

/-- A bound-table entry (R252). -/
structure Bound where
  cycles   : List Nat
  pairExtra : Nat
  bucketWrites : Nat
  maskWrites : Nat
  sessionWrites : Nat
  peerXfers : Nat
  outMax   : Nat
  hostRate : Nat
deriving DecidableEq, Repr

/-- A patch write (R384). -/
structure PatchWrite where
  x    : Nat
  y    : Nat
  off  : Nat
  value : Word
  mask : Word
deriving DecidableEq, Repr

/-- A mask-patch entry (R385). -/
structure MaskPatch where
  x    : Nat
  y    : Nat
  desc : Nat
  axis : Nat
  dim  : Nat
  origin : Nat
deriving DecidableEq, Repr

/-- A session-patch entry (R385). -/
structure SessionPatch where
  x    : Nat
  y    : Nat
  off  : Nat
  region : Nat
  disp : Nat
  extent : Nat
deriving DecidableEq, Repr

/-- A sight entry of the image (R386). -/
structure SightCfg where
  x : Nat
  y : Nat
  k : Nat
  entry : Word
  window : Word
deriving DecidableEq, Repr

/-- A sync-use entry (R387). -/
structure SyncUse where
  x : Nat
  y : Nat
  target : Nat
  slot : Nat
  j : Nat
deriving DecidableEq, Repr

/-- A program image as the loader reads it (R377-R387). -/
structure Program where
  measurement : List Byte
  signed  : Bool
  module  : Nat
  mode    : Nat
  rect    : Word
  ndim    : Nat
  nin     : Nat
  nout    : Nat
  fullCoverage : Bool
  kSkew   : Nat
  saveSize : Nat
  kvMin   : Nat
  histMin : Nat
  sites   : List SiteCfg
  routing : List RouteCfg
  buffers : List Buffer
  ladders : List (List Nat)
  bounds  : List Bound
  patches : List (List PatchWrite)
  masks   : List MaskPatch
  session : List SessionPatch
  hist    : List (Nat × Nat × Nat)
  sights  : List SightCfg
  dfx     : Int
  dfy     : Int
  syncUse : List SyncUse
  peers   : List (Nat × Nat × Nat)
deriving DecidableEq, Repr

/-- A resident program (R244): its image, save-area offset, what the last switch-out saved, and the bucket combination that the
saved configuration is patched for (R105). -/
structure Resident where
  prog  : Program
  save  : Nat
  saved : Option (List CellSave)
  comb  : Option Nat
deriving DecidableEq, Repr

/-- A session context (R247). -/
structure Session where
  state    : Nat
  part     : Nat
  program  : Nat
  priority : Nat
  deadline : Nat
  chunk    : Nat
  runs     : Nat
  kvBase   : Nat
  kvSize   : Nat
  histBase : Nat
  histSize : Nat
  lastRun  : Nat
deriving DecidableEq, Repr

/-- An accepted run (R250, R256): arrival, deadline and projected end in Pilot ticks of 20 ns; the wake time of its fields at admission
and the admission itself in core cycles. -/
structure Run where
  id       : Nat
  site     : Nat
  tag      : Word
  version  : Nat
  slot     : Nat
  noIntr   : Bool
  session  : Nat
  progSlot : Nat
  priority : Nat
  arrival  : Nat
  deadline : Nat
  comb     : Nat
  sizes    : List Nat
  wins     : List (Nat × Nat)
  nin      : Nat
  projEnd  : Nat
  wake     : Nat
  admitted : Nat
deriving DecidableEq, Repr

/-- The active run (R258-R260): `stopAt` is the cycle in which its end was found, or it was stopped, and STOP sent; `stopCode` the
code it was stopped with (R259). -/
structure Active where
  run       : Run
  startedAt : Nat
  guardAt   : Nat
  stopAt    : Option Nat
  stopCode  : Option Code
  startedCells : List (Nat × Nat)
  retired   : List (Nat × Nat)
  lastRetired : Nat
  faultCode : Code
  degraded  : Code
  discard   : Bool
  aflags    : BitVec 5
  bytes     : Nat
  outDigest : Option (List Byte)
  inDigest  : List Byte
  sightBase : Nat
  skipBase  : Nat
  pairA     : Dword
  pairB     : Dword
  deadReck  : Bool
deriving DecidableEq, Repr

/-- What INPUT_READ has done for the run at the head of the queue (R258 step 4, R283). -/
structure Inputs where
  runId  : Nat
  digest : List Byte
deriving DecidableEq, Repr

/-- A fix record (R230). -/
structure FixRec where
  mode     : Nat
  flags    : Nat
  seq      : Nat
  runId    : Nat
  tag      : Word
  session  : Nat
  part     : Nat
  status   : Code
  aflags   : BitVec 5
  sightWindows : Nat
  sightSkipped : Nat
  sightResult : Nat
  pairResult : Nat
  time     : Nat
  program  : List Byte
  input    : List Byte
  output   : List Byte
  prev     : List Byte
deriving DecidableEq, Repr

/-- A seal (R233); the signature and KEY_ID are those of draw `draw` and of the attestation key in force. -/
structure Seal where
  part    : Nat
  seq     : Nat
  time    : Nat
  wall    : Nat
  chainId : List Byte
  head    : List Byte
  keyDraw : Nat
  draw    : Nat
deriving DecidableEq, Repr

/-- What is kept of a fix chain that has ended (R231). -/
structure EndedChain where
  records : List FixRec
  seals   : List Seal
deriving DecidableEq, Repr

/-- The run first in the queue with no run active, its actual start (R256), and what the cells held before it: the active program, its
combination, and the session of the run before. -/
structure Head where
  run     : Nat
  at_     : Nat
  slot    : Option Nat
  comb    : Option Nat
  session : Option Nat
deriving DecidableEq, Repr

/-- One partition (R241-R264). `patched` is the run that the cells were last patched for (R258 step 3). -/
structure Partition where
  rect      : Word
  floor     : Nat
  timeout   : Nat
  pairReq   : Bool
  lullIdle  : Nat
  doldIdle  : Nat
  programs  : Tbl Resident
  activeSlot : Option Nat
  comb      : Option Nat
  lastSession : Option Nat
  queue     : List Run
  active    : Option Active
  inputs    : Option Inputs
  nextStart : Nat
  chainOn   : Bool
  chainId   : List Byte
  chainSeq  : Nat
  records   : List FixRec
  seals     : List Seal
  sealAt    : Nat
  sealSeq   : Nat
  resetAt   : Option Nat
  resetTag  : Option Word
  sounding  : List Nat
  epochAt   : Option Nat
  counters  : Tbl Nat
  headAt    : Option Head
  patched   : Option Nat
  ended     : List EndedChain
deriving DecidableEq, Repr

/-! ### Helm -/

/-- Start-up step registers (R340-R343). -/
structure Steps where
  step      : Nat
  state     : Nat
  fast      : Bool
  reason    : Nat
  code      : Code
  runOn     : Bool
  forceFull : Bool
  resetForce : Bool
  warm      : Bool
  fastPath  : Bool
  since     : Nat
deriving DecidableEq, Repr

/-- Helm clock registers (R322) and monitors (R314). -/
structure Clocks where
  helmSrc : Bool
  sel     : Bool
  lockA   : Bool
  lockB   : Bool
  okA     : Bool
  okB     : Bool
  failA   : Bool
  failB   : Bool
  /-- the cycle of the last failure of a crystal that is not good again (R314) -/
  failAtA : Option Nat
  failAtB : Option Nat
  drSet   : Bool
  drEntries : Nat
  /-- core cycles by which the Pilot timers have run ahead in dead reckoning (R319) -/
  drift   : Int
deriving DecidableEq, Repr

/-- Who writes a Logbook record (R367 ORIGIN). -/
inductive Origin where
  | logger
  | firmware
  | bootRom
deriving DecidableEq, Repr

/-- A Logbook record (R367) without its CRC, which is computed from the rest. -/
structure LogRec where
  seq    : Nat
  mono   : Nat
  wall   : Nat
  type   : Nat
  code   : Code
  origin : Origin
  flags  : Nat
  field  : Nat
  site   : Word
  index  : Nat
  addr   : Dword
  detail : List Byte
deriving DecidableEq, Repr

/-- The Logbook (R366-R373). `ring` is newest first; `queue` and `waiting` oldest first; a waiting record carries the
cycle from which it waits. -/
structure Logbook where
  ring     : List LogRec
  count    : Nat
  queue    : List LogRec
  waiting  : List (LogRec × Nat)
  dropped  : Nat
  lost     : Word
  fences   : List Word
  overflow : List (Nat × Word)
  keep     : Option Nat
  wall     : Nat
  wallOk   : Bool
  heldLo   : Tbl Word
  capture  : Tbl Word
  lastWrite : Nat
  stopped  : Bool
deriving DecidableEq, Repr

/-- OTP and fuses (R13, R375, R390). -/
structure Otp where
  keys     : List (BitVec 512)
  shipped  : List (Nat × Nat × Bool)
  rollback : Nat
  revoked  : BitVec 4
deriving DecidableEq, Repr

/-- The firmware image held in helm SRAM and the state it runs in (R346, R389, R375). -/
structure Firmware where
  image    : List Byte
  running  : Bool
  major    : Nat
  minor    : Nat
  svn      : Nat
  measurement : List Byte
  keyDraw  : Nat
  keyMono  : Nat
  microcode : List (List Byte)
deriving DecidableEq, Repr

/-- The summary record (R360). -/
structure Summary where
  valid   : Bool
  major   : Nat
  logPos  : Nat
  /-- the CRC of each field record (R360) -/
  fieldCrc : List Dword
  down    : List (Nat × Nat × Nat)
deriving DecidableEq, Repr

/-- The last packet that the helm has sent on a tree (R151, R153): the count of its MC_DONE, the drops that MC_MISS packets have
named, how it completed, and the numbers of the targets missed (the bitmap). -/
structure McSend where
  pkt    : Packet
  done   : Option Nat
  missed : List (Nat × Nat × Nat)
  result : Option Code
  gone   : List Nat
deriving DecidableEq, Repr

/-- What the order of RTR_UPDOWN was computed over (R145, R350): dead routers, fields not in service and links that have failed
their test, as MESH_TEST found them. -/
structure UpOrder where
  dead : List (Nat × Nat)
  lost : List Nat
  cut  : List (Nat × Nat × Nat)
deriving DecidableEq, Repr

/-- Pins and the SMBus registers (R396, R410, R411). -/
structure Pins where
  inRange   : Bool
  modId     : Nat
  topo      : Nat
  thermtrip : Bool
  smbStatus : Word
  smbMask   : Word
  vin       : Nat
  iin       : Nat
  pin       : Nat
  tjMax     : Word
  tdMax     : Word
  coolIn    : Nat
  coolOut   : Nat
  fields    : Word
  hotSamples : Nat
  lowSamples : Nat
  highSamples : Nat
  smbRead   : Option Word
  smbAra    : Option Byte
  jtag      : Nat
deriving DecidableEq, Repr

/-- The helm: start-up, clocks, firmware, Logbook, defect map, counters, reports. `portCnt` holds at 8 k + j the counters of
peer port k since READY (R311); `reports` pairs each report with the core cycle of its arrival (R227). Of `portCnt`: 0 replays, 1 LINK_DOWN events, 2 duplicates, 3 codewords corrected, 4 failed frames. -/
structure Helm where
  steps    : Steps
  clocks   : Clocks
  otp      : Otp
  fw       : Firmware
  log      : Logbook
  summary  : Summary
  pins     : Pins
  defects  : List (Nat × Nat × Bool)
  order    : Option UpOrder
  lostFields : List Nat
  nextRunId : Nat
  counters : Tbl Nat
  portCnt  : Tbl Nat
  reports  : List (Nat × Packet)
  mcast    : Tbl McSend
  mcWait   : Tbl (List Packet)
  mcPhase  : Bool
  reefAt   : Nat
  service  : Bool
  readyPos : Option Nat
deriving DecidableEq, Repr

/-- The state of the module and the queue of waiting commands. -/
structure State where
  pending    : List Instr
  cycle      : Nat
  mono       : Nat
  /-- the cycle in which the present period of the slow oscillator ends (R313) -/
  slowAt     : Nat
  fresh      : Nat
  cells      : Tbl Cell
  routers    : Tbl Router
  fields     : Tbl Field
  lanes      : Tbl Lane
  bridges    : Tbl Bridge
  partitions : Tbl Partition
  sessions   : Tbl Session
  helm       : Helm
deriving DecidableEq, Repr

/-- The model's own faults. -/
inductive Fault where
  /-- Raised by every command whose operand names no site of the 576 x 576 mesh (R6). Safe: the machine has no such object. -/
  | noSuchSite
  /-- Raised by every command whose operand names no slot, queue, lane, port, tree or word of the object. Safe. -/
  | noSuchPart
  /-- Raised by every command whose operand names no field, channel or bank (R6, R17). Safe. -/
  | noSuchField
  /-- Raised by every command whose operand names no host site or partition (R23, R241). Safe. -/
  | noSuchHostSite
  /-- Raised by every command whose operand names no peer port or lane (R291). Safe. -/
  | noSuchLane
deriving DecidableEq, Repr

/-- Refusals: none but the form the host's table needs. -/
inductive Refusal where
  /-- An arm of the dispatch that has no meaning yet; raised by no meaning. Safe. -/
  | notModelled (mnemonic : String)
deriving DecidableEq, Repr

/-! ### Reset values -/

/-- A store as the model holds it before anything writes it: every byte 0 (DESIGN CHOICE, log 4). -/
def Memory.zero : Memory := { gen := 0, cells := [], bad := [], weak := [] }

/-- An empty queue (R32). -/
def Queue.empty : Queue :=
  { hw := [], ring := [], lastPop := none, lastPut := none, credits := 0, owed := [],
    ringIn := 0, ringOut := 0, lastMove := none }

/-- A slot's run data before START (R44). -/
def SlotRun.reset : SlotRun :=
  { left := 0, retired := false, count := 0, sc0 := 0, sc1 := 0, part := [], scPart := [], block := [], wide := 0,
    held := none, red := [], pairs := [] }

/-- The empty slot (R38): SRC0, SRC1 and CTL read 0xF, every other field 0. -/
def slotReset : BitVec 128 := 0x0000FFF0000000000000000000000000#128

/-- Microcode registers at reset (R352). -/
def Microcode.reset : Microcode :=
  { complete := false, crcFail := false, count := 0, chunks := [], badCrc := 0, crc := 0, expect := 0 }

/-- A sync word at reset (R199). -/
def SyncWord.reset : SyncWord := { word := 0, waiters := [], heldLo := 0, capHi := none }

/-- A channel controller at reset (R177, R178). -/
def PChan.reset : PChan :=
  { strm := [], scope := [], pwb := [], lines := [], fetches := [], waits := [], cnt := [], fixedSum := 0, lastChan := none }

/-- GC_CFG at reset (R110): THRESH 10, MISS_BUDGET 8, PRED_EN 1. -/
def gcCfgReset : Word := 0x000A0801#32

/-- A gather-merge engine at reset (R110, R111). -/
def GEng.reset : GEng :=
  { cfg := gcCfgReset, histBase := 0, spillBase := 0, spillCap := 0, spillCount := 0, fallback := false, fbLayer := 0,
    cnt := [], expands := [], spans := [], nextSpan := 0, hash := [], hashBad := [], hashFree := 0, drain := none, collected := 0 }

/-- Sight registers at reset (R221). -/
def Sight.reset : Sight :=
  { entry := [], window := [], windows := 0, skipped := 0, winSum := 0, skipSum := 0, mismatch := 0, capD := 0, capC := 0, capTol := 0, capInfo := 0,
    captured := false, wins := [], done := [] }

/-- A cell at reset (R57, R59). In part DESIGN CHOICE, log 4. -/
def Cell.reset : Cell :=
  { state := .idle, stopping := false, lockedWrite := false, wdogTrip := false, faultSt := false, applyPending := false,
    wdogLimit := 0x00010000#32, wdogWas := none, wdogCount := 0, wdogInfo := 0, slotEn := 0, slotEnShadow := 0, pred := 0, predWas := none, predCmp := 0,
    issueFrom := 0, haltFrom := 0, bankUse := [], accHeld := [], faultCode := 0,
    qcfg := [], qext := [], lockedWrites := 0, firings := 0, outStalls := 0, inStalls := 0, slots := [], descs := [],
    storeBad := [], queues := [], runs := [], walk := [], aflags := 0, eccFixed := 0, accGen := 0, acc := [], accBad := [],
    data := Memory.zero, dataWas := none, lastIssue := none, pulse := 0, busy := [], ops := [], nextOp := 0, reqs := [], nextTag := 0, epoch := 0, dmas := [],
    owes := false, gated := false, quietSince := 0, mc := none, w0 := SyncWord.reset, w1 := SyncWord.reset,
    syncCnt := [], pc := PChan.reset, gc := GEng.reset, sg := Sight.reset }

/-- RTR_WHEEL at reset (R133, R158). -/
def wheelReset : Word := 0x00000101#32

/-- A router at reset (R158). -/
def Router.reset : Router :=
  { fence := 0, updown := none, mcHold := 0x00001000#32, wheel := [], laneMap := [], dtField := [], dtSite := [],
    mcTree := [], linkDown := 0, laneFault := 0, cnt := [], lanes := [], joins := [], bufs := [], inject := [],
    arrived := [], held := [], used := [], tail := [], rrLane := [], rrVc := [], total := [] }

/-- A lane before PEERS. In part DESIGN CHOICE, log 4. -/
def Lane.reset : Lane :=
  { state := .unconnected, out := false, ver := 0, peer := 0xFF, peerStep := 0, sendSeq := 0, expectSeq := 0, ackSeq := 4095,
    ackAt := 0, replayBuf := [], replayFrom := none, replayUntil := none, replaySince := none, replayTimes := [],
    sinceState := 0, sentAck := 4095, recvReplay := none, nakSeq := none, nakAt := 0, credits := [288, 288, 288, 288],
    freed := [0, 0, 0, 0], sentFreed := [0, 0, 0, 0], peerFreed := [0, 0, 0, 0], tx := [], rx := [], rxPkts := [], reqs := [], downAt := none,
    downTimes := [], lastFrame := none, hello := false, sentKA := false, peerKA := false, peerReplay := false, cleanAt := none,
    synced := false, zeroRun := 0, badRun := 0, lockLost := none }

/-- A field after a cold start (R339): Doldrums, no rail up, tower not trained. In part DESIGN CHOICE, log 4. -/
def Field.reset : Field :=
  { frsPart := 0, frsRect := [], frsOut := [], frsModules := 0, frsSync := [], xferTimeout := 0x00000032#32,
    power := .doldrums, sr := false, rails := false, tripped := false, hwThermal := false, refused := false,
    reefReg := 0, reef := 0, gates := 0, fieldGate := false, gateRefused := 0, tj := 0, sensor := 0, td := 0,
    oscEn := false, couple := 0, locked := false, slip := 0, lockSince := none, litAt := 0, fieldOff := false, preset := false,
    idleSince := none, lullTry := none, entry := none, waking := none, past := none, shutting := false, coolAt := none, lostAt := none, cxlLast := none,
    savedCells := [], savedSync := [], savedRouters := [], tower := Memory.zero, trained := false, withdrawn := false, towerRails := false,
    railsLatch := false, scrubAt := [], refreshed := [], settings := none, altParent := false, primaryDead := false, mcBase := [], lostGen := 0 }

/-- BRW_CRING_CFG at reset (R271): EN 0, LOG2SIZE 9. -/
def cringCfgReset : Word := 0x00000009#32

/-- A bridge at power-up (R271, R339). In part DESIGN CHOICE, log 4. -/
def Bridge.reset : Bridge :=
  { hostUp := false, linkUp := false, up := [], width := 16, rate := 4, fullRate := 4, leftOut := [], retryAt := 0, keepAlive := false,
    clkEn := 0x0000007E#32, gatedStatus := 0, gatedCount := 0, lockedWrites := 0, evtStatus := 0, evtMask := 0, evtAddr := 0,
    cringBase := 0, cringCfg := cringCfgReset, head := 0, tail := 0, phase := true, egressCfg := 20, hwin := [],
    imgLo := 0, imgHi := 0, imgWin := Memory.zero, rejected := false, bar0 := 0, msixCtl := 0, capRegs := [], msixTable := [], msixPending := 0,
    hdmBase := 0, hdmCommitted := false, hdmSize := 0, slotBytes := [], owned := 0, doorbells := [], executing := [], dups := [],
    kept := [], version := none, comps := [], posted := [], msix := [], lastRead := [], egress := [], outWritten := [],
    outStore := [], lineStoreA := [], lineStoreB := [], hostReads := [], nextHostTag := 0 }

/-- A partition that does not exist (R241, R242). -/
def Partition.reset : Partition :=
  { rect := 0, floor := 4, timeout := 50, pairReq := false, lullIdle := 1000, doldIdle := 10000, programs := [],
    activeSlot := none, comb := none, lastSession := none, queue := [], active := none, inputs := none,
    nextStart := 0, chainOn := false, chainId := [], chainSeq := 0, records := [], seals := [], sealAt := 0, sealSeq := 0,
    resetAt := none, resetTag := none, sounding := [], epochAt := none, counters := [], headAt := none, patched := none, ended := [] }

/-- A closed session context (R247). -/
def Session.closed : Session :=
  { state := 0, part := 0, program := 0, priority := 0, deadline := 0, chunk := 0, runs := 0, kvBase := 0, kvSize := 0,
    histBase := 0, histSize := 0, lastRun := 0 }

/-- Step registers at reset (R341). -/
def Steps.reset : Steps :=
  { step := 0, state := 0, fast := false, reason := 0, code := 0, runOn := false, forceFull := false, resetForce := false,
    warm := false, fastPath := false, since := 0 }

/-- Helm clock registers at reset (R322). -/
def Clocks.reset : Clocks :=
  { helmSrc := false, sel := false, lockA := false, lockB := false, okA := false, okB := false, failA := false,
    failB := false, failAtA := none, failAtB := none, drSet := false, drEntries := 0, drift := 0 }

/-- No firmware (R339). -/
def Firmware.none : Firmware :=
  { image := [], running := false, major := 0, minor := 0, svn := 0, measurement := [], keyDraw := 0, keyMono := 0,
    microcode := [] }

/-- The POWER_ON record of the first power-up: SEQ 0, MONO 0 (R366, R368). -/
def powerOnFirst : LogRec :=
  { seq := 0, mono := 0, wall := 0, type := 1, code := 0, origin := .logger, flags := 0, field := 0xFFFF,
    site := 0xFFFFFFFF#32, index := 0, addr := 0, detail := [] }

/-- The Logbook at the first power-up (R366). -/
def Logbook.first : Logbook :=
  { ring := [powerOnFirst], count := 1, queue := [], waiting := [], dropped := 0, lost := 0, fences := [], overflow := [],
    keep := Option.none, wall := 0, wallOk := false, heldLo := [], capture := [], lastWrite := 0, stopped := false }

/-- SMB_FIELDS at reset (R411): 144 fields in Doldrums. -/
def smbFieldsReset : Word := 0x00009000#32

/-- Pins and SMBus registers at power-up (R396, R411). In part DESIGN CHOICE, log 4; DESIGN CHOICE, log 5; PRESUMED, log 6. -/
def Pins.reset : Pins :=
  { inRange := true, modId := 0, topo := 0, thermtrip := false, smbStatus := 0, smbMask := 0, vin := 0, iin := 0, pin := 0,
    tjMax := 0, tdMax := 0, coolIn := 0, coolOut := 0, fields := smbFieldsReset, hotSamples := 0, lowSamples := 0,
    highSamples := 0, smbRead := none, smbAra := none, jtag := 1 }

/-- The helm at power-up of a module as shipped (R339, R366). In part DESIGN CHOICE, log 5. -/
def Helm.reset : Helm :=
  { steps := Steps.reset, clocks := Clocks.reset, otp := { keys := (List.range 4).map Config.otpKey, shipped := [], rollback := 0, revoked := 0 },
    fw := Firmware.none, log := Logbook.first, summary := { valid := false, major := 0, logPos := 0, fieldCrc := [], down := [] },
    pins := Pins.reset, defects := [], order := Option.none, lostFields := [], nextRunId := 0,
    counters := [], portCnt := [], reports := [], mcast := [], mcWait := [], mcPhase := false, reefAt := 0, service := false, readyPos := Option.none }

/-- The machine right after a cold reset: power-up of the module as shipped, before any start-up step (R339). -/
def State.reset : State :=
  { pending := [], cycle := 0, mono := 0, slowAt := 0, fresh := 1, cells := [], routers := [], fields := [], lanes := [], bridges := [],
    partitions := [], sessions := [], helm := Helm.reset }

end Sys2Proof.Machine
end

