-- ==== Sys2Proof/Machine/Ops.lean ====
section
/-!
DEFINITION. The named operations over the state: sparse tables, bit fields, bytes and items, addressed stores, access to
sites, fields, lanes, bridges and partitions, the Logbook's queue, saturating counters, reports and the freezing of a cell.
-/
namespace Sys2Proof.Machine

/-- What a command answers. -/
abbrev Res := Host.Outcome State Fault Refusal

/-! ### Sparse tables. In part DESIGN CHOICE, log 48. -/
def tget {α : Type} : Tbl α → Nat → Option α
  | [], _ => none
  | (j, a) :: t, k => if j = k then some a else tget t k

def tgetD {α : Type} (t : Tbl α) (k : Nat) (d : α) : α := (tget t k).getD d

/-- Insertion in rising order of numbers. -/
def tset {α : Type} : Tbl α → Nat → α → Tbl α
  | [], k, v => [(k, v)]
  | (j, a) :: t, k, v =>
    if k < j then (k, v) :: (j, a) :: t
    else if j = k then (k, v) :: t
    else (j, a) :: tset t k v

def tdel {α : Type} (t : Tbl α) (k : Nat) : Tbl α := t.filter (fun p => decide (p.1 ≠ k))

def tmap {α : Type} (f : Nat → α → α) (t : Tbl α) : Tbl α := t.map (fun p => (p.1, f p.1 p.2))

/-- Every number of a list given one value. -/
def tsetAll {α : Type} (t : Tbl α) (ks : List Nat) (f : Nat → α) : Tbl α := ks.foldl (fun t k => tset t k (f k)) t

/-! ### Lists -/

/-- The elements at an index, replaced. -/
def lset {α : Type} : List α → Nat → α → List α
  | [], _, _ => []
  | _ :: t, 0, v => v :: t
  | a :: t, k + 1, v => a :: lset t k v

def lgetD {α : Type} (l : List α) (k : Nat) (d : α) : α := (l[k]?).getD d

/-- The first element that meets a test, with the list without it. -/
def takeFirst {α : Type} (p : α → Bool) : List α → Option (α × List α)
  | [] => none
  | a :: t => if p a then some (a, t) else (takeFirst p t).map (fun r => (r.1, a :: r.2))

/-- Insertion before the first element that `le` puts after it; insertion sort. -/
def insertBy {α : Type} (le : α → α → Bool) (a : α) : List α → List α
  | [] => [a]
  | b :: t => if le a b then a :: b :: t else b :: insertBy le a t

def sortBy {α : Type} (le : α → α → Bool) (l : List α) : List α := l.foldr (insertBy le) []

/-- Each element once, the first of its equals kept. -/
def dedup {α : Type} [BEq α] (l : List α) : List α := l.foldl (fun acc k => if acc.contains k then acc else acc ++ [k]) []

/-- `n` copies. -/
def copies {α : Type} : Nat → α → List α
  | 0, _ => []
  | n + 1, a => a :: copies n a

/-! ### Bit fields -/

/-- Bits [hi:lo] of a word as a number. -/
def fld {w : Nat} (v : BitVec w) (hi lo : Nat) : Nat := (v.toNat >>> lo) % 2 ^ (hi + 1 - lo)

def bitB {w : Nat} (v : BitVec w) (k : Nat) : Bool := v.getLsbD k

/-- A word with bits [hi:lo] replaced. -/
def setFld {w : Nat} (v : BitVec w) (hi lo x : Nat) : BitVec w :=
  let n := 2 ^ (hi + 1 - lo)
  BitVec.ofNat w ((v.toNat % 2 ^ lo) + (x % n) * 2 ^ lo + (v.toNat / 2 ^ (hi + 1)) * 2 ^ (hi + 1))

def setBit {w : Nat} (v : BitVec w) (k : Nat) (b : Bool) : BitVec w := setFld v k k (if b then 1 else 0)

def b2n (b : Bool) : Nat := if b then 1 else 0

def word (n : Nat) : Word := BitVec.ofNat 32 n
def dword (n : Nat) : Dword := BitVec.ofNat 64 n

/-- The high and low halves of a 64-bit value. -/
def hi32 (d : Dword) : Word := word (d.toNat / 2 ^ 32)
def lo32 (d : Dword) : Word := word (d.toNat % 2 ^ 32)
def join32 (hi lo : Word) : Dword := dword (hi.toNat * 2 ^ 32 + lo.toNat)

/-- Saturating 32-bit addition (the counters of R59, R111, R159, R178, R212, R221). -/
def satAdd (w : Word) (n : Nat) : Word := if w.toNat + n < 2 ^ 32 then word (w.toNat + n) else 0xFFFFFFFF#32

def satInc (w : Word) : Word := satAdd w 1

/-- A numbered 32-bit counter of a table, advanced. -/
def cntAdd (t : Tbl Word) (k n : Nat) : Tbl Word := tset t k (satAdd (tgetD t k 0) n)

/-- Sign of a two's complement number. -/
def sext (bits n : Nat) : Int := if n < 2 ^ (bits - 1) then (n : Int) else (n : Int) - 2 ^ bits

/-- A two's complement encoding. -/
def twos (bits : Nat) (z : Int) : Nat := (z % (2 ^ bits : Nat)).toNat

/-! ### Bytes and items -/

def leNat : List Byte → Nat
  | [] => 0
  | b :: t => b.toNat + 256 * leNat t

def leBytes : Nat → Nat → List Byte
  | 0, _ => []
  | n + 1, v => BitVec.ofNat 8 (v % 256) :: leBytes n (v / 256)

/-- Big-endian bytes of a number. -/
def beBytes (n v : Nat) : List Byte := (leBytes n v).reverse

def beNat (l : List Byte) : Nat := leNat l.reverse

/-- Little-endian field of `n` bytes at offset `o` of a byte string (R8). -/
def leAt (l : List Byte) (o n : Nat) : Nat := leNat ((l.drop o).take n)

def byteAt (l : List Byte) (o : Nat) : Nat := (lgetD l o 0).toNat

/-- A byte string padded with zeros, or cut, to `n` bytes. -/
def padTo (n : Nat) (l : List Byte) : List Byte := (l ++ copies (n - l.length) 0).take n

def zeros (n : Nat) : List Byte := copies n 0

def allZero (l : List Byte) : Bool := l.all (fun b => b = 0)

def itemByte (it : Item) (k : Nat) : Byte := BitVec.ofNat 8 (it.toNat >>> (8 * k))

def itemBytes (it : Item) : List Byte := leBytes 32 it.toNat

def itemOf (l : List Byte) : Item := BitVec.ofNat 256 (leNat l)

/-- Bytes [o, o + n) of an item as a number. -/
def itemLe (it : Item) (o n : Nat) : Nat := (it.toNat >>> (8 * o)) % 256 ^ n

/-- Flits as bytes, and bytes as flits (R136). -/
def flitsBytes (l : List Item) : List Byte := l.flatMap itemBytes

def bytesFlits : Nat → List Byte → List Item
  | 0, _ => []
  | n + 1, l => itemOf (l.take 32) :: bytesFlits n (l.drop 32)

/-- Words as bytes. -/
def wordBytes (w : Word) : List Byte := leBytes 4 w.toNat

/-! ### Addressed stores (R162, R163, R182, R183) -/

/-- What a byte that is not listed reads as: 0, or the free value of its draw. In part DESIGN CHOICE, log 3; DESIGN CHOICE, log 8. -/
def Memory.dflt (m : Memory) (a : Nat) : Byte := if m.gen = 0 then 0 else Config.freeByte m.gen a

/-- In part DESIGN CHOICE, log 8. -/
def Memory.byte (m : Memory) (a : Nat) : Byte := (tget m.cells a).getD (m.dflt a)

/-- The write of one byte; writing what an unlisted byte reads as removes the entry. -/
def Memory.put (m : Memory) (a : Nat) (b : Byte) : Memory :=
  { m with cells := if b = m.dflt a then tdel m.cells a else tset m.cells a b }

/-- Strictly rising addresses. -/
def rising : List Host.Cell → Bool
  | [] => true
  | [_] => true
  | p :: q :: t => p.1 < q.1 && rising (q :: t)

/-- The canonical form: rising addresses, and no entry equal to what an unlisted address reads as. In part DESIGN CHOICE, log 8. -/
def Memory.wf (m : Memory) : Bool := rising m.cells && m.cells.all (fun p => decide (p.2 ≠ m.dflt p.1))

/-- The byte addresses [a, a + n). -/
def span (a n : Nat) : List Nat := (List.range n).map (fun k => a + k)

def Memory.read (m : Memory) (a n : Nat) : List Byte := (span a n).map m.byte

/-- 64-bit words that hold the given bytes. -/
def wordsOf (addrs : List Nat) : List Nat := dedup (addrs.map (fun a => a / 8))

/-- The first word among these bytes with an uncorrectable error (R183). -/
def Memory.badWord (m : Memory) (addrs : List Nat) : Option Nat := (wordsOf addrs).find? (fun w => m.bad.contains w)

/-- Words of these bytes with a correctable error. -/
def Memory.weakOf (m : Memory) (addrs : List Nat) : List Nat := m.weak.filter (fun w => (wordsOf addrs).contains w)

/-- A read corrects a single-bit error and writes the word back (R182). In part DEDUCED, log 39. -/
def Memory.heal (m : Memory) (addrs : List Nat) : Memory :=
  { m with weak := m.weak.filter (fun w => ! (wordsOf addrs).contains w) }

/-- Words that a write covers whole: their errors are cleared (R182). -/
def wholeWords (l : List Host.Cell) : List Nat :=
  (wordsOf (l.map (·.1))).filter (fun w => (span (8 * w) 8).all (fun a => (tget l a).isSome))

/-- The write of listed bytes under byte enables: whole words get fresh check bits (R182). In part DEDUCED, log 39. -/
def Memory.write (m : Memory) (l : List Host.Cell) : Memory :=
  let m' := l.foldl (fun m p => m.put p.1 p.2) m
  { m' with bad := m'.bad.filter (fun w => ! (wholeWords l).contains w),
            weak := m'.weak.filter (fun w => ! (wordsOf (l.map (·.1))).contains w) }

/-- Words that a write touches only in part (R183, fourth row). In part DEDUCED, log 39. -/
def partialBad (m : Memory) (l : List Host.Cell) : Option Nat :=
  ((wordsOf (l.map (·.1))).filter (fun w => ! (wholeWords l).contains w)).find? (fun w => m.bad.contains w)

/-- Words with a correctable error that a write reads and merges because it touches them only in part (R182). -/
def Memory.weakPartial (m : Memory) (l : List Host.Cell) : List Nat :=
  (m.weakOf (l.map (·.1))).filter (fun w => ! (wholeWords l).contains w)

/-- Consecutive bytes as listed bytes. -/
def cellsAt (a : Nat) : List Byte → List Host.Cell
  | [] => []
  | b :: t => (a, b) :: cellsAt (a + 1) t

/-- Consecutive bytes under byte enables. -/
def cellsUnder (a : Nat) (en : Nat → Bool) (l : List Byte) : List Host.Cell :=
  (cellsAt a l).filter (fun p => en (p.1 - a))

/-- A store whose contents are not preserved: every byte reads as a free value of the draw (R245, R328). -/
def Memory.lost (draw : Nat) : Memory := { gen := draw, cells := [], bad := [], weak := [] }

/-! ### Sites, fields, classes (R6, R7) -/

/-- Cell classes, with the codes of CELL_ID (R59). -/
inductive Cls where
  | c
  | m
  | f
  | p
  | g
deriving DecidableEq, Repr

def Cls.code : Cls → Nat
  | .c => 0
  | .m => 1
  | .f => 2
  | .p => 3
  | .g => 4

/-- The class of a site (R7). -/
def clsOf (x y : Nat) : Cls :=
  let i := x % 6
  let j := y % 6
  if i = 0 ∧ j = 0 then .p
  else if i = 3 ∧ j = 3 then .g
  else if (i = 3 ∧ j = 0) ∨ (i = 0 ∧ j = 3) then .f
  else if (i = 1 ∨ i = 4) ∧ (j = 1 ∨ j = 4) then .m
  else .c

/-- In part DESIGN CHOICE, log 7. -/
def siteOk (x y : Nat) : Bool := x < 576 && y < 576

def siteIx (x y : Nat) : Nat := y * 576 + x

/-- Field index of a site (R6). -/
def fieldOf (x y : Nat) : Nat := (y / 48) * 12 + x / 48

/-- Channel of a P-site (R17). -/
def chanOf (x y : Nat) : Nat := ((x % 48) / 6) + 8 * ((y % 48) / 6)

/-- The P-site that owns channel `c` of field `f` (R17). -/
def pSite (f c : Nat) : Nat × Nat := (48 * (f % 12) + 6 * (c % 8), 48 * (f / 12) + 6 * (c / 8))

/-- Data storage of a class in bytes (R162). -/
def storeSize : Cls → Nat
  | .c => 98304
  | .m => 524288
  | .g => 32768
  | _ => 0

/-- The link-lane G-sites (R21): lane q of a field at its local site. -/
def laneSite (f q : Nat) : Nat × Nat :=
  (48 * (f % 12) + (if q % 2 = 0 then 9 else 39), 48 * (f / 12) + (if q / 2 = 0 then 9 else 39))

/-- The lane q of a link-lane G-site. -/
def laneAt (x y : Nat) : Option Nat :=
  let i := x % 48
  let j := y % 48
  if (i = 9 ∨ i = 39) ∧ (j = 9 ∨ j = 39) then some ((if i = 39 then 1 else 0) + (if j = 39 then 2 else 0)) else none

/-- The host site whose bridge landing joins this router, with the port (R23). -/
def landingOf (x y : Nat) : Option (Nat × Nat) :=
  if y = 0 ∧ 240 ≤ x ∧ x ≤ 335 then some (0, 0)
  else if x = 575 ∧ 240 ≤ y ∧ y ≤ 335 then some (1, 1)
  else if y = 575 ∧ 240 ≤ x ∧ x ≤ 335 then some (2, 2)
  else if x = 0 ∧ 240 ≤ y ∧ y ≤ 335 then some (3, 3)
  else none

/-- The helm landings (R26). -/
def helmLanding (x y : Nat) : Bool := y = 0 && 212 ≤ x && x ≤ 219

/-- Landing routers of a host site in ascending order along the edge. -/
def landings (s : Nat) : List (Nat × Nat) :=
  (List.range 96).map (fun k =>
    if s = 0 then (240 + k, 0) else if s = 1 then (575, 240 + k) else if s = 2 then (240 + k, 575) else (0, 240 + k))

/-! ### Objects of the state -/

/-- Draw number of the contents of one thing of a draw: site or field number. -/
def genOf (g ix : Nat) : Nat := g * 2 ^ 20 + ix

/-- A cell that nothing has touched since its field's wafer side was lost in draw `g`, or since reset (`g` = 0): registers at
reset; storage, accumulators and predicates that no rule gives a value (R328). In part DESIGN CHOICE, log 3; DESIGN CHOICE, log 48. -/
def cellDefault (g ix : Nat) : Cell :=
  if g = 0 then Cell.reset
  else { Cell.reset with data := Memory.lost (genOf g ix), accGen := genOf g ix,
                         pred := (Config.freeWord (genOf g ix) 4096).setWidth 8 }

/-- In part DESIGN CHOICE, log 48. -/
def State.cell (s : State) (x y : Nat) : Cell :=
  tgetD s.cells (siteIx x y) (cellDefault (tgetD s.fields (fieldOf x y) Field.reset).lostGen (siteIx x y))

def State.setCell (s : State) (x y : Nat) (c : Cell) : State := { s with cells := tset s.cells (siteIx x y) c }

def State.onCell (s : State) (x y : Nat) (f : Cell → Cell) : State := s.setCell x y (f (s.cell x y))

/-- In part DESIGN CHOICE, log 48. -/
def State.router (s : State) (x y : Nat) : Router := tgetD s.routers (siteIx x y) Router.reset

def State.onRouter (s : State) (x y : Nat) (f : Router → Router) : State :=
  { s with routers := tset s.routers (siteIx x y) (f (s.router x y)) }

/-- In part DESIGN CHOICE, log 48. -/
def State.field (s : State) (f : Nat) : Field := tgetD s.fields f Field.reset

def State.onField (s : State) (f : Nat) (g : Field → Field) : State :=
  { s with fields := tset s.fields f (g (s.field f)) }

/-- Lane `n` of port `k` is numbered 96 k + n. -/
def State.lane (s : State) (k n : Nat) : Lane := tgetD s.lanes (96 * k + n) Lane.reset

def State.onLane (s : State) (k n : Nat) (g : Lane → Lane) : State :=
  { s with lanes := tset s.lanes (96 * k + n) (g (s.lane k n)) }

def State.bridge (s : State) (h : Nat) : Bridge := tgetD s.bridges h Bridge.reset

def State.onBridge (s : State) (h : Nat) (g : Bridge → Bridge) : State :=
  { s with bridges := tset s.bridges h (g (s.bridge h)) }

def State.part (s : State) (p : Nat) : Partition := tgetD s.partitions p Partition.reset

def State.onPart (s : State) (p : Nat) (g : Partition → Partition) : State :=
  { s with partitions := tset s.partitions p (g (s.part p)) }

def State.session (s : State) (n : Nat) : Session := tgetD s.sessions n Session.closed

def State.onSession (s : State) (n : Nat) (g : Session → Session) : State :=
  { s with sessions := tset s.sessions n (g (s.session n)) }

def State.onHelm (s : State) (g : Helm → Helm) : State := { s with helm := g s.helm }

def State.onLog (s : State) (g : Logbook → Logbook) : State := s.onHelm (fun h => { h with log := g h.log })

def State.onPins (s : State) (g : Pins → Pins) : State := s.onHelm (fun h => { h with pins := g h.pins })

def State.onSteps (s : State) (g : Steps → Steps) : State := s.onHelm (fun h => { h with steps := g h.steps })

def State.onClocks (s : State) (g : Clocks → Clocks) : State := s.onHelm (fun h => { h with clocks := g h.clocks })

/-- A free value has been drawn: the next one is another. DESIGN CHOICE, log 3. -/
def State.draw (s : State) : State := { s with fresh := s.fresh + 1 }

/-! ### Defects (R13, R14) -/

/-- The cell body of a site is out of service. -/
def State.bodyOut (s : State) (x y : Nat) : Bool := s.helm.defects.any (fun d => d.1 = x && d.2.1 = y)

/-- The router of a site is dead. -/
def State.routerDead (s : State) (x y : Nat) : Bool := s.helm.defects.any (fun d => d.1 = x && d.2.1 = y && d.2.2)

/-- The P-cell of a channel is out of service. -/
def State.chanOut (s : State) (f c : Nat) : Bool := s.bodyOut (pSite f c).1 (pSite f c).2

/-- The P-site that serves a channel: its own, or its pair's when its own body is out (R18). -/
def State.server (s : State) (f c : Nat) : Nat × Nat := if s.chanOut f c then pSite f (Nat.xor c 1) else pSite f c

/-- The P-cell at a site serves its pair's channel as well as its own (R18). -/
def State.servesPair (s : State) (x y : Nat) : Bool := clsOf x y = .p && s.chanOut (fieldOf x y) (Nat.xor (chanOf x y) 1)

/-! ### Time (DESIGN CHOICE, log 2) -/

/-- Core cycles in a microsecond. In part DESIGN CHOICE, log 2. -/
def usec : Nat := 1900

/-- Core cycles in a millisecond. In part DESIGN CHOICE, log 2. -/
def msec : Nat := 1900000

/-- Pilot ticks of 20 ns since power-up (R250), by the crystal, or in dead reckoning by the fast RC oscillator (R319). In part DESIGN
CHOICE, log 2. -/
def State.ticks (s : State) : Nat := ((s.cycle : Int) + s.helm.clocks.drift).toNat / 38

/-- The core cycle in which a Pilot tick begins, as the timers now stand. -/
def State.cycleOf (s : State) (tick : Nat) : Nat := ((38 * tick : Int) - s.helm.clocks.drift).toNat

/-! ### Fault codes (R239) -/

def codeOk : Code := 0x0000
def admitDeadline : Code := 0x0101
def admitBusy : Code := 0x0102
def admitNoBucket : Code := 0x0103
def admitClock : Code := 0x0104
def loadFormat : Code := 0x0201
def loadMeasurement : Code := 0x0202
def loadBufferSize : Code := 0x0203
def loadAlignment : Code := 0x0204
def loadCount : Code := 0x0205
def loadAccumCapacity : Code := 0x0206
def loadQueueExtension : Code := 0x0207
def loadRange : Code := 0x0208
def memUncorrectable : Code := 0x0301
def memScrubUncorrectable : Code := 0x0302
def fabFencedTarget : Code := 0x0401
def fabDetourLost : Code := 0x0402
def fabMulticastPartial : Code := 0x0403
def fabReconvergenceStall : Code := 0x0404
def syncUnderflow : Code := 0x0501
def syncOverflow : Code := 0x0502
def syncGeneration : Code := 0x0503
def sightMismatch : Code := 0x0601
def pairMismatch : Code := 0x0602
def functionMismatch : Code := 0x0603
def reduceMismatch : Code := 0x0604
def thermalCritical : Code := 0x0701
def fieldPowerLost : Code := 0x0702
def clockDeadReckoning : Code := 0x0703
def codeLinkDown : Code := 0x0801
def codeTransferTimeout : Code := 0x0802
def mbxUnknownCommand : Code := 0x0901
def mbxVersion : Code := 0x0902
def mbxDuplicate : Code := 0x0903
def secImageSignature : Code := 0x0A01
def secRollback : Code := 0x0A02
def runCancelled : Code := 0x0B01

/-! ### The Logbook's queue (R367, R369, R371) -/

/-- A record before the logger accepts it: no field, no site. -/
def recOf (type : Nat) (origin : Origin) : LogRec :=
  { seq := 0, mono := 0, wall := 0, type := type, code := 0, origin := origin, flags := 0, field := 0xFFFF,
    site := 0xFFFFFFFF#32, index := 0, addr := 0, detail := [] }

/-- SITE of a record: x, y and port (R367). -/
def siteWord (x y port : Nat) : Word := word (x + y * 2 ^ 16 + port * 2 ^ 28)

/-- The logger accepts a record into its queue: MONO and WALL are those of this moment (R367, R369). -/
def Logbook.accept (l : Logbook) (mono : Nat) (r : LogRec) : Logbook :=
  { l with queue := l.queue ++ [{ r with mono := mono, wall := l.wall, flags := r.flags + (if l.wallOk then 4 else 0) }] }

/-- A record of firmware or the boot ROM: it waits when the queue is full (R369). -/
def Logbook.soft (l : Logbook) (cycle mono : Nat) (r : LogRec) : Logbook :=
  if l.stopped then l
  else if l.queue.length < 64 ∧ l.waiting = [] then l.accept mono r
  else { l with waiting := l.waiting ++ [(r, cycle)] }

/-- A hardware event: it is dropped and counted when it finds no free place, or while records wait (R369). -/
def Logbook.hard (l : Logbook) (mono : Nat) (r : LogRec) : Logbook :=
  if l.stopped then l
  else if l.queue.length < 64 ∧ l.waiting = [] then l.accept mono r
  else { l with dropped := l.dropped + 1, lost := satInc l.lost }

/-- A record of firmware. -/
def State.fwLog (s : State) (r : LogRec) : State := s.onLog (fun l => l.soft s.cycle s.mono { r with origin := .firmware })

/-- A record of the boot ROM. -/
def State.romLog (s : State) (r : LogRec) : State := s.onLog (fun l => l.soft s.cycle s.mono { r with origin := .bootRom })

/-- A record of the hardware logger. -/
def State.hwLog (s : State) (r : LogRec) : State := s.onLog (fun l => l.hard s.mono { r with origin := .logger })

/-! ### Integrity counters (R238) -/

/-- Saturating 64-bit addition. -/
def sat64 (a n : Nat) : Nat := min (a + n) (2 ^ 64 - 1)

/-- The module-wide counter `id` advanced. -/
def State.count (s : State) (id n : Nat) : State :=
  s.onHelm (fun h => { h with counters := tset h.counters id (sat64 (tgetD h.counters id 0) n) })

/-- Counter `id` of partition `p` advanced, with the module-wide one. -/
def State.countPart (s : State) (p id n : Nat) : State :=
  (s.count id n).onPart p (fun q => { q with counters := tset q.counters id (sat64 (tgetD q.counters id 0) n) })

/-! ### Reports and freezing (R55, R57, R226) -/

/-- The module's number on its board (R306): the MOD_ID strap, which a single board ignores. -/
def State.myMod (s : State) : Nat := if s.helm.pins.topo = 0 then 0 else s.helm.pins.modId

/-- An empty packet of the module (R136). -/
def pktOf (m x y port : Nat) : Packet :=
  { dest := 0, srcMod := m, srcX := x, srcY := y, srcPort := port, dstX := 0, dstY := 0, dstPort := 0, cls := 0,
    detour := false, down := false, mc := false, op := 0, tag := 0, status := 0, reason := 0, arg := 0, payload := [],
    damaged := false }

/-- Source-port codes of R136. -/
def portN : Nat := 0
def portE : Nat := 1
def portS : Nat := 2
def portW : Nat := 3
def portL : Nat := 4
def portV : Nat := 5

/-- Device address of management UNIT `u`, OFFSET `off`, with X and Y (R168). -/
def mgmtAddr (m x y u off : Nat) : Dword :=
  dword (m * 2 ^ 62 + 4 * 2 ^ 58 + x * 2 ^ 48 + y * 2 ^ 38 + u * 2 ^ 36 + off)

/-- Device address of a byte of cell space, tower space and a sync word (R162, R163, R165). -/
def cellAddr (m x y off : Nat) : Dword := dword (m * 2 ^ 62 + x * 2 ^ 48 + y * 2 ^ 38 + off)
def towerAddr (m f off : Nat) : Dword := dword (m * 2 ^ 62 + 1 * 2 ^ 58 + f * 2 ^ 40 + off)
def syncAddr (m i : Nat) : Dword := dword (m * 2 ^ 62 + 2 * 2 ^ 58 + i)

/-- The flit of a report (R226). -/
def reportFlit (kind : Nat) (code : Code) (x y index aflags modul detail : Nat) (addr : Dword) : Item :=
  itemOf ([BitVec.ofNat 8 kind, 0] ++ leBytes 2 code.toNat ++ leBytes 2 x ++ leBytes 2 y ++
    [BitVec.ofNat 8 index, BitVec.ofNat 8 aflags, BitVec.ofNat 8 modul, 0] ++ leBytes 4 detail ++ leBytes 8 addr.toNat)

/-- The MWR of LEN 1 to UNIT 3 that carries a report (R226); all 32 bytes enabled (R137). -/
def reportPkt (m x y port : Nat) (fl : Item) : Packet :=
  { pktOf m x y port with dest := mgmtAddr m 0 0 3 0, cls := 3, op := 0x10, arg := 0xFFFFFFFF#64, payload := [fl] }

/-- A cell or router sends a report: its packet waits at the router's injection. -/
def State.report (s : State) (x y : Nat) (kind : Nat) (code : Code) (index aflags detail : Nat) (addr : Dword) : State :=
  s.onRouter x y (fun r =>
    { r with inject := r.inject ++ [reportPkt s.myMod x y portL (reportFlit kind code x y index aflags 0 detail addr)] })

/-- The cell's own part of a freeze: FROZEN, FAULT sticky, CELL_FAULT of the first fault since START; open sight windows are
discarded (R57, R59, R219). An APPLY that was pending is given up, its shadow not applied (DESIGN CHOICE, log 51). -/
def Cell.freeze (c : Cell) (code : Code) : Cell :=
  { c with state := .frozen, stopping := false, faultSt := true, applyPending := false,
           faultCode := if c.faultCode = 0 then code else c.faultCode, sg := { c.sg with wins := [] } }

/-- A fault detected in a cell: it freezes and sends a KIND 1 report (R55, R57, R226). -/
def State.freezeCell (s : State) (x y : Nat) (code : Code) (index detail : Nat) (addr : Dword) : State :=
  (s.onCell x y (fun c => c.freeze code)).report x y 1 code index 0 detail addr

end Sys2Proof.Machine
end

