-- ==== Sys2Proof/Machine/Flags.lean ====
section
/-!
DEFINITION. The sticky arithmetic flag word of C-cells and F-cells (R81, R82).
-/
namespace Sys2Proof.Machine

/-- A flag word: CLAMP 4, NAN_IN 3, UNF 2, OVF 1, INV 0 (R81). -/
abbrev AFlags := BitVec 5

def flClamp : AFlags := 0x10
def flNanIn : AFlags := 0x08
def flUnf : AFlags := 0x04
def flOvf : AFlags := 0x02
def flInv : AFlags := 0x01

/-- A flag under a condition. -/
def flIf (b : Bool) (f : AFlags) : AFlags := if b then f else 0

/-- The union of the flags of a list of results. -/
def flAll {α : Type} (l : List (α × AFlags)) : AFlags := l.foldl (fun f r => f ||| r.2) 0

/-- Flags only accumulate until the next START; only C-cells and F-cells keep a flag word (R81, R82). -/
def Cell.flag (c : Cell) (k : Cls) (f : AFlags) : Cell :=
  match k with
  | .c => { c with aflags := c.aflags ||| f }
  | .f => { c with aflags := c.aflags ||| f }
  | _ => c

end Sys2Proof.Machine
end

