-- ==== Sys2Proof/Machine/Num.lean ====
section
/-!
DEFINITION. Numbers (R61-R77): the formats, exact values, rounding to nearest even, the arithmetic of lanes and joins,
conversions, MX blocks and the group paths of the dot units.
-/
namespace Sys2Proof.Machine

/-! ### Exact dyadic values -/

def Dyadic.zero : Dyadic := { m := 0, e := 0 }

/-- Exact sum: both parts brought to the lower exponent. -/
def Dyadic.add (a b : Dyadic) : Dyadic :=
  if a.m = 0 then b
  else if b.m = 0 then a
  else if a.e ≤ b.e then { m := a.m + b.m * 2 ^ (b.e - a.e).toNat, e := a.e }
  else { m := a.m * 2 ^ (a.e - b.e).toNat + b.m, e := b.e }

def Dyadic.neg (a : Dyadic) : Dyadic := { a with m := -a.m }

def Dyadic.abs (a : Dyadic) : Dyadic := { a with m := a.m.natAbs }

def Dyadic.mul (a b : Dyadic) : Dyadic := { m := a.m * b.m, e := a.e + b.e }

/-- A value scaled by a power of two. -/
def Dyadic.scale (a : Dyadic) (k : Int) : Dyadic := { a with e := a.e + k }

def Dyadic.le (a b : Dyadic) : Bool := decide (0 ≤ (b.add a.neg).m)

/-! ### Formats (R61) -/

/-- A floating format: exponent and mantissa widths, bias, the largest finite magnitude's code, and the codes of infinity
and of the NaN the device writes, where the format has them. -/
structure Fmt where
  width : Nat
  mbits : Nat
  bias  : Nat
  top   : Nat
  inf   : Option Nat
  nan   : Option Nat
deriving DecidableEq, Repr

def fp32 : Fmt := { width := 32, mbits := 23, bias := 127, top := 0x7F7FFFFF, inf := some 0x7F800000, nan := some 0x7FC00000 }
def bf16 : Fmt := { width := 16, mbits := 7, bias := 127, top := 0x7F7F, inf := some 0x7F80, nan := some 0x7FC0 }
def fp16 : Fmt := { width := 16, mbits := 10, bias := 15, top := 0x7BFF, inf := some 0x7C00, nan := some 0x7E00 }
def e4m3 : Fmt := { width := 8, mbits := 3, bias := 7, top := 0x7E, inf := none, nan := some 0x7F }
def e5m2 : Fmt := { width := 8, mbits := 2, bias := 15, top := 0x7B, inf := some 0x7C, nan := some 0x7E }
def e3m2 : Fmt := { width := 6, mbits := 2, bias := 3, top := 0x1F, inf := none, nan := none }
def e2m3 : Fmt := { width := 6, mbits := 3, bias := 1, top := 0x1F, inf := none, nan := none }
def e2m1 : Fmt := { width := 4, mbits := 1, bias := 1, top := 0x7, inf := none, nan := none }

/-- The floating format of an FMT code (R39). -/
def fmtOf : Nat → Option Fmt
  | 0 => some fp32
  | 1 => some bf16
  | 2 => some fp16
  | 3 => some e4m3
  | 4 => some e5m2
  | 5 => some e3m2
  | 6 => some e2m3
  | 7 => some e2m1
  | _ => none

/-- Element width in an item (R63). -/
def elemBits : Nat → Nat
  | 0 => 32
  | 1 => 16
  | 2 => 16
  | 5 => 6
  | 6 => 6
  | 7 => 4
  | 9 => 32
  | _ => 8

/-- Elements per item (R63). -/
def epi : Nat → Nat
  | 0 => 8
  | 1 => 16
  | 2 => 16
  | 7 => 64
  | 9 => 8
  | _ => 32

/-- Bytes of a stored item (R85). -/
def isz (f : Nat) : Nat := if f = 5 ∨ f = 6 then 24 else 32

/-- Element `k` of an item (R63). -/
def elem (f : Nat) (it : Item) (k : Nat) : Nat := (it.toNat >>> (elemBits f * k)) % 2 ^ elemBits f

def elems (f : Nat) (it : Item) : List Nat := (List.range (epi f)).map (elem f it)

/-- The number that elements spell, the first lowest. -/
def packNat (w : Nat) : List Nat → Nat
  | [] => 0
  | c :: t => c % 2 ^ w + 2 ^ w * packNat w t

def packItem (f : Nat) (l : List Nat) : Item := BitVec.ofNat 256 (packNat (elemBits f) l)

/-- A value of a floating format: NaN, an infinity, or (-1)^neg * m * 2^e. -/
inductive FVal where
  | nan
  | inf (neg : Bool)
  | fin (neg : Bool) (m : Nat) (e : Int)
deriving DecidableEq, Repr

/-- The value of a code (R61). -/
def Fmt.val (f : Fmt) (c : Nat) : FVal :=
  let mag := c % 2 ^ (f.width - 1)
  let neg := decide (c / 2 ^ (f.width - 1) % 2 = 1)
  let e := mag / 2 ^ f.mbits
  let m := mag % 2 ^ f.mbits
  if f.top < mag then (if f.inf = some mag then .inf neg else .nan)
  else if e = 0 then .fin neg m (1 - (f.bias : Int) - f.mbits)
  else .fin neg (m + 2 ^ f.mbits) ((e : Int) - f.bias - f.mbits)

def FVal.isNan : FVal → Bool
  | .nan => true
  | _ => false

def FVal.isInf : FVal → Bool
  | .inf _ => true
  | _ => false

def FVal.isZero : FVal → Bool
  | .fin _ m _ => m = 0
  | _ => false

def FVal.neg : FVal → Bool
  | .nan => false
  | .inf n => n
  | .fin n _ _ => n

/-- The exact value of a finite number; 0 for the others. -/
def FVal.dy : FVal → Dyadic
  | .fin n m e => { m := if n then -(m : Int) else m, e := e }
  | _ => Dyadic.zero

/-! ### Rounding (R62, R72) -/

/-- RNE of m / 2^sh. -/
def rneShift (m sh : Nat) : Nat :=
  let q := m >>> sh
  let r := m % 2 ^ sh
  if sh = 0 then m
  else if r > 2 ^ (sh - 1) then q + 1
  else if r = 2 ^ (sh - 1) then q + q % 2
  else q

/-- The magnitude code of m * 2^e (m not 0) by RNE with an unbounded exponent, whether the value lies below the smallest
normal, and whether it is inexact. -/
def Fmt.mag (f : Fmt) (m : Nat) (e : Int) : Nat × Bool × Bool :=
  let top : Int := e + Nat.log2 m
  let low : Int := 1 - (f.bias : Int) - f.mbits
  let q : Int := max (top - f.mbits) low
  let tiny := decide (top < 1 - (f.bias : Int))
  if q ≤ e then (m <<< (e - q).toNat + (q - low).toNat * 2 ^ f.mbits, tiny, false)
  else
    let sh := (q - e).toNat
    (rneShift m sh + (q - low).toNat * 2 ^ f.mbits, tiny, decide (m % 2 ^ sh ≠ 0))

def Fmt.sign (f : Fmt) (neg : Bool) : Nat := if neg then 2 ^ (f.width - 1) else 0

/-- The NaN the device writes (R62). -/
def Fmt.nanCode (f : Fmt) : Nat := f.nan.getD 0

def Fmt.infCode (f : Fmt) (neg : Bool) : Nat := f.sign neg + f.inf.getD 0

/-- Round a finite value to a format (R71, R72). -/
def Fmt.round (f : Fmt) (neg : Bool) (m : Nat) (e : Int) : Nat × AFlags :=
  if m = 0 then (f.sign neg, 0)
  else
    let r := f.mag m e
    if f.top < r.1 then (if f.inf.isSome then f.infCode neg else f.nanCode, flOvf)
    else (f.sign neg + r.1, flIf (r.2.1 && r.2.2) flUnf)

/-- Round to an MX element: overflow gives the largest finite value and CLAMP (R72, R75). -/
def Fmt.roundMx (f : Fmt) (neg : Bool) (m : Nat) (e : Int) : Nat × AFlags :=
  if m = 0 then (f.sign neg, 0)
  else
    let r := f.mag m e
    if f.top < r.1 then (f.sign neg + f.top, flClamp)
    else (f.sign neg + r.1, flIf (r.2.1 && r.2.2) flUnf)

/-- Round an exact sum: an exact zero is +0 unless said otherwise. -/
def Fmt.roundD (f : Fmt) (d : Dyadic) : Nat × AFlags := f.round (decide (d.m < 0)) d.m.natAbs d.e

/-! ### Lanes (R70, R71, R77) -/

/-- Addition, exact and rounded once. -/
def Fmt.add (f : Fmt) (a b : Nat) : Nat × AFlags :=
  match f.val a, f.val b with
  | .nan, _ => (f.nanCode, flNanIn)
  | _, .nan => (f.nanCode, flNanIn)
  | .inf s, .inf t => if s = t then (f.infCode s, 0) else (f.nanCode, flInv)
  | .inf s, _ => (f.infCode s, 0)
  | _, .inf t => (f.infCode t, 0)
  | .fin s m e, .fin t n g =>
    let d := (FVal.fin s m e).dy.add (FVal.fin t n g).dy
    if d.m = 0 then (f.sign (s && t), 0) else f.roundD d

/-- Multiplication, exact and rounded once, between two values, into a format. -/
def Fmt.mulVal (f : Fmt) (a b : FVal) : Nat × AFlags :=
  match a, b with
  | .nan, _ => (f.nanCode, flNanIn)
  | _, .nan => (f.nanCode, flNanIn)
  | .inf s, y => if y.isZero then (f.nanCode, flInv) else (f.infCode (s != y.neg), 0)
  | x, .inf t => if x.isZero then (f.nanCode, flInv) else (f.infCode (x.neg != t), 0)
  | .fin s m e, .fin t n g => f.round (s != t) (m * n) (e + g)

def Fmt.mul (f : Fmt) (a b : Nat) : Nat × AFlags := f.mulVal (f.val a) (f.val b)

/-- Order of two values that are not NaN; -0 below +0. -/
def FVal.le (a b : FVal) : Bool :=
  match a, b with
  | .inf true, _ => true
  | _, .inf false => true
  | .inf false, _ => false
  | _, .inf true => false
  | x, y => if x.isZero && y.isZero then x.neg || ! y.neg else x.dy.le y.dy

/-- VMAX: NaN when either is NaN, +0 taken as larger than -0 (R71, R77). -/
def Fmt.max (f : Fmt) (a b : Nat) : Nat × AFlags :=
  if (f.val a).isNan || (f.val b).isNan then (f.nanCode, flNanIn)
  else if (f.val a).le (f.val b) then (b, 0) else (a, 0)

/-- FP32 addition of two registers (R70). -/
def fadd (a b : Word) : Word × AFlags :=
  let r := fp32.add a.toNat b.toNat
  (word r.1, r.2)

/-- Lane by lane over two items; the lanes whose bit in `live` is 0 give +0 and raise no flag (R95). -/
def lanes2 (fm : Nat) (op : Nat → Nat → Nat × AFlags) (live : Nat) (a b : Item) : Item × AFlags :=
  let r := (List.range (epi fm)).map (fun k =>
    if live.testBit k then op (elem fm a k) (elem fm b k) else (0, 0))
  (packItem fm (r.map (·.1)), flAll r)

/-- FP32 addition lane by lane (R147). -/
def addItem (a b : Item) : Item := (lanes2 0 fp32.add 255 a b).1

/-- VSCALE: each lane times an FP32 constant, rounded once to the lane format (R77). -/
def scaleItem (fm : Nat) (f : Fmt) (k : Word) (live : Nat) (a : Item) : Item × AFlags :=
  let r := (List.range (epi fm)).map (fun i =>
    if live.testBit i then f.mulVal (f.val (elem fm a i)) (fp32.val k.toNat) else (0, 0))
  (packItem fm (r.map (·.1)), flAll r)

/-! ### Conversions (R72-R75) -/

/-- RNE to an integer. -/
def rneInt (d : Dyadic) : Int :=
  let n := if 0 ≤ d.e then d.m.natAbs <<< d.e.toNat else rneShift d.m.natAbs (-d.e).toNat
  if d.m < 0 then -(n : Int) else n

/-- To a two's complement integer of `bits` bits (R72). -/
def toInt (bits : Nat) (v : FVal) : Nat × AFlags :=
  let hi : Int := 2 ^ (bits - 1) - 1
  let lo : Int := -(2 ^ (bits - 1))
  match v with
  | .nan => (0, flInv)
  | .inf n => (twos bits (if n then lo else hi), flInv)
  | .fin n m e =>
    let z := rneInt (FVal.fin n m e).dy
    if hi < z then (twos bits hi, flOvf) else if z < lo then (twos bits lo, flOvf) else (twos bits z, 0)

/-- A finite or special value into the format of an FMT code, no scales (R72). -/
def convert (fm : Nat) (v : FVal) : Nat × AFlags :=
  match fmtOf fm with
  | none => toInt (elemBits fm) v
  | some f =>
    match v with
    | .nan => (f.nanCode, flNanIn)
    | .inf n => if f.inf.isSome then (f.infCode n, 0) else (f.nanCode, flInv)
    | .fin n m e => f.round n m e

/-- The value of an element of an FMT code (R61). -/
def valOf (fm c : Nat) : FVal :=
  match fmtOf fm with
  | some f => f.val c
  | none =>
    let z := sext (elemBits fm) c
    .fin (decide (z < 0)) z.natAbs 0

/-- Conversion to FP32: an INT32 that FP32 cannot represent is rounded with no flag; a scaled element can overflow (R72). -/
def toFp32 (v : FVal) (scale : Int) : Nat × AFlags :=
  match v with
  | .nan => (fp32.nanCode, flNanIn)
  | .inf n => (fp32.infCode n, 0)
  | .fin n m e => fp32.round n m (e + scale)

/-- BF16 pieces of an FP32 value (R74): 1 first, 2 second, 3 third; 0 the whole value. -/
def piece (p : Nat) (v : FVal) : Nat × AFlags :=
  let h := convert 1 v
  let fin (c : Nat) : Bool := ! (bf16.val c).isNan && ! (bf16.val c).isInf
  if p < 2 then h
  else if ! fin h.1 then (0, 0)
  else
    let r1 := v.dy.add (bf16.val h.1).dy.neg
    let m := bf16.roundD r1
    if p = 2 then m
    else bf16.roundD (r1.add (bf16.val m.1).dy.neg)

/-- emax of an MX element format (R75). -/
def emaxOf : Nat → Int
  | 3 => 8
  | 4 => 15
  | 5 => 4
  | _ => 2

/-- floor(log2) of a nonzero finite magnitude. -/
def flog2 (m : Nat) (e : Int) : Int := (Nat.log2 m : Int) + e

/-- One MX block of FP32 values quantised: scale byte and elements (R75). -/
def mxBlock (fm : Nat) (vs : List FVal) : Nat × List Nat × AFlags :=
  match fmtOf fm with
  | none => (0x7F, [], 0)
  | some f =>
    if vs.any (fun v => v.isNan || v.isInf) then (0xFF, vs.map (fun _ => 0), flIf (vs.any FVal.isNan) flNanIn)
    else if vs.all FVal.isZero then (0x7F, vs.map (fun _ => 0), 0)
    else
      let top := vs.foldl (fun (a : Int) v => match v with
        | .fin _ m e => if m = 0 then a else max a (flog2 m e)
        | _ => a) (-1000)
      let x : Int := max (top - emaxOf fm) (-127)
      let r := vs.map (fun v => match v with
        | .fin n m e => f.roundMx n m (e - x)
        | _ => (0, 0))
      ((x + 127).toNat, r.map (·.1), flAll r)

/-! ### CMP (R414) -/

/-- The relation of CMP between two values of a format; the second component says that one is NaN. -/
def cmpVals (rel : Nat) (a b : FVal) : Bool × Bool :=
  if a.isNan || b.isNan then (rel = 1, true)
  else
    let eq := (a.isZero && b.isZero) || (a.le b && b.le a)
    let lt := ! eq && a.le b
    (if rel = 0 then eq else if rel = 1 then ! eq else if rel = 2 then lt else ! lt, false)

/-! ### The dot units (R64-R69, R71, R95) -/

/-- One operand of a group: its item, the bit mask of its live elements, and its scale byte for each block (0x7F: 2^0). -/
structure Oper where
  item : Item
  live : Nat
  sc   : List Nat
deriving DecidableEq, Repr

/-- The block of element `k` in an MX item (R63). -/
def blockOf (k : Nat) : Nat := k / 32

/-- Scale byte of an element's block. -/
def Oper.scale (o : Oper) (k : Nat) : Nat := lgetD o.sc (blockOf k) 0x7F

/-- Elements whose product enters the group (R95). -/
def groupElems (fm : Nat) (a w : Oper) : List Nat :=
  (List.range (epi fm)).filter (fun k => a.live.testBit k && w.live.testBit k)

/-- Scale exponent of a product. -/
def prodExp (a w : Oper) (k : Nat) : Int := ((a.scale k : Int) - 127) + ((w.scale k : Int) - 127)

/-- The exact product of two finite elements with the scales applied. -/
def prodDy (fm : Nat) (a w : Oper) (k : Nat) : Dyadic :=
  ((valOf fm (elem fm a.item k)).dy.mul (valOf fm (elem fm w.item k)).dy).scale (prodExp a w k)

/-- NaN cases of a group as a whole (R71): a NaN operand or scale 0xFF, an infinity times 0. -/
def groupNan (fm : Nat) (a w : Oper) (ks : List Nat) : Option (Nat × AFlags) :=
  let va := fun k => valOf fm (elem fm a.item k)
  let vw := fun k => valOf fm (elem fm w.item k)
  if ks.any (fun k => (va k).isNan || (vw k).isNan || a.scale k = 0xFF || w.scale k = 0xFF) then
    some (fp32.nanCode, flNanIn)
  else if ks.any (fun k => ((va k).isInf && (vw k).isZero) || ((va k).isZero && (vw k).isInf)) then
    some (fp32.nanCode, flInv)
  else none

/-- Special cases of an exact group (R71): those of `groupNan`, and infinities among the products. -/
def groupSpecial (fm : Nat) (a w : Oper) (ks : List Nat) : Option (Nat × AFlags) :=
  match groupNan fm a w ks with
  | some r => some r
  | none =>
    let va := fun k => valOf fm (elem fm a.item k)
    let vw := fun k => valOf fm (elem fm w.item k)
    let infs := (ks.filter (fun k => (va k).isInf || (vw k).isInf)).map (fun k => (va k).neg != (vw k).neg)
    if infs.contains true && infs.contains false then some (fp32.nanCode, flInv)
    else if infs.contains true then some (fp32.infCode true, 0)
    else if infs.contains false then some (fp32.infCode false, 0)
    else none

/-- The group result of FP8, FP6 and FP4: the exact sum rounded once (R67). -/
def groupExact (fm : Nat) (a w : Oper) (ks : List Nat) : Nat × AFlags :=
  match groupSpecial fm a w ks with
  | some r => r
  | none =>
    let g := ks.foldl (fun d k => d.add (prodDy fm a w k)) Dyadic.zero
    if g.m = 0 then (0, 0) else fp32.roundD g

/-- One level of the fixed tree of FP32 additions; a product left out adds nothing (R68, R95). -/
def treeLevel : List (Option (Nat × AFlags)) → List (Option (Nat × AFlags))
  | some p :: some q :: t => some ((fp32.add p.1 q.1).1, p.2 ||| q.2 ||| (fp32.add p.1 q.1).2) :: treeLevel t
  | some p :: none :: t => some p :: treeLevel t
  | none :: q :: t => q :: treeLevel t
  | [p] => [p]
  | [] => []

/-- The group result of BF16 and FP16: rounded products summed by the fixed tree (R68). -/
def groupTree (fm : Nat) (a w : Oper) (ks : List Nat) : Nat × AFlags :=
  match groupNan fm a w ks with
  | some r => r
  | none =>
    let ps := (List.range 16).map (fun k => if ks.contains k then some (fp32.mulVal (valOf fm (elem fm a.item k))
      (valOf fm (elem fm w.item k))) else none)
    let infs := ps.filterMap (fun p => p.bind (fun r => match fp32.val r.1 with
      | .inf n => some n
      | _ => none))
    let fl := flAll (ps.filterMap id)
    if infs.contains true && infs.contains false then (fp32.nanCode, fl ||| flInv)
    else
      match treeLevel (treeLevel (treeLevel (treeLevel ps))) with
      | some r :: _ => r
      | _ => (0, 0)

/-- The exact group sum of INT8 (R69). -/
def groupInt (a w : Oper) (ks : List Nat) : Int :=
  ks.foldl (fun z k => z + sext 8 (elem 8 a.item k) * sext 8 (elem 8 w.item k)) 0

/-- The group result as a register: FP32, or the two's complement sum of INT8. -/
def groupResult (fm : Nat) (a w : Oper) : Word × AFlags :=
  let ks := groupElems fm a w
  if fm = 8 then (word (twos 32 (groupInt a w ks)), 0)
  else
    let r := if fm = 1 ∨ fm = 2 then groupTree fm a w ks else groupExact fm a w ks
    (word r.1, r.2)

/-- Addition of a group result to an accumulator: FP32 under R70 and R71, INT32 with wrap and OVF (R69). -/
def accAdd (isInt : Bool) (acc g : Word) : Word × AFlags :=
  if isInt then
    let z := sext 32 acc.toNat + sext 32 g.toNat
    (word (twos 32 z), flIf (z < -(2 ^ 31) || (2 : Int) ^ 31 ≤ z) flOvf)
  else fadd acc g

/-- P of a group: the sum of |p| over the products that enter it (R217). -/
def groupP (fm : Nat) (a w : Oper) : Dyadic :=
  (groupElems fm a w).foldl (fun d k => d.add (prodDy fm a w k).abs) Dyadic.zero

/-- m of a weight format (R217). -/
def sightM : Nat → Int
  | 3 => 3
  | 6 => 3
  | 4 => 2
  | 5 => 2
  | 7 => 1
  | 1 => 7
  | _ => 10

/-- The element of an operand as it is delivered: a masked element is +0 (R94). -/
def Oper.dy (o : Oper) (fm k : Nat) : Dyadic :=
  if o.live.testBit k then ((valOf fm (elem fm o.item k)).dy).scale ((o.scale k : Int) - 127) else Dyadic.zero

/-- The larger of two exact values. -/
def Dyadic.max (a b : Dyadic) : Dyadic := if a.le b then b else a

/-- q_k of a checksum row (R217). -/
def sightQk (fm : Nat) (w : Oper) (k : Nat) : Dyadic :=
  let m := sightM fm
  if fm = 1 ∨ fm = 2 then
    ((w.dy fm k).abs.scale (-m)).add { m := 1, e := (if fm = 1 then -126 else -14) - m }
  else
    (((List.range (epi fm)).filter (fun j => blockOf j = blockOf k)).foldl
      (fun d j => Dyadic.max d (w.dy fm j).abs) Dyadic.zero).scale (-m)

/-- Q of a checksum firing (R217). -/
def groupQ (fm : Nat) (a w : Oper) : Dyadic :=
  (List.range (epi fm)).foldl (fun d k => d.add ((sightQk fm w k).mul (a.dy fm k).abs)) Dyadic.zero

/-- The tolerance of a window (R217). -/
def sightTol (fm : Nat) (p q : Dyadic) (n : Nat) : Dyadic :=
  ((p.scale (if fm = 1 ∨ fm = 2 then -21 else -24)).add q).add { m := n, e := -145 }

/-- An exact value rounded toward plus infinity to FP32 (R221). -/
def roundUp (d : Dyadic) : Word :=
  let r := fp32.roundD d
  if d.m ≤ 0 then word r.1
  else
    match fp32.val r.1 with
    | .fin n m e => if d.le (FVal.fin n m e).dy then word r.1 else word (r.1 + 1)
    | _ => word r.1

end Sys2Proof.Machine
end

