-- ==== Sys2Proof/Machine/Operands.lean ====
section
/-!
DEFINITION. Operand forms: the slot word (R38), tile descriptors, walks and masks (R85-R96), queues (R32-R35), scale
operands (R65, R66), accumulators (R91).
-/
namespace Sys2Proof.Machine

/-! ### The slot word (R38) -/

def Cell.slot (c : Cell) (n : Nat) : BitVec 128 := tgetD c.slots n slotReset

def sOp (w : BitVec 128) : Nat := fld w 127 120
def sFmt (w : BitVec 128) : Nat := fld w 119 116
def sMod (w : BitVec 128) : Nat := fld w 115 112
def sSrc0 (w : BitVec 128) : Nat := fld w 111 108
def sSrc1 (w : BitVec 128) : Nat := fld w 107 104
def sCtl (w : BitVec 128) : Nat := fld w 103 100
def sDst (w : BitVec 128) : Nat := fld w 95 88
def sPen (w : BitVec 128) : Bool := bitB w 87
def sPneg (w : BitVec 128) : Bool := bitB w 86
def sPsel (w : BitVec 128) : Nat := fld w 85 83
def sRepeat (w : BitVec 128) : Nat := fld w 79 64
def sOpa (w : BitVec 128) : Nat := fld w 63 48
def sOpb (w : BitVec 128) : Nat := fld w 47 32
def sOpc (w : BitVec 128) : Nat := fld w 31 16
def sPwen (w : BitVec 128) : Bool := bitB w 15
def sPwsel (w : BitVec 128) : Nat := fld w 14 12

/-- The operand OPB:OPC, OPB the high half (R48, R414). -/
def sOpbc (w : BitVec 128) : Word := word (sOpb w * 2 ^ 16 + sOpc w)

/-- The queues of a DST mask, ascending. -/
def maskQs (m : Nat) : List Nat := (List.range 8).filter (fun q => m.testBit q)

def dstQs (w : BitVec 128) : List Nat := maskQs (sDst w)

/-- SCQ_EN and SCQ of a scale field (R65, R74). -/
def scqOf (o : Nat) : Option Nat := if o.testBit 15 then some (o % 8) else none

def Cell.run (c : Cell) (n : Nat) : SlotRun := tgetD c.runs n SlotRun.reset

def Cell.setRun (c : Cell) (n : Nat) (r : SlotRun) : Cell := { c with runs := tset c.runs n r }

/-- Whether the coming firing of a slot is its last before it retires (R44). -/
def lastFiring (w : BitVec 128) (r : SlotRun) : Bool := sRepeat w ≠ 0 && r.left = 1

/-! ### Queues (R32-R35) -/

def Cell.queue (c : Cell) (q : Nat) : Queue := tgetD c.queues q Queue.empty

def Cell.setQueue (c : Cell) (q : Nat) (v : Queue) : Cell := { c with queues := tset c.queues q v }

/-- DIR and LANE of a binding (R59). -/
def qDir (c : Cell) (q : Nat) : Nat := fld (tgetD c.qcfg q 0) 31 30
def qLane (c : Cell) (q : Nat) : Nat := fld (tgetD c.qcfg q 0) 29 28

/-- Capacity: 16 entries and 32 items for each KiB of extension (R32, R35). -/
def qCap (c : Cell) (q : Nat) : Nat := 16 + 32 * fld (tgetD c.qext q 0) 6 0

def Queue.occ (q : Queue) : Nat := q.hw.length + q.ring.length

/-- The item that could be popped in this pulse (R32). -/
def Queue.head (q : Queue) (pulse : Nat) : Option QItem :=
  match q.hw with
  | [] => none
  | i :: _ => if i.since ≤ pulse ∧ q.lastPop ≠ some pulse then some i else none

/-- The head item's data; an empty queue has none to give, and no op asks for it. -/
def Cell.headItem (c : Cell) (q : Nat) : Item :=
  match (c.queue q).hw with
  | i :: _ => i.data
  | [] => 0

/-- A pop in this pulse. An inbound queue owes its stream one credit from here on (R33). -/
def Cell.pop (c : Cell) (cycle q : Nat) : Cell :=
  let v := c.queue q
  c.setQueue q { v with hw := v.hw.drop 1, lastPop := some c.pulse,
                        owed := if qDir c q = 1 then v.owed ++ [(cycle, [])] else v.owed }

/-- Banks of the SRAM that backs extensions (R30): a bank gives 64 B in a pulse, 256 B in all in a C-cell and 128 B in an M-cell. For
the ring address to interleave over all banks (R36), successive granules lie in successive banks (DEDUCED, log 52). -/
def banksOf : Cls → Nat
  | .c => 4
  | .m => 2
  | _ => 1

def bankAt (k : Cls) (a : Nat) : Nat := a / 64 % banksOf k

/-- Byte address in the backing SRAM of ring place `i`: BASE and SIZE in KiB, 32 items in a KiB (R35). -/
def ringAddr (c : Cell) (q i : Nat) : Nat :=
  let e := tgetD c.qext q 0
  1024 * fld e 25 16 + 32 * (i % max 1 (32 * fld e 6 0))

/-- An item enters a queue: a hardware entry when one is free and none waits in the ring, else the ring (R34). The oldest item
of the ring can be popped 4 pulses after it became that. The second item of a granule writes it: a bank is taken (R34, R36). `bad`:
it came with an uncorrectable error (R213). -/
def Cell.enq (c : Cell) (k : Cls) (q : Nat) (it : Item) (bad : Bool) : Cell :=
  let v := c.queue q
  if v.ring = [] ∧ v.hw.length < 16 then
    c.setQueue q { v with hw := v.hw ++ [{ data := it, since := c.pulse + 1, bad := bad }], lastPut := some c.pulse }
  else
    { c.setQueue q { v with ring := v.ring ++ [{ data := it, since := c.pulse + (if v.ring = [] then 4 else 1), bad := bad }],
                            lastPut := some c.pulse, ringIn := v.ringIn + 1 } with
      bankUse := if v.ringIn % 2 = 1 then bankAt k (ringAddr c q v.ringIn) :: c.bankUse else c.bankUse }

/-- An item that the cell itself writes. -/
def Cell.push (c : Cell) (k : Cls) (q : Nat) (it : Item) : Cell := c.enq k q it false

/-- How many of an op's outputs are for queue `q`. -/
def Op.outsTo (o : Op) (q : Nat) : Nat := (o.outs.filter (fun p => p.1 = q)).length

/-- Places promised in a queue by ops in flight (R42). -/
def promised (c : Cell) (q : Nat) : Nat := ((c.ops.filter (·.promised)).map (fun o => o.outsTo q)).sum

/-- The pulses in which ops in flight will write a queue. -/
def writePulses (c : Cell) (q : Nat) : List Nat :=
  (c.ops.filter (fun o => o.promised && ! o.waiting)).flatMap (fun o => span o.due (o.outsTo q))

/-- Room for `k` results written from pulse `at_` on (R41 rule 5); a pop of this pulse frees room from the next one (R32). -/
def roomFor (c : Cell) (q k at_ : Nat) : Bool :=
  let v := c.queue q
  let gone := if v.lastPop = some c.pulse then 1 else 0
  (v.occ + gone + promised c q + k ≤ qCap c q) && (span at_ k).all (fun p => ! (writePulses c q).contains p)

/-! ### Tile descriptors (R86) -/

/-- A descriptor with its fields taken apart; sizes and strides in bytes, counts as counts. -/
structure Desc where
  fmt    : Nat
  space  : Nat
  quad   : Bool
  accEn  : Bool
  scEn   : Bool
  mskEn  : Bool
  msk    : Nat
  rows   : Nat
  cols   : Nat
  t0n    : Nat
  t1n    : Nat
  live0  : Nat
  live1  : Nat
  accStep : Nat
  bound  : Nat
  rowStride : Nat
  t0Stride : Nat
  t1Stride : Nat
  scOff  : Nat
  base   : Nat
deriving DecidableEq, Repr

def Desc.of (w : BitVec 256) : Desc :=
  { fmt := fld w 255 252, space := fld w 251 250, quad := decide (fld w 249 248 = 1), accEn := bitB w 247, scEn := bitB w 246,
    mskEn := bitB w 245, msk := fld w 243 237, rows := fld w 236 230 + 1, cols := fld w 229 223 + 1, t0n := fld w 222 212 + 1,
    t1n := fld w 211 201 + 1, live0 := min (fld w 200 189) (fld w 222 212 + 1), live1 := min (fld w 188 177) (fld w 211 201 + 1),
    accStep := fld w 176 165, bound := 32 * fld w 159 136, rowStride := 32 * fld w 135 116, t0Stride := 32 * fld w 115 96,
    t1Stride := 32 * fld w 95 72, scOff := fld w 71 40, base := 32 * fld w 39 0 }

def Cell.descWord (c : Cell) (i : Nat) : BitVec 256 := tgetD c.descs i 0

def Cell.desc (c : Cell) (i : Nat) : Desc := Desc.of (c.descWord i)

/-- Items per row (R85) and scale bytes per row (R90). -/
def Desc.ipr (d : Desc) : Nat := (d.cols + epi d.fmt - 1) / epi d.fmt
def Desc.bpr (d : Desc) : Nat := (d.cols + 31) / 32

/-- Steps of the inner loops for one tile, and of the whole walk (R88). -/
def Desc.tileSteps (d : Desc) : Nat := (if d.quad then (d.rows + 3) / 4 else d.rows) * d.ipr
def Desc.steps (d : Desc) : Nat := d.tileSteps * d.t0n * d.t1n

/-- Where one item lies: outer and inner tile, row, item of the row. -/
structure Pos where
  t1 : Nat
  t0 : Nat
  r  : Nat
  c  : Nat
deriving DecidableEq, Repr

/-- The item that step `n` of a walk takes; a QUAD step takes rows 4q + u for u = 0..3 (R88). -/
def Desc.pos (d : Desc) (n u : Nat) : Pos :=
  let k := n % d.steps
  let t := k / d.tileSteps
  let i := k % d.tileSteps
  { t1 := t / d.t0n, t0 := t % d.t0n, r := if d.quad then 4 * (i / d.ipr) + u else i / d.ipr, c := i % d.ipr }

/-- Byte address of a tile and of an item (R88). -/
def Desc.tileAddr (d : Desc) (p : Pos) : Nat := d.base + p.t1 * d.t1Stride + p.t0 * d.t0Stride
def Desc.itemAddr (d : Desc) (p : Pos) : Nat := d.tileAddr p + p.r * d.rowStride + p.c * isz d.fmt

def Cell.walkPos (c : Cell) (i : Nat) : Nat := tgetD c.walk i 0

/-- The walk position advanced; after the last step it returns to the first (R89). -/
def Cell.advance (c : Cell) (i k : Nat) : Cell := { c with walk := tset c.walk i ((c.walkPos i + k) % (c.desc i).steps) }

/-- Row and column masks of a mask entry (R92). -/
def rowMask (w : BitVec 256) (r : Nat) : Bool := w.getLsbD r
def colMask (w : BitVec 256) (k : Nat) : Bool := w.getLsbD (128 + k)

/-- Liveness of element (r, k) of tile (t1, t0) (R93); `mw` is the mask entry. -/
def elemLive (d : Desc) (mw : BitVec 256) (p : Pos) (k : Nat) : Bool :=
  p.r < d.rows && k < d.cols &&
  (! d.mskEn || (p.t0 < d.live0 && p.t1 < d.live1 && (p.t0 + 1 ≠ d.live0 || colMask mw k) &&
    (p.t1 + 1 ≠ d.live1 || rowMask mw p.r)))

/-- Bit mask of the live elements of an item. -/
def liveMask (d : Desc) (mw : BitVec 256) (p : Pos) : Nat :=
  (List.range (epi d.fmt)).foldl (fun m k => if elemLive d mw p (p.c * epi d.fmt + k) then m + 2 ^ k else m) 0

/-- The mask entry of a descriptor. -/
def Cell.maskOf (c : Cell) (d : Desc) : BitVec 256 := c.descWord d.msk

/-- Byte offsets in a stored item that hold bits of element `k`. -/
def elemBytes (fm k : Nat) : List Nat :=
  let w := elemBits fm
  let lo := w * k / 8
  span lo ((w * k + w - 1) / 8 + 1 - lo)

/-- Byte addresses of the live elements of an item. -/
def liveAddrs (fm base live : Nat) : List Nat :=
  dedup (((List.range (epi fm)).filter (fun k => live.testBit k)).flatMap (fun k => (elemBytes fm k).map (fun o => base + o)))

/-- Masked elements replaced by the all-zero encoding (R94). -/
def maskItem (fm live : Nat) (it : Item) : Item :=
  packItem fm ((List.range (epi fm)).map (fun k => if live.testBit k then elem fm it k else 0))

/-- A byte as a descriptor reads it: no byte at or above the limit is read; what such a byte gives is not stated (DESIGN CHOICE, log 16). -/
def limByte (m : Memory) (lim a : Nat) : Byte := if a < lim then m.byte a else (Config.unstated 0 a).setWidth 8

/-- An item as it is delivered (R94): a dead item is zero and reads nothing. -/
def readItem (m : Memory) (lim : Nat) (d : Desc) (p : Pos) (live : Nat) : Item :=
  if live = 0 then 0
  else maskItem d.fmt live (itemOf ((span (d.itemAddr p) (isz d.fmt)).map (limByte m lim)))

/-- The first limit on a descriptor's addresses: BASE + BOUND, and the size of the store. -/
def Desc.limit (d : Desc) (size : Nat) : Nat := min (d.base + d.bound) size

/-- Scale byte address of block `b` of a row (R90). -/
def Desc.scaleAddr (d : Desc) (p : Pos) (b : Nat) : Nat :=
  d.base + d.scOff + ((p.t1 * d.t0n + p.t0) * d.rows + p.r) * d.bpr + b

/-- Whether block `b` of an item has a live element. -/
def blockLive (fm live b : Nat) : Bool := (List.range (epi fm)).any (fun k => blockOf k = b && live.testBit k)

/-- Blocks of an item in an MX format (R63). -/
def blocks (fm : Nat) : Nat := if fm = 7 then 2 else 1

/-- An item read through a descriptor at one step: item, live mask, scale bytes, the bytes consumed, and the bytes of the granules
that are read (R90, R94). -/
structure DescRead where
  item : Item
  live : Nat
  sc   : List Nat
  used : List Nat
  gran : List Nat
deriving DecidableEq, Repr

/-- Bytes of the granules that hold bytes [a, a + n), clipped at a limit (R85, R94). -/
def granBytes (lim a n : Nat) : List Nat := (span (a / 64 * 64) ((a + n + 63) / 64 * 64 - a / 64 * 64)).filter (fun b => b < lim)

def readDesc (m : Memory) (size : Nat) (mw : BitVec 256) (d : Desc) (n u : Nat) : DescRead :=
  let p := d.pos n u
  let live := liveMask d mw p
  let lim := d.limit size
  let scAt := fun b => d.scaleAddr p (p.c * blocks d.fmt + b)
  let scs := if d.scEn then (List.range (blocks d.fmt)).map (fun b =>
      if blockLive d.fmt live b then (limByte m lim (scAt b)).toNat else 0x7F) else []
  let scUsed := if d.scEn then ((List.range (blocks d.fmt)).filter (blockLive d.fmt live)).map scAt else []
  { item := readItem m lim d p live, live := live, sc := scs,
    used := (liveAddrs d.fmt (d.itemAddr p) live ++ scUsed).filter (fun a => a < lim),
    gran := (if live = 0 then [] else granBytes lim (d.itemAddr p) (isz d.fmt)) ++ scUsed.flatMap (fun a => granBytes lim a 1) }

/-- A descriptor read that takes no scale bytes: LOAD, SREAD and the vector ops deliver the item alone (R94). -/
def Desc.bare (d : Desc) : Desc := { d with scEn := false }

/-- The operand a descriptor gives to a dot unit. In part DESIGN CHOICE, log 16. -/
def DescRead.oper (r : DescRead) : Oper := { item := r.item, live := r.live, sc := r.sc }

/-- Data storage as a read through a descriptor sees it: a write of the same pulse shows from the next pulse on (R98). -/
def Cell.seen (c : Cell) : Memory := c.dataWas.getD c.data

/-- A write through a descriptor into data storage (R98, R182). -/
def Cell.store (c : Cell) (l : List Host.Cell) : Cell :=
  { c with data := c.data.write l, dataWas := some c.seen, eccFixed := c.eccFixed + (c.data.weakPartial l).length }

/-- The bytes a write through a descriptor stores (R96): bytes of live elements below the bound; FP4 and FP6 elements merged
at bit granularity with what storage holds. -/
def writeDesc (m : Memory) (size : Nat) (mw : BitVec 256) (d : Desc) (n : Nat) (it : Item) : List Host.Cell :=
  let p := d.pos n 0
  let live := liveMask d mw p
  let base := d.itemAddr p
  let old := itemOf (m.read base (isz d.fmt))
  let merged := packItem d.fmt ((List.range (epi d.fmt)).map (fun k => elem d.fmt (if live.testBit k then it else old) k))
  ((liveAddrs d.fmt base live).filter (fun a => a < d.limit size)).map (fun a => (a, itemByte merged (a - base)))

/-! ### Accumulators (R30, R91) -/

/-- Accumulator `i`: one that nothing has written since its contents were lost is a free value; there is none above 4,095, and
what a read beyond gives is not stated (DESIGN CHOICE, log 16). -/
def Cell.accAt (c : Cell) (i : Nat) : Word :=
  if 4096 ≤ i then Config.unstated 1 i
  else
    match tget c.acc i with
    | some w => w
    | none => if c.accGen = 0 then 0 else Config.freeWord c.accGen i

def Cell.setAcc (c : Cell) (i : Nat) (w : Word) : Cell := if 4096 ≤ i then c else { c with acc := tset c.acc i w }

/-- The first 64-bit word among these accumulators that reads uncorrectable (R183). -/
def Cell.accHit (c : Cell) (l : List Nat) : Option Nat := if c.accBad = [] then none else (l.map (· / 2)).find? c.accBad.contains

/-- The accumulator a group adds into (R64, R91): `u` is the dot unit when MOD[2] = 1, else 0. -/
def accIndex (opc u : Nat) (d : Option (Desc × Pos)) : Nat :=
  match d with
  | some (d, p) => if d.accEn then opc + p.r + p.t1 * d.accStep else opc + u
  | none => opc + u

/-! ### Scales from a queue (R65, R66) -/

/-- Scale bytes a firing takes from its scale item at position `pos`. -/
def scaleBytes (c : Cell) (q pos n : Nat) : List Nat := (List.range n).map (fun k => (itemByte (c.headItem q) (pos + k)).toNat)

/-- The position after `n` bytes; the item is popped by the firing that uses its byte 31. -/
def scaleStep (pos n : Nat) : Nat × Bool := if 32 ≤ pos + n then (0, true) else (pos + n, false)

end Sys2Proof.Machine
end

