-- ==== Sys2Proof/Machine/GatherForm.lean ====
section
/-!
DEFINITION. Forms of the gather-merge engine: stored tiles (R112-R115), spans (R117-R123), hash records (R125-R127).
-/
namespace Sys2Proof.Machine

/-! ### Stored tiles -/

/-- The header of a stored tile (R112). -/
structure TileHdr where
  fmt   : Nat
  cfmt  : Nat
  dense : Bool
  mx    : Bool
  nm    : Nat
  rows  : Nat
  cols  : Nat
  len   : Nat
  nblk  : Nat
  nnz   : Nat
  resv  : Bool
deriving DecidableEq, Repr

def TileHdr.of (w : BitVec 256) : TileHdr :=
  { fmt := fld w 255 252, cfmt := fld w 251 250, dense := bitB w 249, mx := bitB w 248, nm := fld w 247 246,
    rows := fld w 245 239 + 1, cols := fld w 238 232 + 1, len := fld w 231 216, nblk := fld w 215 208, nnz := fld w 207 192,
    resv := decide (fld w 191 0 ≠ 0) }

def up32 (n : Nat) : Nat := (n + 31) / 32 * 32
def up64 (n : Nat) : Nat := (n + 63) / 64 * 64

def TileHdr.ipr (h : TileHdr) : Nat := (h.cols + epi h.fmt - 1) / epi h.fmt
def TileHdr.bpr (h : TileHdr) : Nat := (h.cols + 31) / 32
def TileHdr.spr (h : TileHdr) : Nat := (h.cols + 63) / 64

/-- N and M of an N:M tile (R112). -/
def TileHdr.nOf (h : TileHdr) : Nat := if h.nm = 0 then 2 else if h.nm = 1 then 4 else 1
def TileHdr.mOf (h : TileHdr) : Nat := if h.nm = 1 then 8 else 4
def TileHdr.ixBits (h : TileHdr) : Nat := if h.nm = 1 then 3 else 2

/-- Element width inside a section (R112). -/
def packW (fm : Nat) : Nat := elemBits fm

/-- Bytes of the first section: masks, indices or block list (R114); none in a dense tile. -/
def TileHdr.sec0 (h : TileHdr) : Nat :=
  if h.dense then 0
  else if h.cfmt = 0 then up32 (8 * h.rows * h.spr)
  else if h.cfmt = 1 then up32 ((h.rows * (h.cols / h.mOf) * h.nOf * h.ixBits + 7) / 8)
  else up32 h.nblk

/-- Stored values. -/
def TileHdr.vals (h : TileHdr) : Nat :=
  if h.cfmt = 0 then h.nnz else if h.cfmt = 1 then h.rows * (h.cols / h.mOf) * h.nOf else h.nblk * 1024

/-- Bytes of the value section. -/
def TileHdr.sec1 (h : TileHdr) : Nat :=
  if h.dense then up32 (h.rows * h.ipr * isz h.fmt) else up32 ((h.vals * packW h.fmt + 7) / 8)

/-- Bytes of the scale section. -/
def TileHdr.sec2 (h : TileHdr) : Nat :=
  if ! h.mx then 0 else if ! h.dense && h.cfmt = 2 then up32 (32 * h.nblk) else up32 (h.rows * h.bpr)

/-- The header rules that the header alone decides (R112, R114). NM, NBLK and NNZ are not looked at in a tile whose format does not use
them (DESIGN CHOICE, log 55). -/
def TileHdr.ok (h : TileHdr) : Bool :=
  ! h.resv && 1 ≤ h.fmt && h.fmt ≤ 8 && (h.dense || h.cfmt ≠ 3) && (! h.mx || (3 ≤ h.fmt && h.fmt ≤ 7)) &&
    (h.dense || h.cfmt ≠ 1 || (h.nm ≠ 3 && h.cols % h.mOf = 0)) &&
    (h.dense || h.cfmt ≠ 2 || (h.rows % 32 = 0 && h.cols % 32 = 0 && h.nblk ≤ 16)) &&
    (h.dense || h.cfmt ≠ 0 || h.nnz ≤ 16384) && 32 * h.len = h.sec0 + h.sec1 + h.sec2

/-- Bits [lo, lo + n) of a section that starts at byte `o`. -/
def secBits (rd : Nat → Byte) (o lo n : Nat) : Nat :=
  (leNat ((span (o + lo / 8) ((lo % 8 + n + 7) / 8)).map rd) >>> (lo % 8)) % 2 ^ n

/-- Whether mask bit of element (r, k) is set in a bitmap tile. -/
def TileHdr.maskBit (h : TileHdr) (rd : Nat → Byte) (r k : Nat) : Bool :=
  secBits rd 32 (64 * (r * h.spr + k / 64) + k % 64) 1 = 1

/-- Set bits of the bitmap before element (r, k), in row-major order over mask positions. -/
def TileHdr.rank (h : TileHdr) (rd : Nat → Byte) (r k : Nat) : Nat :=
  ((List.range (64 * h.spr * r + k)).filter (fun b => secBits rd 32 b 1 = 1)).length

/-- Index of the value kept for element (r, k) of an N:M tile: the position of its index in its group. -/
def TileHdr.nmValue (h : TileHdr) (rd : Nat → Byte) (r k : Nat) : Option Nat :=
  let g := r * (h.cols / h.mOf) + k / h.mOf
  ((List.range h.nOf).find? (fun j => secBits rd 32 ((g * h.nOf + j) * h.ixBits) h.ixBits = k % h.mOf)).map
    (fun j => g * h.nOf + j)

/-- Position of a 32 x 32 block in the list of a block-sparse tile. -/
def TileHdr.blkAt (h : TileHdr) (rd : Nat → Byte) (br bc : Nat) : Option Nat :=
  (List.range h.nblk).find? (fun j => (rd (32 + j)).toNat % 16 = 4 * br + bc)

/-- Position in the value section of element (r, k), if it is stored. -/
def TileHdr.valueAt (h : TileHdr) (rd : Nat → Byte) (r k : Nat) : Option Nat :=
  if h.cfmt = 0 then (if h.maskBit rd r k then some (h.rank rd r k) else none)
  else if h.cfmt = 1 then h.nmValue rd r k
  else (h.blkAt rd (r / 32) (k / 32)).map (fun j => j * 1024 + (r % 32) * 32 + k % 32)

/-- The rules that need the first section (R114): mask bits beyond COLS, the count of mask bits, ascending indices, ascending
blocks in the tile. Bits [7:4] of a block-list byte, to which the spec gives no meaning, must be zero (DESIGN CHOICE, log 55). -/
def TileHdr.bodyOk (h : TileHdr) (rd : Nat → Byte) : Bool :=
  if h.dense then true
  else if h.cfmt = 0 then
    h.rank rd h.rows 0 = h.nnz &&
      (List.range h.rows).all (fun r => (List.range (64 * h.spr - h.cols)).all (fun j =>
        ! h.maskBit rd r (h.cols + j)))
  else if h.cfmt = 1 then
    (List.range (h.rows * (h.cols / h.mOf))).all (fun g => (List.range (h.nOf - 1)).all (fun j =>
      secBits rd 32 ((g * h.nOf + j) * h.ixBits) h.ixBits < secBits rd 32 ((g * h.nOf + j + 1) * h.ixBits) h.ixBits))
  else
    (List.range h.nblk).all (fun j =>
      let b := (rd (32 + j)).toNat
      b < 16 && b / 4 < h.rows / 32 && b % 4 < h.cols / 32) &&
    (List.range (h.nblk - 1)).all (fun j => (rd (32 + j)).toNat < (rd (32 + j + 1)).toNat)

/-- Item `i` of a tile in row-major order (R115): dense stored rows, or elements with +0 where none is stored (R116). -/
def TileHdr.item (h : TileHdr) (rd : Nat → Byte) (i : Nat) : Item :=
  let r := i / h.ipr
  let c := i % h.ipr
  if h.dense then itemOf ((span (32 + (r * h.ipr + c) * isz h.fmt) (isz h.fmt)).map rd)
  else
    packItem h.fmt ((List.range (epi h.fmt)).map (fun j =>
      let k := c * epi h.fmt + j
      if k < h.cols then
        match h.valueAt rd r k with
        | some v => secBits rd (32 + h.sec0) (v * packW h.fmt) (packW h.fmt)
        | none => 0
      else 0))

/-- Offset of the scale byte of block `b` of row `r`, if one is stored (R113). -/
def TileHdr.scaleOff (h : TileHdr) (rd : Nat → Byte) (r b : Nat) : Option Nat :=
  let o := 32 + h.sec0 + h.sec1
  if h.bpr ≤ b then none
  else if ! h.dense && h.cfmt = 2 then (h.blkAt rd (r / 32) b).map (fun j => o + 32 * j + r % 32)
  else some (o + r * h.bpr + b)

/-- Scale byte of block `b` of row `r`; a block with none stored has 0x7F (R113). -/
def TileHdr.scaleAt (h : TileHdr) (rd : Nat → Byte) (r b : Nat) : Nat :=
  match h.scaleOff rd r b with
  | some o => (rd o).toNat
  | none => 0x7F

/-- Scale bytes that item `i` places in the scale output, as R66 consumes them. -/
def TileHdr.scales (h : TileHdr) (rd : Nat → Byte) (i : Nat) : List Nat :=
  if h.mx then (List.range (blocks h.fmt)).map (fun b => h.scaleAt rd (i / h.ipr) ((i % h.ipr) * blocks h.fmt + b)) else []

def TileHdr.items (h : TileHdr) : Nat := h.rows * h.ipr

/-- Offsets of the bytes a bit field of a section covers. -/
def secBytes (o lo n : Nat) : List Nat := span (o + lo / 8) ((lo % 8 + n + 7) / 8)

/-- Offsets of the bytes that item `i` of a tile consumes: its values, and its scale bytes where it places any. -/
def TileHdr.used (h : TileHdr) (rd : Nat → Byte) (i : Nat) (scaled : Bool) : List Nat :=
  let r := i / h.ipr
  let c := i % h.ipr
  (if h.dense then span (32 + i * isz h.fmt) (isz h.fmt)
   else
    (List.range (epi h.fmt)).flatMap (fun j =>
      let k := c * epi h.fmt + j
      if k < h.cols then
        match h.valueAt rd r k with
        | some v => secBytes (32 + h.sec0) (v * packW h.fmt) (packW h.fmt)
        | none => []
      else [])) ++
  (if scaled && h.mx then (List.range (blocks h.fmt)).flatMap (fun b => (h.scaleOff rd r (c * blocks h.fmt + b)).toList) else [])

/-- Stored bytes of a tile, header included. -/
def TileHdr.size (h : TileHdr) : Nat := 32 + 32 * h.len

/-- A byte of the fetch ring at a stream offset counted from the command's ADDR. -/
def ringByte (c : Cell) (d : Desc) (o : Nat) : Byte := c.data.byte (d.base + o % max d.bound 1)

/-- Staging addresses of the bytes at stream offsets counted from a tile's start at offset `o`. -/
def ringAddrs (d : Desc) (o : Nat) (l : List Nat) : List Nat := l.map (fun k => d.base + (o + k) % max d.bound 1)

/-- The stored-tile header at a stream offset. -/
def tileAt (c : Cell) (d : Desc) (o : Nat) : TileHdr := TileHdr.of (itemOf ((span o 32).map (ringByte c d)))

/-- Bytes of the expand stream of slot `n` that have arrived without a gap: up to the first byte of a fetch still outstanding. -/
def arrivedTo (c : Cell) (n : Nat) (e : Expand) : Nat :=
  c.reqs.foldl (fun m r => match r.kind with
    | .fetch off _ none _ => if r.slot = n then min m off else m
    | _ => m) e.asked

/-- The first stream offset whose bytes the ring must still hold: a dense tile without scales gives up its items as they are emitted, any
other tile is held to its end (R115). -/
def Expand.heldFrom (e : Expand) : Nat :=
  match e.hdr with
  | none => e.tileOff
  | some w =>
    let h := TileHdr.of w
    if h.dense && ! h.mx then e.tileOff + (if e.item = 0 then 0 else (32 + e.item * isz h.fmt) / 64 * 64) else e.tileOff

/-- How far the engine can ask: through the tiles whose headers have arrived, and the next header (R115). -/
def askTo (c : Cell) (d : Desc) (got : Nat) : Nat → Nat → Nat
  | 0, o => o
  | n + 1, o =>
    if o + 32 ≤ got then
      let h := tileAt c d o
      let e := o + h.size
      if h.ok then max (up64 e) (askTo c d got n (up64 e)) else o + 64
    else o + 64

/-- How far the engine asks from the tile it works on (R115). -/
def Expand.goal (c : Cell) (d : Desc) (got : Nat) (e : Expand) : Nat :=
  match e.hdr with
  | none => e.tileOff + 64
  | some w =>
    let h := TileHdr.of w
    let next := up64 (e.tileOff + h.size)
    if h.ok then (if e.left ≤ 1 then next else max next (askTo c d got (e.left - 1) next)) else e.tileOff + 64

/-- The expand command at the head of a queue (R115). -/
structure ExpCmd where
  addr  : Nat
  count : Nat
  rows  : Nat
  cols  : Nat
deriving DecidableEq, Repr

def ExpCmd.of (it : Item) : ExpCmd :=
  { addr := itemLe it 0 8, count := itemLe it 8 2, rows := itemLe it 10 1, cols := itemLe it 11 1 }

/-! ### Spans -/

/-- The span command (R118). -/
structure SpanCmd where
  base    : Nat
  gstride : Nat
  hist    : Nat
  layer   : Nat
  groups  : Nat
  rows    : Nat
  fmt     : Nat
  mx      : Bool
  resv    : Bool
deriving DecidableEq, Repr

/-- The fields of a span command; set bits above HIST's, GROUPS', ROWS' and SFMT's widths count as reserved (DESIGN CHOICE, log 55). -/
def SpanCmd.of (it : Item) : SpanCmd :=
  { base := itemLe it 0 8, gstride := itemLe it 8 4, hist := itemLe it 16 2, layer := itemLe it 18 2,
    groups := itemLe it 20 1 % 64 + 1, rows := itemLe it 21 1 % 128 + 1, fmt := itemLe it 22 1 % 16,
    mx := decide (itemLe it 22 1 / 16 % 2 = 1),
    resv := decide (itemLe it 12 4 ≠ 0) || decide (itemLe it 23 9 ≠ 0) || decide (64 ≤ itemLe it 20 1) ||
      decide (128 ≤ itemLe it 21 1) || decide (32 ≤ itemLe it 22 1) || decide (4096 ≤ itemLe it 16 2) }

/-- Bytes of one output row of a group, and of a group block (R117). -/
def groupRow (fm : Nat) : Nat := if fm = 7 then 16 else if fm = 5 ∨ fm = 6 then 24 else 32
def gLen (fm rows : Nat) (mx : Bool) : Nat := up64 (rows * groupRow fm + if mx then rows else 0)

/-- Groups per item (R121). -/
def gpi (fm : Nat) : Nat := if fm = 7 then 2 else 1

def Span.glen (p : Span) : Nat := gLen p.fmt p.rows p.mx
def Span.columns (p : Span) : Nat := (p.groups + gpi p.fmt - 1) / gpi p.fmt
def Span.items (p : Span) : Nat := p.rows * p.columns

def popcount (w : BitVec 64) : Nat := ((List.range 64).filter (fun k => w.getLsbD k)).length

/-- The first `n` bits set. -/
def lowMask (n : Nat) : BitVec 64 := BitVec.ofNat 64 (2 ^ n - 1)

/-- GC_CFG fields (R110). -/
def cfgThresh (w : Word) : Nat := min 16 (fld w 20 16)
def cfgBudget (w : Word) : Nat := fld w 13 8
def cfgPredEn (w : Word) : Bool := bitB w 0

/-- The open span that a CHECK slot of descriptor `d` works on: the first with groups left, should two be open (DESIGN CHOICE, log 55). -/
def spanToCheck (c : Cell) (d : Nat) : Option Span := c.gc.spans.find? (fun p => p.desc = d && p.checked < p.groups)

/-- The open span that a GATHER slot of descriptor `d` works on: the first with items left, should two be open (DESIGN CHOICE, log 55). -/
def spanToEmit (c : Cell) (d : Nat) : Option Span := c.gc.spans.find? (fun p => p.desc = d && p.emitted < p.items)

/-- Whether group `g` of a span has arrived in staging. -/
def Span.here (p : Span) (g : Nat) : Bool := p.fetched.getLsbD g && (tgetD p.missing g 0 = 0)

/-- The groups that the span's next item covers. -/
def Span.nextGroups (p : Span) : List Nat :=
  (span (gpi p.fmt * (p.emitted / p.rows)) (gpi p.fmt)).filter (fun g => g < p.groups)

/-- Whether the span's next item can be emitted (R123). -/
def Span.canEmit (p : Span) : Bool := p.nextGroups.all (fun g => g < p.checked && (! p.live.getLsbD g || p.here g))

/-- A span updated in the list; its number makes it the only one. -/
def updSpan (l : List Span) (p : Span) (q : Span) : List Span := l.map (fun r => if r = p then q else r)

/-- The elements of row `r` of group `g` in staging, and its scale byte (R117). -/
def groupElemsAt (c : Cell) (d : Desc) (p : Span) (g r : Nat) : List Nat :=
  let o := d.base + g * p.glen + r * groupRow p.fmt
  (List.range 32).map (fun k => secBits c.data.byte o (packW p.fmt * k) (packW p.fmt))

def groupScaleAt (c : Cell) (d : Desc) (p : Span) (g r : Nat) : Nat :=
  (c.data.byte (d.base + g * p.glen + p.rows * groupRow p.fmt + r)).toNat

/-- The span's next item and its scale bytes: the stored row of a live group, zeros of a dead one (R123). -/
def spanItem (c : Cell) (d : Desc) (p : Span) : Item × List Nat :=
  let r := p.emitted % p.rows
  let gs := span (gpi p.fmt * (p.emitted / p.rows)) (gpi p.fmt)
  (packItem p.fmt (gs.flatMap (fun g => if g < p.groups && p.live.getLsbD g then groupElemsAt c d p g r else copies 32 0)),
   gs.map (fun g => if g < p.groups && p.live.getLsbD g then groupScaleAt c d p g r else 0x7F))

/-- Staging addresses of the bytes that the span's next item consumes: the rows of its live groups, and their scale bytes where it
places any. -/
def spanUsed (d : Desc) (p : Span) (scaled : Bool) : List Nat :=
  let r := p.emitted % p.rows
  ((span (gpi p.fmt * (p.emitted / p.rows)) (gpi p.fmt)).filter (fun g => g < p.groups && p.live.getLsbD g)).flatMap (fun g =>
    span (d.base + g * p.glen + r * groupRow p.fmt) (groupRow p.fmt) ++
      (if scaled then [d.base + g * p.glen + p.rows * groupRow p.fmt + r] else []))

/-- Whether a group of an activation item is live: an element of nonzero magnitude, or block scale 0xFF (R121). -/
def groupLive (fm : Nat) (it : Item) (j : Nat) (sc : Option Nat) : Bool :=
  (List.range 32).any (fun k => elem fm it (32 * j + k) % 2 ^ (if fm = 8 then 8 else elemBits fm - 1) ≠ 0) || sc = some 0xFF

/-! ### Hash records (R125, R126) -/

def hKey (r : BitVec 128) : Nat := fld r 127 96
def hValid (r : BitVec 128) : Bool := bitB r 95
def hCount (r : BitVec 128) : Nat := fld r 79 64
def hVal1 (r : BitVec 128) : Word := word (fld r 63 32)
def hVal0 (r : BitVec 128) : Word := word (fld r 31 0)

def hRec (key count : Nat) (v1 v0 : Word) : BitVec 128 :=
  BitVec.ofNat 128 (key * 2 ^ 96 + 2 ^ 95 + count * 2 ^ 64 + v1.toNat * 2 ^ 32 + v0.toNat)

/-- Probe `p` of a key (R126). -/
def hProbe (key p : Nat) : Nat :=
  let h := (key * 0x9E3779B1) % 2 ^ 32
  let s := h / 2 ^ 22
  let t := (h / 2 ^ 12 % 1024) / 2 * 2 + 1
  (s + p * t) % 1024

/-- The entries of a set, by way. -/
def hWays (t : Tbl (BitVec 128)) (set : Nat) : List (Nat × BitVec 128) :=
  (List.range 4).map (fun w => (4 * set + w, tgetD t (4 * set + w) 0))

/-- A record applied to the table (R127): the new table and whether the record found a place. -/
def hAdd (t : Tbl (BitVec 128)) (r : BitVec 128) : List Nat → Tbl (BitVec 128) × Bool
  | [] => (t, false)
  | p :: ps =>
    let ways := hWays t (hProbe (hKey r) p)
    match ways.find? (fun e => hValid e.2 && hKey e.2 = hKey r) with
    | some e =>
      let e0 := (fadd (hVal0 e.2) (hVal0 r)).1
      let e1 := (fadd (hVal1 e.2) (hVal1 r)).1
      (tset t e.1 (hRec (hKey r) (min (hCount e.2 + 1) 0xFFFF) e1 e0), true)
    | none =>
      match ways.find? (fun e => ! hValid e.2) with
      | some e => (tset t e.1 r, true)
      | none => hAdd t r ps

/-- The probes that a record takes (R127): up to the one that finds a place, four when none does. -/
def hTries (t : Tbl (BitVec 128)) (r : BitVec 128) : List Nat → Nat
  | [] => 0
  | p :: ps =>
    let ways := hWays t (hProbe (hKey r) p)
    if ways.any (fun e => ! hValid e.2 || hKey e.2 = hKey r) then 1 else 1 + hTries t r ps

/-- Words of the sets that a record's probes read. -/
def hWords (t : Tbl (BitVec 128)) (r : BitVec 128) : List Nat :=
  ([0, 1, 2, 3].take (hTries t r [0, 1, 2, 3])).flatMap (fun p => span (8 * hProbe (hKey r) p) 8)

/-- Valid entries in scan order (R129): the table is sparse and in rising order of set and way. -/
def hScan (t : Tbl (BitVec 128)) : List (BitVec 128) := (t.map (·.2)).filter hValid

/-- Entries two per item; an item with one entry has zeros in its high half (R129). -/
def pairItems : List (BitVec 128) → List Item
  | a :: b :: t => BitVec.ofNat 256 (a.toNat + b.toNat * 2 ^ 128) :: pairItems t
  | [a] => [BitVec.ofNat 256 a.toNat]
  | [] => []

/-- The terminator item (R129). -/
def hTerm (n : Nat) : Item := BitVec.ofNat 256 (0xFFFFFFFF * 2 ^ 96 + n % 2 ^ 32)

/-- A whole drain (R129): the items of steps 2, 4, 5 and 6 in order, and the residue records of step 5. -/
def hDrain (t : Tbl (BitVec 128)) (spill : List (BitVec 128)) : List Item × List (BitVec 128) :=
  let first := hScan t
  let r := spill.foldl (fun (a : Tbl (BitVec 128) × List (BitVec 128)) rec =>
    let q := hAdd a.1 rec [0, 1, 2, 3]
    if q.2 then (q.1, a.2) else (a.1, a.2 ++ [rec])) ([], [])
  let second := hScan r.1
  (pairItems first ++ pairItems second ++ pairItems r.2 ++ [hTerm (first.length + second.length + r.2.length)], r.2)

end Sys2Proof.Machine
end

