-- ==== Sys2Proof/Machine/Issue.lean ====
section
/-!
DEFINITION. What a slot needs to fire and the firing itself (R41-R46): the plan of each op, readiness, the competition of R43,
pops, and the errors that freeze the cell in place of a firing.
-/
namespace Sys2Proof.Machine

/-- What a firing of a slot needs: its units and how long it holds them, the queues it pops and those whose head it only reads,
the places it promises from pulse t + lat on and those it fills in pulse t, the descriptor-table entries it reads, the SRAM banks that
its operand reads use (R36), and the op's own further conditions. -/
structure Plan where
  units : List Exu
  hold  : Nat
  pops  : List Nat
  peeks : List Nat
  rooms : List (Nat × Nat)
  lat   : Nat
  descs : List Nat
  go    : Bool
  now   : List Nat := []
  banks : List Nat := []
deriving DecidableEq, Repr

/-- The queue a source code names (R39). -/
def srcQ (code : Nat) : List Nat := if code < 8 then [code] else []

def roomsOf (qs : List Nat) (k : Nat) : List (Nat × Nat) := qs.map (fun q => (q, k))

/-- Descriptor-table entries behind a descriptor: itself and its mask entry. -/
def descUse (c : Cell) (i : Nat) : List Nat := if (c.desc i).mskEn then [i, (c.desc i).msk] else [i]

/-! ### Plans of the common ops (R48, R51) -/

/-- MERGE's chosen input: token bit 0 (R51). -/
def mergeSrc (c : Cell) (w : BitVec 128) : Nat := if bitB (c.headItem (sCtl w)) 0 then sSrc1 w else sSrc0 w

/-- ROUTE's chosen queue: the (v mod m)-th lowest set bit of DST (R51). -/
def routeQ (c : Cell) (w : BitVec 128) : List Nat :=
  let qs := dstQs w
  match qs[(itemByte (c.headItem (sCtl w)) 0).toNat % qs.length]? with
  | some q => [q]
  | none => []

/-- A SYNC unit holds at most 8 requests (R208). -/
def syncReqs (c : Cell) : Nat := (c.reqs.filter (fun r => match r.kind with
  | .sync _ _ => true
  | _ => false)).length

/-- The common ops. While no token is present ROUTE has no chosen queue to need room in. In part DEDUCED, log 40. -/
def planCommon (c : Cell) (w : BitVec 128) : Option Plan :=
  let one := fun (u : Exu) (pops : List Nat) (rooms : List Nat) (lat : Nat) (go : Bool) =>
    some { units := [u], hold := 1, pops := pops, peeks := [], rooms := roomsOf rooms 1, lat := lat, descs := [], go := go }
  let src0 := srcQ (sSrc0 w)
  let ctl := srcQ (sCtl w)
  match sOp w with
  | 0x30 => if src0 = [] then none else one .steer src0 (dstQs w) 1 true
  | 0x31 => if src0 = [] ∨ srcQ (sSrc1 w) = [] ∨ ctl = [] then none else one .steer (ctl ++ src0 ++ srcQ (sSrc1 w)) (dstQs w) 1 true
  | 0x32 => if src0 = [] ∨ srcQ (sSrc1 w) = [] ∨ ctl = [] then none
      else one .steer (ctl ++ (if (c.queue (sCtl w)).hw = [] then [] else srcQ (mergeSrc c w))) (dstQs w) 1 true
  | 0x33 => if src0 = [] ∨ ctl = [] then none
      else one .steer (ctl ++ src0) (if (c.queue (sCtl w)).hw = [] then [] else routeQ c w) 1 true
  | 0x34 => one .steer src0 (dstQs w) 1 true
  | 0x35 => if src0 = [] then none else one .steer src0 (dstQs w) 2 true
  | 0x38 => one .sync src0 (dstQs w) 1 (syncReqs c < 8)
  | _ => none

/-! ### C-cells (R47, R64-R66, R73) -/

/-- Scale queue of an operand: only an operand that comes from a queue has one (R65). -/
def opScq (code field : Nat) : Option Nat := if code < 8 then scqOf field else none

/-- Pops and peeks of a scale queue at byte position `pos` for `n` bytes; a slot that retires pops an item it used in part (R66). -/
def scqPops (q : Option Nat) (pos n : Nat) (last : Bool) : List Nat × List Nat :=
  match q with
  | none => ([], [])
  | some v => if (scaleStep pos n).2 || last then ([v], []) else ([], [v])

/-- The tile position and descriptor each unit of a DOT reads SRC1 through (R88). -/
def dotUnits (c : Cell) (w : BitVec 128) : List (Nat × Option (Nat × Nat × Nat)) :=
  let d := sOpb w % 128
  if (sMod w).testBit 2 then
    (List.range 4).map (fun u =>
      (u, some (d, if (c.desc d).quad then (c.walkPos d, u) else (c.walkPos d + u, 0))))
  else [(0, if sSrc1 w = 8 then some (d, c.walkPos d, 0) else none)]

/-- A descriptor with its position at a step of its walk. -/
def placeAt (c : Cell) (i n u : Nat) : Desc × Pos := (c.desc i, (c.desc i).pos n u)

/-- The descriptor with ACC_EN = 1, and the position, that give a unit's accumulator offset (R91): SRC1's when it has ACC_EN, else
SRC0's. Where both have it the spec does not say whose row counts; SRC1's does (DESIGN CHOICE, log 53). -/
def accFrom (c : Cell) (w : BitVec 128) (u : Option (Nat × Nat × Nat)) : Option (Desc × Pos) :=
  let b := (u.map (fun t => placeAt c t.1 t.2.1 t.2.2)).filter (fun p => p.1.accEn)
  if b.isSome then b
  else if sSrc0 w = 8 then (some (placeAt c (sOpa w % 128) (c.walkPos (sOpa w % 128)) 0)).filter (fun p => p.1.accEn)
  else none

/-- The lowest and highest accumulator that a DOT firing can touch. -/
def dotRange (c : Cell) (w : BitVec 128) : Nat × Nat :=
  let ix := (dotUnits c w).map (fun u => accIndex (sOpc w) u.1 (accFrom c w u.2))
  (ix.foldl min (lgetD ix 0 0), ix.foldl max 0)

/-- Whether accumulator ranges overlap. -/
def overlaps (lo len lo' len' : Nat) : Bool := lo < lo' + len' && lo' < lo + len

/-- An accumulator range is free of ops of the other kind in flight at the start of this pulse (R46), and of open sight windows (R219). -/
def accFree (c : Cell) (isDot : Bool) (lo len : Nat) : Bool :=
  c.ops.all (fun o => o.isDot = isDot || ! overlaps lo len o.accLo o.accLen) &&
    c.accHeld.all (fun o => o.1 = isDot || ! overlaps lo len o.2.1 o.2.2) &&
    (isDot || c.sg.wins.all (fun v => v.2.firings = 0 || ! overlaps lo len v.2.accLo (v.2.accHi + 1 - v.2.accLo)))

/-- SRAM banks that one read through a descriptor uses: those of the granules it reads (R36, R94). -/
def banksRead (k : Cls) (c : Cell) (i n u : Nat) : List Nat :=
  (readDesc c.seen (storeSize k) (c.maskOf (c.desc i)) (c.desc i) n u).gran.map (bankAt k)

/-- Banks of a source operand: those of the next step when it is a descriptor. -/
def srcBanks (k : Cls) (c : Cell) (code i : Nat) : List Nat := if code = 8 then banksRead k c i (c.walkPos i) 0 else []

def planDot (c : Cell) (w : BitVec 128) (r : SlotRun) : Option Plan :=
  let nb := blocks (sFmt w)
  let a := scqPops (opScq (sSrc0 w) (sOpa w)) r.sc0 nb (lastFiring w r)
  let b := scqPops (opScq (sSrc1 w) (sOpb w)) r.sc1 nb (lastFiring w r)
  let all4 := (sMod w).testBit 2
  let rng := dotRange c w
  some { units := if all4 then [.dot 0, .dot 1, .dot 2, .dot 3] else [.dot (sMod w % 4)],
         hold := if sFmt w = 1 ∨ sFmt w = 2 then 2 else 1,
         pops := srcQ (sSrc0 w) ++ srcQ (sSrc1 w) ++ a.1 ++ b.1, peeks := a.2 ++ b.2,
         rooms := if (sMod w).testBit 3 then roomsOf (dstQs w) 1 else [], lat := 1,
         descs := (if sSrc0 w = 8 then descUse c (sOpa w % 128) else []) ++ (if sSrc1 w = 8 then descUse c (sOpb w % 128) else []),
         go := accFree c true rng.1 (rng.2 + 1 - rng.1),
         banks := srcBanks .c c (sSrc0 w) (sOpa w % 128) ++ (dotUnits c w).flatMap (fun u => match u.2 with
           | some t => banksRead .c c t.1 t.2.1 t.2.2
           | none => []) }

/-- Whether a narrowing firing completes its target item: it has the last elements, or the slot retires (R73). -/
def fills (w : BitVec 128) (r : SlotRun) : Bool := epi (sFmt w) ≤ r.block.length + 8 || lastFiring w r

/-- First accumulator of an ACC_OUT firing: OPC stepped by 8 for each firing since START (R47). -/
def accOutBase (w : BitVec 128) (r : SlotRun) : Nat := sOpc w + 8 * r.count

def planAccOut (c : Cell) (w : BitVec 128) (r : SlotRun) : Option Plan :=
  some { units := [.acc], hold := 1, pops := [], peeks := [], rooms := if fills w r then roomsOf (dstQs w) 1 else [], lat := 3,
         descs := [], go := accFree c false (accOutBase w r) 8 }

def planAccClr (c : Cell) (w : BitVec 128) : Option Plan :=
  some { units := [.acc], hold := max 1 ((sOpb w + 63) / 64), pops := [], peeks := [], rooms := [], lat := 1, descs := [],
         go := accFree c false (sOpc w) (sOpb w) }

/-- VADD, VMUL and VMAX with HOLD (R47). -/
def planVec (c : Cell) (w : BitVec 128) (r : SlotRun) : Option Plan :=
  let s1 := srcQ (sSrc1 w)
  let hold := (sMod w).testBit 0
  let popNow := ! hold || (r.count + 1) % max 1 (sOpc w) = 0
  if sSrc0 w > 8 ∨ sSrc1 w > 8 then none
  else some { units := [.vec], hold := 1, pops := srcQ (sSrc0 w) ++ (if popNow then s1 else []),
              peeks := if popNow then [] else s1, rooms := roomsOf (dstQs w) 1, lat := 4,
              descs := (if sSrc0 w = 8 then descUse c (sOpa w % 128) else []) ++
                (if sSrc1 w = 8 then descUse c (sOpb w % 128) else []), go := true,
              banks := srcBanks .c c (sSrc0 w) (sOpa w % 128) ++ srcBanks .c c (sSrc1 w) (sOpb w % 128) }

def planScale (c : Cell) (w : BitVec 128) : Option Plan :=
  if sSrc0 w > 8 then none
  else some { units := [.vec], hold := 1, pops := srcQ (sSrc0 w), peeks := [], rooms := roomsOf (dstQs w) 1, lat := 4,
              descs := if sSrc0 w = 8 then descUse c (sOpc w % 128) else [], go := true,
              banks := srcBanks .c c (sSrc0 w) (sOpc w % 128) }

/-- Firings that a widening CVT makes of one source item (R73). -/
def widenN (w : BitVec 128) : Nat := max 1 (epi (sMod w) / 8)

/-- Firings of one block of a widening source: the block's scale byte is used up by its last firing (R66, R73). -/
def blockEnd (w : BitVec 128) (pos : Nat) : Bool := (8 * (pos + 1)) % 32 = 0 || pos + 1 = widenN w

/-- Whether a CVT narrows from FP32 (R73). -/
def isNarrow (w : BitVec 128) : Bool := sMod w = 0

/-- The scale queue of a CVT: read for an MX source, written for an MX target, else none (R74). -/
def cvtScq (w : BitVec 128) : Option Nat :=
  let fm := if isNarrow w then sFmt w else sMod w
  if 3 ≤ fm ∧ fm ≤ 7 then scqOf (sOpa w) else none

/-- Whether a narrowing firing completes a scale item (R75). -/
def fillsScale (w : BitVec 128) (r : SlotRun) : Bool :=
  (cvtScq w).isSome && fills w r && (32 ≤ r.scPart.length + blocks (sFmt w) || lastFiring w r)

def planCvt (c : Cell) (w : BitVec 128) (r : SlotRun) : Option Plan :=
  if sSrc0 w > 8 then none
  else
    let descs := if sSrc0 w = 8 then descUse c (sOpc w % 128) else []
    let banks := if r.wide = 0 then srcBanks .c c (sSrc0 w) (sOpc w % 128) else []
    if isNarrow w then
      some { units := [.vec], hold := 1, pops := srcQ (sSrc0 w), peeks := [],
             rooms := (if fills w r then roomsOf (dstQs w) 1 else []) ++
               (if fillsScale w r then roomsOf ((cvtScq w).toList) 1 else []), lat := 4, descs := descs, go := true, banks := banks }
    else
      let done := r.wide + 1 = widenN w || lastFiring w r
      let scq := if sSrc0 w < 8 then cvtScq w else none
      let sc := match scq with
        | none => ([], [])
        | some q => if (blockEnd w r.wide && (scaleStep r.sc0 1).2) || lastFiring w r then ([q], []) else ([], [q])
      some { units := [.vec], hold := 1, pops := (if done then srcQ (sSrc0 w) else []) ++ sc.1,
             peeks := (if done then [] else srcQ (sSrc0 w)) ++ sc.2, rooms := roomsOf (dstQs w) 1, lat := 4, descs := descs,
             go := true, banks := banks }

def planLoad (k : Cls) (c : Cell) (w : BitVec 128) (u : Exu) (lat : Nat) : Option Plan :=
  some { units := [u], hold := 1, pops := [], peeks := [], rooms := roomsOf (dstQs w) 1, lat := lat,
         descs := descUse c (sOpa w % 128), go := true, banks := if k = .p then [] else srcBanks k c 8 (sOpa w % 128) }

def planStore (c : Cell) (w : BitVec 128) (u : Exu) : Option Plan :=
  if srcQ (sSrc0 w) = [] then none
  else some { units := [u], hold := 1, pops := srcQ (sSrc0 w), peeks := [], rooms := [], lat := 2,
              descs := descUse c (sOpa w % 128), go := true }

def planC (c : Cell) (w : BitVec 128) (r : SlotRun) : Option Plan :=
  match sOp w with
  | 0x01 => planDot c w r
  | 0x02 => planAccOut c w r
  | 0x03 => planAccClr c w
  | 0x10 => planVec c w r
  | 0x11 => planVec c w r
  | 0x12 => planVec c w r
  | 0x13 => planScale c w
  | 0x18 => planCvt c w r
  | 0x20 => planLoad .c c w .move 3
  | 0x21 => planStore c w .move
  | _ => none

/-! ### M, F and P cells (R49) -/

def planM (c : Cell) (w : BitVec 128) : Option Plan :=
  match sOp w with
  | 0x01 => planLoad .m c w (.strm (sMod w % 4)) 4
  | 0x02 => planStore c w (.strm (sMod w % 4))
  | 0x03 =>
    if srcQ (sSrc0 w) = [] then none
    else some { units := [.dma], hold := 1, pops := srcQ (sSrc0 w), peeks := [], rooms := roomsOf (dstQs w) 1, lat := 1,
                descs := descUse c (sOpa w % 128) ++ descUse c (sOpb w % 128), go := true }
  | _ => none

/-- A reduction firing that takes the last of its OPB items (R80). -/
def redLast (w : BitVec 128) (r : SlotRun) : Bool := (r.count + 1) % max 1 (sOpb w) = 0

def planF (w : BitVec 128) (r : SlotRun) : Option Plan :=
  let fn := fun (hold k : Nat) =>
    if srcQ (sSrc0 w) = [] then none
    else some { units := [Exu.fn], hold := hold, pops := srcQ (sSrc0 w), peeks := [], rooms := roomsOf (dstQs w) k, lat := 8,
                descs := [], go := true }
  let red := fun (u : Exu) (k lat : Nat) =>
    if srcQ (sSrc0 w) = [] then none
    else some { units := [u], hold := 1, pops := srcQ (sSrc0 w), peeks := [],
                rooms := if redLast w r then roomsOf (dstQs w) k else [], lat := lat, descs := [], go := true }
  match sOp w with
  | 0x01 => fn 1 1
  | 0x02 => fn 1 1
  | 0x03 => fn 1 1
  | 0x04 => fn 1 1
  | 0x05 => fn 1 1
  | 0x06 => fn 1 1
  | 0x07 => fn 2 2
  | 0x08 => planVec Cell.reset w r
  | 0x09 => planVec Cell.reset w r
  | 0x0A => planVec Cell.reset w r
  | 0x10 => red .red 1 6
  | 0x11 => red .red 1 6
  | 0x12 => red .topk ((sOpa w + 3) / 4) 10
  | _ => none

/-- Posted-write entries (R173). -/
def pwbRoom (c : Cell) : Bool := c.pc.pwb.length < 16

def planP (c : Cell) (w : BitVec 128) : Option Plan :=
  match sOp w with
  | 0x01 => planLoad .p c w .chan 3
  | 0x02 => (planStore c w .chan).map (fun p => { p with lat := 3, go := pwbRoom c })
  | _ => none

/-! ### G cells (R108-R129) -/

/-- The stored tile the coming EXPAND firing of slot `n` works on, when its header has been read. -/
def expTile (c : Cell) (n : Nat) : Option (Expand × TileHdr) :=
  match tget c.gc.expands n with
  | some e => e.hdr.map (fun h => (e, TileHdr.of h))
  | none => none

/-- Whether the bytes of the tile's next item have arrived: the tile's sections in full up to the item's values or, with
scales, up to the end (R115). -/
def expReady (c : Cell) (n : Nat) (e : Expand) (h : TileHdr) : Bool :=
  let got := arrivedTo c n e
  if h.mx then e.tileOff + h.size ≤ got
  else if h.dense then e.tileOff + 32 + (e.item + 1) * isz h.fmt ≤ got
  else e.tileOff + 32 + h.sec0 + h.sec1 ≤ got

/-- Scale bytes of one firing, and whether they complete a scale item. -/
def scaleRoom (w : BitVec 128) (r : SlotRun) : List Nat :=
  match scqOf (sOpb w) with
  | some q => if 32 ≤ r.scPart.length + blocks (sFmt w) then [q] else []
  | none => []

/-- The forward queue of CHECK for scale items (R108). -/
def fwdQ (w : BitVec 128) : List Nat := if (sOpc w).testBit 15 then [sOpc w % 8] else []

/-- The ops of a G-cell. An EXPAND without its command is held by the command queue alone; one whose header is not here waits (R115).
A CHECK waits for its span's history record, since only PLAN's prediction says what is fetched (DEDUCED, log 40); the scale item it
forwards is written in its own pulse and needs room there as any item does (R121; DEDUCED, log 40). -/
def planG (c : Cell) (n : Nat) (w : BitVec 128) (r : SlotRun) : Option Plan :=
  let d := sOpa w % 128
  match sOp w, sMod w with
  | 0x01, 0 =>
    if srcQ (sSrc0 w) = [] then none
    else
      match expTile c n with
      | none => some { units := [.gath], hold := 1, pops := [], peeks := srcQ (sSrc0 w), rooms := roomsOf (dstQs w) 1, lat := 4,
                       descs := [d], go := (tget c.gc.expands n).isNone && ((c.queue (sSrc0 w)).head c.pulse).isNone }
      | some (e, h) =>
        let last := e.left = 1 && e.item + 1 = h.items
        some { units := [.gath], hold := 1, pops := if last then srcQ (sSrc0 w) else [],
               peeks := if last then [] else srcQ (sSrc0 w), rooms := roomsOf (dstQs w ++ scaleRoom w r) 1, lat := 4,
               descs := [d], go := expReady c n e h }
  | 0x01, 1 =>
    some { units := [.gath], hold := 1, pops := [], peeks := [], rooms := roomsOf (dstQs w ++ scaleRoom w r) 1, lat := 4,
           descs := [d], go := match spanToEmit c d with
             | some p => p.canEmit
             | none => false }
  | 0x02, 0 =>
    if srcQ (sSrc0 w) = [] then none
    else some { units := [.pred], hold := 1, pops := srcQ (sSrc0 w), peeks := [], rooms := [], lat := 2, descs := [d],
                go := c.gc.spans.length < 2 }
  | 0x02, 1 =>
    let sc := scqPops (scqOf (sOpb w)) r.sc0 (blocks (sFmt w)) (lastFiring w r)
    if srcQ (sSrc0 w) = [] then none
    else some { units := [.pred], hold := 1, pops := srcQ (sSrc0 w) ++ sc.1, peeks := sc.2,
                rooms := roomsOf (dstQs w) 1, now := if sc.1 = [] then [] else fwdQ w, lat := 2, descs := [d],
                go := match spanToCheck c d with
                  | some p => p.planned
                  | none => false }
  | 0x03, _ =>
    if srcQ (sSrc0 w) = [] then none
    else some { units := [.hash], hold := 1, pops := srcQ (sSrc0 w), peeks := [], rooms := [], lat := 3, descs := [],
                go := c.gc.hashFree ≤ c.pulse }
  | 0x04, _ =>
    if srcQ (sSrc0 w) = [] then none
    else some { units := [.hash], hold := 1, pops := srcQ (sSrc0 w), peeks := [], rooms := [], lat := 4, descs := [],
                go := c.gc.hashFree ≤ c.pulse }
  | _, _ => none

/-- The plan of slot `n` of a cell of class `k`. -/
def planOf (k : Cls) (c : Cell) (n : Nat) : Option Plan :=
  let w := c.slot n
  let r := c.run n
  if sOp w = 0 then none
  else if 0x30 ≤ sOp w then planCommon c w
  else match k with
    | .c => planC c w r
    | .m => planM c w
    | .f => planF w r
    | .p => planP c w
    | .g => planG c n w r

/-! ### Readiness (R41) and competition (R43) -/

/-- An issue unit is free: nothing holds it beyond this pulse; a drain holds HASH until it ends (R129, R130). -/
def unitFree (c : Cell) (u : Exu) : Bool :=
  c.busy.all (fun b => b.1 ≠ u || b.2 ≤ c.pulse) && (u ≠ .hash || c.gc.drain.isNone)

/-- Rules 4 to 6 of R41 and the op's own conditions. -/
def planHas (c : Cell) (p : Plan) : Bool := (p.pops ++ p.peeks).all (fun q => ((c.queue q).head c.pulse).isSome)
def planRoom (c : Cell) (p : Plan) : Bool :=
  p.rooms.all (fun r => roomFor c r.1 r.2 (c.pulse + p.lat)) &&
    p.now.all (fun q => roomFor c q 1 c.pulse && (c.queue q).lastPut ≠ some c.pulse)

/-- No granule move or scrub access has taken a bank that the operand reads need (R36, R184). -/
def banksFree (c : Cell) (p : Plan) : Bool := c.bankUse = [] || p.banks.all (fun b => ! c.bankUse.contains b)

def planFree (c : Cell) (p : Plan) : Bool := p.go && p.units.all (unitFree c) && banksFree c p

/-- The slots that issue in one pulse do so in ascending order (R89). In part DEDUCED, log 35. -/
def inTurn (c : Cell) (n : Nat) : Bool :=
  match c.lastIssue with
  | some (p, m) => p ≠ c.pulse || m < n
  | none => true

/-- A STOP or a pending APPLY keeps slots from issuing from the pulse after it on (R57, R60). -/
def Cell.halted (c : Cell) : Bool := (c.stopping || c.applyPending) && c.haltFrom ≤ c.pulse

/-- Rules 1 to 3 of R41. -/
def slotOn (c : Cell) (n : Nat) : Bool :=
  let w := c.slot n
  bitB c.slotEn n && ! (c.run n).retired && c.state = .active && ! c.halted &&
    c.issueFrom ≤ c.pulse && inTurn c n && (! sPen w || (bitB (c.predWas.getD c.pred) (sPsel w) != sPneg w))

def slotReady (k : Cls) (c : Cell) (n : Nat) : Option Plan :=
  if slotOn c n then
    match planOf k c n with
    | some p => if planHas c p && planRoom c p && planFree c p then some p else none
    | none => none
  else none

/-- Whether two ready firings compete for a unit, a queue item or the last place of a queue (R43). -/
def competes (c : Cell) (a b : Plan) : Bool :=
  a.units.any (fun u => b.units.contains u) ||
    a.pops.any (fun q => b.pops.contains q || b.peeks.contains q) || a.peeks.any (fun q => b.pops.contains q) ||
    a.rooms.any (fun r => b.rooms.any (fun t => r.1 = t.1 &&
      (a.lat = b.lat || ! roomFor c r.1 (r.2 + t.2) (c.pulse + max a.lat b.lat)))) ||
    (a.now ++ b.now).any (fun q => (a.rooms ++ b.rooms).any (fun r => r.1 = q && ! roomFor c q (r.2 + 1) c.pulse))

/-- A slot of lower index that is ready and competes wins (R43). In part DEDUCED, log 35. -/
def beaten (k : Cls) (c : Cell) (n : Nat) (p : Plan) : Bool :=
  (List.range n).any (fun m => match slotReady k c m with
    | some q => competes c q p
    | none => false)

/-- Whether a cell's body receives pulses: its field runs and no gate above it is closed (R324, R325). In part DESIGN CHOICE, log 7. -/
def State.clocked (s : State) (x y : Nat) : Bool :=
  let f := s.field (fieldOf x y)
  decide (f.power = .underway) && ! f.fieldGate && ! bitB f.gates (chanOf x y) && ! (s.cell x y).gated

/-! ### The firing -/

/-- What an op's own meaning gives: the cell, requests for the router, and the fault that freezes the cell; `taken` says
whether the issue itself has taken place. -/
structure Fired where
  cell  : Cell
  sends : List Packet
  frz   : Option (Code × Nat × Dword)
  taken : Bool

def fired (c : Cell) : Fired := { cell := c, sends := [], frz := none, taken := true }

/-- An operand that cannot be read: the cell freezes and nothing else happens (R183). -/
def firedBad (c : Cell) (n : Nat) (a : Dword) : Fired :=
  { cell := c, sends := [], frz := some (memUncorrectable, n, a), taken := false }

/-- The issue itself: pops, units held, counts (R42-R44, R59). A queue named twice gives up one item (R32). -/
def Cell.take (c : Cell) (cycle n : Nat) (p : Plan) : Cell :=
  let c1 := (dedup p.pops).foldl (fun c q => c.pop cycle q) c
  let r := c1.run n
  let r' := { r with count := r.count + 1, left := r.left - 1, retired := lastFiring (c.slot n) r }
  { c1.setRun n r' with lastIssue := some (c.pulse, n), busy := p.units.map (fun u => (u, c.pulse + p.hold)) ++ c1.busy.filter (fun b => c.pulse < b.2),
                        firings := satInc c1.firings }

/-- An op in flight, due at a pulse (R42). -/
def opOf (c : Cell) (n due : Nat) (outs : List (Nat × Item)) : Op :=
  { id := c.nextOp, slot := n, due := due, fixed := true, promised := true, waiting := false, outs := outs, adds := [],
    accLo := 0, accLen := 0, isDot := false, pred := none }

def Cell.addOp (c : Cell) (o : Op) : Cell := { c with ops := c.ops ++ [o], nextOp := c.nextOp + 1 }

/-- One item for every DST queue. -/
def outsOf (qs : List Nat) (it : Item) : List (Nat × Item) := qs.map (fun q => (q, it))

/-- Store words that hold a slot (R31): 0x0400 + 16 n. -/
def slotWords (n : Nat) : List Nat := [(0x400 + 16 * n) / 8, (0x400 + 16 * n) / 8 + 1]

/-- Store words that hold a table entry: 0x1000 + 32 i. -/
def descWords (i : Nat) : List Nat := span ((0x1000 + 32 * i) / 8) 4

/-- Store words that hold the configuration registers: 0x000 to 0x073 (R59). -/
def regWords : List Nat := List.range 15

/-- An uncorrectable word of the registers, of the slot or of a descriptor it reads (R31, R183). In part DEDUCED, log 39. -/
def storeHit (c : Cell) (n : Nat) (p : Plan) : Option Nat :=
  (regWords ++ slotWords n ++ p.descs.flatMap descWords).find? (fun w => c.storeBad.contains w)

/-- An uncorrectable queue entry among the items the firing takes (R31). -/
def queueHit (c : Cell) (p : Plan) : Bool :=
  (p.pops ++ p.peeks).any (fun q => match (c.queue q).hw with
    | i :: _ => i.bad
    | [] => false)

/-- What follows an op's meaning: the issue, its requests in issue order, the freeze. -/
def State.finish (s : State) (x y n : Nat) (p : Plan) (f : Fired) : State :=
  let c := if f.taken then f.cell.take s.cycle n p else f.cell
  let s1 := (s.setCell x y c).onRouter x y (fun r => { r with inject := r.inject ++ f.sends })
  match f.frz with
  | none => s1
  | some (code, ix, a) => s1.freezeCell x y code ix 0 a

/-- The firing of slot `n` of the cell at (x, y), when it holds an op that `isOp` accepts: it issues when it is ready and no
lower slot that competes is; an uncorrectable word among what it reads freezes the cell instead. -/
def State.fire (s : State) (x y n : Nat) (isOp : Cls → BitVec 128 → Bool) (body : Cls → Cell → Plan → Fired) : Res :=
  if ! siteOk x y then .fault .noSuchSite
  else if 64 ≤ n then .fault .noSuchPart
  else
    let k := clsOf x y
    let c := s.cell x y
    if s.bodyOut x y || ! s.clocked x y || ! isOp k (c.slot n) then .next s
    else
      match slotReady k c n with
      | none => .next s
      | some p =>
        if beaten k c n p then .next s
        else
          match storeHit c n p with
          | some w => .next (s.freezeCell x y memUncorrectable 0xFF 0 (mgmtAddr s.myMod x y 0 (8 * w)))
          | none =>
            if queueHit c p then .next (s.freezeCell x y memUncorrectable 0xFF 0 0)
            else .next (s.finish x y n p (body k c p))

/-- The opcode test of an op of one class. -/
def isOf (k : Cls) (op : Nat) : Cls → BitVec 128 → Bool := fun k' w => decide (k' = k) && sOp w = op

/-- The opcode test of an op of every class (R48). -/
def isAny (op : Nat) : Cls → BitVec 128 → Bool := fun _ w => sOp w = op

end Sys2Proof.Machine
end

