-- ==== Sys2Proof/Machine/Requests.lean ====
section
/-!
DEFINITION. Requests that a cell's engines send (R137, R139, R154) and how a transfer is cut into packets (R164, R415).
-/
namespace Sys2Proof.Machine

/-- Operations of R137. -/
def opRd : Nat := 0x01
def opRdata : Nat := 0x02
def opWr : Nat := 0x03
def opWrack : Nat := 0x04
def opFault : Nat := 0x05
def opWaitGe : Nat := 0x0C
def opSyncrsp : Nat := 0x0D
def opMwr : Nat := 0x10
def opMrd : Nat := 0x11
def opMcMiss : Nat := 0x18
def opMcDone : Nat := 0x19

/-- Packet classes (R136). -/
def clsReq : Nat := 0
def clsRsp : Nat := 1
def clsSync : Nat := 2
def clsMgmt : Nat := 3

/-- TAG of a cell's next request: the epoch in [11:10] (R154). -/
def Cell.tag (c : Cell) : Nat := c.epoch.toNat * 1024 + c.nextTag % 1024

/-- A request leaves an engine: its record and its packet. -/
def Cell.request (c : Cell) (m x y slot opId : Nat) (kind : ReqKind) (dest : Dword) (op cls : Nat) (arg : Dword)
    (payload : List Item) : Cell × Packet :=
  ({ c with reqs := c.reqs ++ [{ tag := c.tag, slot := slot, opId := opId, kind := kind, dest := dest, age := 0, resend := none }],
            nextTag := (c.nextTag + 1) % 1024 },
   { pktOf m x y portL with dest := dest, cls := cls, op := op, tag := c.tag, arg := arg, payload := payload })

/-- A read of `k` granules (R137). -/
def Cell.readReq (c : Cell) (m x y slot opId : Nat) (kind : ReqKind) (dest : Dword) (k : Nat) : Cell × Packet :=
  c.request m x y slot opId kind dest opRd clsReq (dword (k - 1)) []

/-- Granule numbers of byte addresses, in rising order. -/
def granules (addrs : List Nat) : List Nat := sortBy (fun a b => a ≤ b) (dedup (addrs.map (fun a => a / 64)))

/-- Rising granules cut into runs of at most 4 that do not cross a 4 KiB boundary (R164): first granule and count. -/
def runs4 : List Nat → List (Nat × Nat)
  | [] => []
  | g :: t =>
    match runs4 t with
    | (h, k) :: u => if h = g + 1 ∧ k < 4 ∧ g / 64 = h / 64 then (g, k + 1) :: u else (g, 1) :: (h, k) :: u
    | [] => [(g, 1)]

/-- Requests sent one after another. -/
def sendAll {α : Type} (c : Cell) (l : List α) (f : Cell → α → Cell × Packet) : Cell × List Packet :=
  l.foldl (fun (a : Cell × List Packet) v => let r := f a.1 v; (r.1, a.2 ++ [r.2])) (c, [])

/-- Bytes of a granule from listed bytes, and its byte enables. -/
def granuleData (l : List Host.Cell) (g : Nat) : List Byte := (span (64 * g) 64).map (fun a => (tget l a).getD 0)
def granuleEn (l : List Host.Cell) (g : Nat) : Nat :=
  (List.range 64).foldl (fun e k => if (tget l (64 * g + k)).isSome then e + 2 ^ k else e) 0

/-- A granule that listed bytes fill. -/
def granuleFull (l : List Host.Cell) (g : Nat) : Bool := (span (64 * g) 64).all (fun a => (tget l a).isSome)

/-- The writes of listed bytes: runs of whole granules together, other granules alone under byte enables (R137). -/
def writeRuns (l : List Host.Cell) : List (Nat × Nat × Nat × List Byte) :=
  let gs := granules (l.map (·.1))
  let whole := runs4 (gs.filter (granuleFull l))
  let part := gs.filter (fun g => ! granuleFull l g)
  whole.map (fun r => (r.1, r.2, if r.2 = 1 then 2 ^ 64 - 1 else 0, (span r.1 r.2).flatMap (granuleData l))) ++
    part.map (fun g => (g, 1, granuleEn l g, granuleData l g))

/-! ### Responses (R137) -/

/-- DEST of a response: SRC_MOD, SRC_X, SRC_Y and SRC_PORT of the packet it answers, where a cell address has its module and site, the
port in the lowest bits; the router that takes the response from a peer resolves it again (R308). DESIGN CHOICE, log 61. -/
def rspDest (m x y port : Nat) : Dword := dword (m * 2 ^ 62 + x * 2 ^ 48 + y * 2 ^ 38 + port)

/-- A response to a request: to SRC_MOD, SRC_X, SRC_Y and SRC_PORT of the packet it answers, with the same TAG. -/
def rspOf (m x y port : Nat) (rm rx ry rp tag : Nat) (op : Nat) (payload : List Item) : Packet :=
  { pktOf m x y port with dest := rspDest rm rx ry rp, dstX := rx, dstY := ry, dstPort := rp, cls := clsRsp, op := op, tag := tag,
                          payload := payload }

/-- The response to a packet, from site (x, y) and port. -/
def Packet.answer (p : Packet) (m x y port op : Nat) (payload : List Item) : Packet :=
  rspOf m x y port p.srcMod p.srcX p.srcY p.srcPort p.tag op payload

/-- A FAULT response (R137, R149). -/
def Packet.fault (p : Packet) (m x y port : Nat) (code : Code) (reason : Nat) : Packet :=
  { p.answer m x y port opFault [] with status := code, reason := reason }

/-- Packets handed to a router for injection. -/
def State.inject (s : State) (x y : Nat) (l : List Packet) : State := s.onRouter x y (fun r => { r with inject := r.inject ++ l })

end Sys2Proof.Machine
end

