-- ==== Sys2Proof/Machine/SlotsC.lean ====
section
/-!
DEFINITION. Slot firings of C-cells (R47, R64-R77, R94-R96) and the sight windows that checked DOT slots feed (R215, R217).
-/
namespace Sys2Proof.Machine

/-! ### Sights -/

/-- A sight entry and window register (R221). -/
def sgValid (e : Word) : Bool := bitB e 31
def sgQueueMode (e : Word) : Bool := bitB e 30
def sgSlot (e : Word) : Nat := fld e 13 8
def sgPeriod (e : Word) : Nat := fld e 7 0

/-- The entry that names a slot (R215). -/
def sightEntry (c : Cell) (n : Nat) : Option Nat :=
  (List.range 4).find? (fun k => sgValid (tgetD c.sg.entry k 0) && sgSlot (tgetD c.sg.entry k 0) = n)

/-- The length of one window of an entry (R215): the steps of a tile of SRC1's walk, or WINDOW firings. -/
def sightLen (c : Cell) (w : BitVec 128) (k : Nat) : Nat :=
  if sgQueueMode (tgetD c.sg.entry k 0) then fld (tgetD c.sg.window k 0) 15 0 else (c.desc (sOpb w % 128)).tileSteps

/-- Steps that a DOT takes of its SRC1 descriptor (R89). -/
def dotSteps (c : Cell) (w : BitVec 128) : Nat := if (sMod w).testBit 2 && ! (c.desc (sOpb w % 128)).quad then 4 else 1

/-- What one firing counts for towards the length of a window (R215, R216). -/
def sightPer (c : Cell) (w : BitVec 128) (k : Nat) : Nat := if sgQueueMode (tgetD c.sg.entry k 0) then 1 else dotSteps c w

/-- Whether unit `u` of the coming firing carries the checksum row (R215). -/
def isChecksum (c : Cell) (w : BitVec 128) (k u count : Nat) : Bool :=
  let e := tgetD c.sg.entry k 0
  if sgQueueMode e then
    let i := count % max 1 (fld (tgetD c.sg.window k 0) 15 0)
    sgPeriod e ≠ 0 && i % sgPeriod e = sgPeriod e - 1
  else
    let i := sOpb w % 128
    let d := c.desc i
    let p := if d.quad then d.pos (c.walkPos i) u else d.pos (c.walkPos i + u) 0
    p.r + 1 = d.rows

def SightWin.empty : SightWin :=
  { d := Dyadic.zero, c := Dyadic.zero, p := Dyadic.zero, q := Dyadic.zero, n := 0, firings := 0, skip := false, full := false,
    accLo := 4095, accHi := 0 }

/-- A group result as an exact number: FP32, or the two's complement sum of INT8. -/
def groupDy (fm : Nat) (g : Word) : Dyadic := if fm = 8 then { m := sext 32 g.toNat, e := 0 } else (fp32.val g.toNat).dy

/-- A window takes one group result (R217). -/
def SightWin.take (v : SightWin) (fm : Nat) (a w : Oper) (g : Word) (check : Bool) (acc : Nat) : SightWin :=
  let x := groupDy fm g
  let special := fm ≠ 8 && ((fp32.val g.toNat).isNan || (fp32.val g.toNat).isInf)
  let v1 := { v with n := v.n + 1, skip := v.skip || special, p := if fm = 8 then v.p else v.p.add (groupP fm a w) }
  if check then { v1 with c := v.c.add x, q := if fm = 8 then v.q else v.q.add (groupQ fm a w) }
  else { v1 with d := v.d.add x, accLo := min v.accLo acc, accHi := max v.accHi acc }

/-- The window of entry `k` that is open: windows are numbered 4 x window + k from START. -/
def openWin (c : Cell) (k : Nat) : Nat := 4 * ((c.sg.wins.filter (fun v => v.1 % 4 = k && v.2.full)).length + tgetD c.sg.done k 0) + k

/-! ### DOT -/

/-- What one dot unit forms in a firing: its operands, group result, accumulator, the bytes it consumed and those it read. -/
structure UnitOut where
  a    : Oper
  w    : Oper
  g    : Word
  fl   : AFlags
  live : Bool
  acc  : Nat
  unit : Nat
  used : List Nat
  gran : List Nat

/-- Item, scales and live mask of an operand from a queue (R65, R66). -/
def queueOper (c : Cell) (code field pos fm : Nat) : Oper :=
  { item := c.headItem code, live := 2 ^ epi fm - 1,
    sc := match scqOf field with
      | some q => scaleBytes c q pos (blocks fm)
      | none => [] }

/-- SRC0's operand, the bytes it consumes and those it reads. -/
def dotA (c : Cell) (w : BitVec 128) (r : SlotRun) : Oper × List Nat × List Nat :=
  if sSrc0 w = 8 then
    let i := sOpa w % 128
    let d := c.desc i
    let v := readDesc c.seen (storeSize .c) (c.maskOf d) d (c.walkPos i) 0
    (v.oper, v.used, v.gran)
  else (queueOper c (sSrc0 w) (sOpa w) r.sc0 (sFmt w), [], [])

/-- The units of a firing, in unit order. -/
def dotForm (c : Cell) (w : BitVec 128) (r : SlotRun) : List UnitOut :=
  let a := dotA c w r
  let fm := sFmt w
  (dotUnits c w).map (fun u =>
    let b := match u.2 with
      | some (i, n, v) =>
        let d := c.desc i
        let e := readDesc c.seen (storeSize .c) (c.maskOf d) d n v
        (e.oper, e.used, e.gran)
      | none => (queueOper c (sSrc1 w) (sOpb w) r.sc1 fm, [], [])
    let g := groupResult fm a.1 b.1
    { a := a.1, w := b.1, g := g.1, fl := if groupElems fm a.1 b.1 = [] then 0 else g.2, live := groupElems fm a.1 b.1 ≠ [],
      acc := accIndex (sOpc w) u.1 (accFrom c w u.2), unit := u.1, used := a.2.1 ++ b.2.1, gran := a.2.2 ++ b.2.2 })

/-- The windows after one step, or one firing, of a checked slot: its units go to the open window (R215, R217). -/
def sightStep (c : Cell) (w : BitVec 128) (k count : Nat) (us : List UnitOut) : Cell :=
  let id := openWin c k
  let v := us.foldl (fun v u => if u.live then v.take (sFmt w) u.a u.w u.g (isChecksum c w k u.unit count) u.acc else v)
    (tgetD c.sg.wins id SightWin.empty)
  let v' := { v with firings := v.firings + 1 }
  { c with sg := { c.sg with wins := tset c.sg.wins id { v' with full := decide (sightLen c w k ≤ v'.firings) } } }

/-- Windows after a firing of a checked slot: the four dot units of a firing that takes four steps fall to the tiles of their steps
(R88, R215). -/
def sightTake (c : Cell) (w : BitVec 128) (k count : Nat) (us : List UnitOut) : Tbl SightWin :=
  ((if sightPer c w k = 1 then [us] else us.map (fun u => [u])).foldl (fun c g => sightStep c w k count g) c).sg.wins

/-- Scale positions after a firing (R66). -/
def dotScales (w : BitVec 128) (r : SlotRun) : SlotRun :=
  let nb := blocks (sFmt w)
  let last := lastFiring w r
  let step := fun (q : Option Nat) (p : Nat) => match q with
    | some _ => if last then 0 else (scaleStep p nb).1
    | none => p
  { r with sc0 := step (opScq (sSrc0 w) (sOpa w)) r.sc0, sc1 := step (opScq (sSrc1 w) (sOpb w)) r.sc1 }

/-- A firing that names one descriptor in both sources advances it once (R89). -/
def bodyDot (at_ : Nat → Dword) (n : Nat) (_ : Cls) (c : Cell) (_ : Plan) : Fired :=
  let w := c.slot n
  let r := c.run n
  let us := dotForm c w r
  let used := us.flatMap (fun u => u.used)
  let gran := us.flatMap (fun u => u.gran)
  match c.seen.badWord used with
  | some b => firedBad c n (at_ (8 * b))
  | none =>
    let ent := sightEntry c n
    let keep : List UnitOut := us.filter (fun u => u.live && (match ent with
      | some k => ! isChecksum c w k u.unit r.count
      | none => true))
    let rng := dotRange c w
    let acc := { opOf c n (c.pulse + 6) [] with
      adds := keep.map (fun (u : UnitOut) => (u.acc, decide (sFmt w = 8), u.g)), accLo := rng.1, accLen := rng.2 + 1 - rng.1, isDot := true }
    let relay := if (sMod w).testBit 3 then outsOf (dstQs w) (c.headItem (sSrc1 w)) else []
    let c1 := { c with aflags := c.aflags ||| us.foldl (fun (f : AFlags) (u : UnitOut) => f ||| u.fl) 0,
                       eccFixed := c.eccFixed + (c.seen.weakOf gran).length, data := c.data.heal gran,
                       sg := match ent with
                         | some k => { c.sg with wins := sightTake c w k r.count us }
                         | none => c.sg }
    let c2 := if sSrc0 w = 8 && ! (sSrc1 w = 8 && sOpa w % 128 = sOpb w % 128) then c1.advance (sOpa w % 128) 1 else c1
    let c3 := if sSrc1 w = 8 then c2.advance (sOpb w % 128) (dotSteps c w) else c2
    let c4 := (c3.setRun n (dotScales w r)).addOp acc
    fired (if relay = [] then c4 else c4.addOp (opOf c4 n (c.pulse + 1) relay))

/-- DOT (R47, R64-R71, R88-R95). -/
def execDot (x y n : Nat) (s : State) : Res := s.fire x y n (isOf .c 0x01) (bodyDot (cellAddr s.myMod x y) n)

/-! ### ACC_OUT and ACC_CLR -/

/-- One accumulator converted (R72, R73). -/
def accConv (w : BitVec 128) (v : Word) : Nat × AFlags :=
  if (sMod w).testBit 0 then (if sFmt w = 0 then (((fp32.round (decide (sext 32 v.toNat < 0)) (sext 32 v.toNat).natAbs 0).1), 0)
    else convert (sFmt w) (valOf 9 v.toNat))
  else convert (sFmt w) (fp32.val v.toNat)

/-- 8 accumulators, or none when SRC0 is 0xF (R39, R40). -/
def bodyAccOut (n : Nat) (_ : Cls) (c : Cell) (_ : Plan) : Fired :=
  let w := c.slot n
  let r := c.run n
  if (c.accHit (span (accOutBase w r) 8)).isSome then firedBad c n 0
  else
  let vs := (List.range 8).map (fun k => c.accAt (accOutBase w r + k))
  let conv := vs.map (accConv w)
  let block := r.block ++ conv.map (fun p => word p.1)
  let c1 := { c with aflags := c.aflags ||| flAll conv }
  let full := fills w r
  let o := { opOf c n (c.pulse + 3) (if full then outsOf (dstQs w) (packItem (sFmt w) (block.map (·.toNat))) else []) with
    accLo := accOutBase w r, accLen := 8 }
  fired ((c1.setRun n { r with block := if full then [] else block }).addOp o)

/-- ACC_OUT (R47, R73). -/
def execAccOut (x y n : Nat) (s : State) : Res := s.fire x y n (isOf .c 0x02) (bodyAccOut n)

/-- Words of the accumulator store that ACC_CLR writes whole get fresh check bits; one that it would write in part and that reads
uncorrectable freezes the cell (R182, R183). -/
def bodyAccClr (n : Nat) (_ : Cls) (c : Cell) (p : Plan) : Fired :=
  let w := c.slot n
  let l := span (sOpc w) (sOpb w)
  let whole := fun (v : Nat) => l.contains (2 * v) && l.contains (2 * v + 1)
  if (c.accHit (l.filter (fun i => ! whole (i / 2)))).isSome then firedBad c n 0
  else
  let c1 := l.foldl (fun c i => c.setAcc i 0) { c with accBad := c.accBad.filter (fun v => ! whole v) }
  fired (c1.addOp { opOf c n (c.pulse + p.hold) [] with accLo := sOpc w, accLen := sOpb w })

/-- ACC_CLR (R47, R70). -/
def execAccClr (x y n : Nat) (s : State) : Res := s.fire x y n (isOf .c 0x03) (bodyAccClr n)

/-! ### Vector ops (R77) -/

/-- A VEC source: an item with the live mask of its lanes, the bytes it consumes and those it reads; a queue item is live in every
lane. -/
def vecSrc (c : Cell) (code ix : Nat) : DescRead :=
  if code = 8 then
    let d := c.desc ix
    readDesc c.seen (storeSize .c) (c.maskOf d) d.bare (c.walkPos ix) 0
  else { item := c.headItem code, live := 2 ^ 64 - 1, sc := [], used := [], gran := [] }

/-- Walk of a VEC source. -/
def vecStep (c : Cell) (code ix : Nat) : Cell := if code = 8 then c.advance ix 1 else c

/-- Corrected words of the granules that a firing reads (R94, R182). -/
def Cell.healed (c : Cell) (used : List Nat) : Cell :=
  { c with eccFixed := c.eccFixed + (c.seen.weakOf used).length, data := c.data.heal used }

/-- A two-source vector firing. -/
def bodyVec (at_ : Nat → Dword) (n : Nat) (op : Fmt → Nat → Nat → Nat × AFlags) (_ : Cls) (c : Cell) (_ : Plan) : Fired :=
  let w := c.slot n
  let a := vecSrc c (sSrc0 w) (sOpa w % 128)
  let b := vecSrc c (sSrc1 w) (sOpb w % 128)
  match c.seen.badWord (a.used ++ b.used), fmtOf (sFmt w) with
  | some bad, _ => firedBad c n (at_ (8 * bad))
  | none, none => fired c
  | none, some f =>
    let r := lanes2 (sFmt w) (op f) (a.live &&& b.live) a.item b.item
    let c1 := { c.healed (a.gran ++ b.gran) with aflags := c.aflags ||| r.2 }
    let same := sSrc0 w = 8 && sSrc1 w = 8 && sOpa w % 128 = sOpb w % 128
    let c2 := vecStep (if same then c1 else vecStep c1 (sSrc0 w) (sOpa w % 128)) (sSrc1 w) (sOpb w % 128)
    fired (c2.addOp (opOf c n (c.pulse + 4) (outsOf (dstQs w) r.1)))

/-- The vector opcode in a C-cell and in an F-cell (R47, R49). -/
def isVec (opc opf : Nat) : Cls → BitVec 128 → Bool := fun k w =>
  (decide (k = .c) && sOp w = opc) || (decide (k = .f) && sOp w = opf)

/-- VADD (R77). The op has one path, so `differ` changes nothing (R49). -/
def execVadd (x y n : Nat) (_differ : Bool) (s : State) : Res := s.fire x y n (isVec 0x10 0x08) (bodyVec (cellAddr s.myMod x y) n Fmt.add)

/-- VMUL (R77). -/
def execVmul (x y n : Nat) (_differ : Bool) (s : State) : Res := s.fire x y n (isVec 0x11 0x09) (bodyVec (cellAddr s.myMod x y) n Fmt.mul)

/-- VMAX (R77). -/
def execVmax (x y n : Nat) (_differ : Bool) (s : State) : Res := s.fire x y n (isVec 0x12 0x0A) (bodyVec (cellAddr s.myMod x y) n Fmt.max)

def bodyVscale (at_ : Nat → Dword) (n : Nat) (_ : Cls) (c : Cell) (_ : Plan) : Fired :=
  let w := c.slot n
  let a := vecSrc c (sSrc0 w) (sOpc w % 128)
  match c.seen.badWord a.used, fmtOf (sFmt w) with
  | some bad, _ => firedBad c n (at_ (8 * bad))
  | none, none => fired c
  | none, some f =>
    let r := scaleItem (sFmt w) f (word (sOpa w * 2 ^ 16 + sOpb w)) a.live a.item
    let c1 := vecStep { c.healed a.gran with aflags := c.aflags ||| r.2 } (sSrc0 w) (sOpc w % 128)
    fired (c1.addOp (opOf c n (c.pulse + 4) (outsOf (dstQs w) r.1)))

/-- VSCALE (R47, R77). -/
def execVscale (x y n : Nat) (s : State) : Res := s.fire x y n (isOf .c 0x13) (bodyVscale (cellAddr s.myMod x y) n)

/-! ### CVT (R72-R75) -/

/-- The target item of a narrowing CVT from the block of FP32 values held, with the scale bytes it makes (R73, R75). -/
def cvtPack (w : BitVec 128) (block : List Word) : Item × List Nat × AFlags :=
  let vs := block.map (fun v => fp32.val v.toNat)
  if (cvtScq w).isSome then
    let b0 := mxBlock (sFmt w) (vs.take 32)
    if sFmt w = 7 then
      let b1 := mxBlock (sFmt w) (vs.drop 32)
      (packItem (sFmt w) (b0.2.1 ++ copies (32 - b0.2.1.length) 0 ++ b1.2.1), [b0.1, b1.1], b0.2.2 ||| b1.2.2)
    else (packItem (sFmt w) b0.2.1, [b0.1], b0.2.2)
  else
    let r := vs.map (fun v => if sFmt w = 1 then piece (sOpa w / 16 % 4) v else convert (sFmt w) v)
    (packItem (sFmt w) (r.map (·.1)), [], flAll r)

/-- The 8 FP32 values of one firing of a widening CVT: a piece of the source item, scaled (R72, R73). -/
def cvtWiden (w : BitVec 128) (it : Item) (live pos : Nat) (sc : List Nat) : List (Nat × AFlags) :=
  (span (8 * pos) 8).map (fun k =>
    let scale := lgetD sc (blockOf k) 0x7F
    if ! live.testBit k then (0, 0)
    else if scale = 0xFF then (fp32.nanCode, flNanIn)
    else toFp32 (valOf (sMod w) (elem (sMod w) it k)) ((scale : Int) - 127))

def bodyCvt (at_ : Nat → Dword) (n : Nat) (_ : Cls) (c : Cell) (_ : Plan) : Fired :=
  let w := c.slot n
  let r := c.run n
  let ix := sOpc w % 128
  if isNarrow w then
    let a := vecSrc c (sSrc0 w) ix
    match c.seen.badWord a.used with
    | some bad => firedBad c n (at_ (8 * bad))
    | none =>
      let block := r.block ++ (List.range 8).map (fun k => word (if a.live.testBit k then elem 0 a.item k else 0))
      let c1 := vecStep (c.healed a.gran) (sSrc0 w) ix
      if ! fills w r then fired ((c1.setRun n { r with block := block }).addOp (opOf c n (c.pulse + 4) []))
      else
        let t := cvtPack w block
        let sp := r.scPart ++ t.2.1.map (fun v => BitVec.ofNat 8 v)
        let out := outsOf (dstQs w) t.1
        let sout := if fillsScale w r then
            outsOf ((cvtScq w).toList) (itemOf (sp ++ copies (32 - sp.length) 0x7F)) else []
        let c2 := { c1 with aflags := c1.aflags ||| t.2.2 }
        fired ((c2.setRun n { r with block := [], scPart := if fillsScale w r then [] else sp }).addOp
          (opOf c n (c.pulse + 4) (out ++ sout)))
  else
    let fresh := r.wide = 0
    let d := c.desc ix
    let rd : DescRead :=
      if sSrc0 w = 8 then
        (if fresh then readDesc c.seen (storeSize .c) (c.maskOf d) d (c.walkPos ix) 0
         else { item := (r.held.getD (0, 0)).1, live := (r.held.getD (0, 0)).2, sc := r.block.map (·.toNat), used := [], gran := [] })
      else { item := c.headItem (sSrc0 w), live := 2 ^ 64 - 1, sc := [], used := [], gran := [] }
    match c.seen.badWord rd.used with
    | some bad => firedBad c n (at_ (8 * bad))
    | none =>
      let sc := if sSrc0 w = 8 then rd.sc
        else match cvtScq w with
          | some q =>
            let b := (itemByte (c.headItem q) r.sc0).toNat
            copies 2 b
          | none => []
      let vs := cvtWiden w rd.item rd.live r.wide sc
      let done := r.wide + 1 = widenN w || lastFiring w r
      let c1 := { c.healed rd.gran with aflags := c.aflags ||| flAll vs }
      let c2 := if sSrc0 w = 8 && fresh then c1.advance ix 1 else c1
      let sc0 := match (if sSrc0 w < 8 then cvtScq w else none) with
        | some _ => if lastFiring w r then 0 else if blockEnd w r.wide then (scaleStep r.sc0 1).1 else r.sc0
        | none => r.sc0
      fired ((c2.setRun n { r with wide := if done then 0 else r.wide + 1, held := if done || sSrc0 w ≠ 8 then none else some (rd.item, rd.live),
                                   block := if done then [] else sc.map (fun v => word v), sc0 := sc0 }).addOp
        (opOf c n (c.pulse + 4) (outsOf (dstQs w) (packItem 0 (vs.map (·.1))))))

/-- CVT (R72-R75). -/
def execCvt (x y n : Nat) (s : State) : Res := s.fire x y n (isOf .c 0x18) (bodyCvt (cellAddr s.myMod x y) n)

/-! ### LOAD and STORE -/

/-- A read through a descriptor to DST (R94). -/
def bodyLoad (at_ : Nat → Dword) (n lat : Nat) (k : Cls) (c : Cell) (_ : Plan) : Fired :=
  let w := c.slot n
  let ix := sOpa w % 128
  let d := c.desc ix
  let v := readDesc c.seen (storeSize k) (c.maskOf d) d.bare (c.walkPos ix) 0
  match c.seen.badWord v.used with
  | some bad => firedBad c n (at_ (8 * bad))
  | none => fired (((c.healed v.gran).advance ix 1).addOp (opOf c n (c.pulse + lat) (outsOf (dstQs w) v.item)))

/-- A write through a descriptor (R96): live bytes only; a partial write of an uncorrectable word is refused and its consumer,
the cell, freezes (R183). -/
def bodyStore (at_ : Nat → Dword) (n : Nat) (k : Cls) (c : Cell) (_ : Plan) : Fired :=
  let w := c.slot n
  let ix := sOpa w % 128
  let d := c.desc ix
  let l := writeDesc c.data (storeSize k) (c.maskOf d) d (c.walkPos ix) (c.headItem (sSrc0 w))
  match partialBad c.data l with
  | some bad => firedBad c n (at_ (8 * bad))
  | none => fired (((c.store l).advance ix 1).addOp (opOf c n (c.pulse + 2) []))

/-- LOAD (R47, R94). -/
def execLoad (x y n : Nat) (s : State) : Res := s.fire x y n (isOf .c 0x20) (bodyLoad (cellAddr s.myMod x y) n 3)

/-- STORE (R47, R96). -/
def execStore (x y n : Nat) (s : State) : Res := s.fire x y n (isOf .c 0x21) (bodyStore (cellAddr s.myMod x y) n)

end Sys2Proof.Machine
end

