-- ==== Sys2Proof/Machine/Channel.lean ====
section
/-!
DEFINITION. The channel controller of a P-cell (R163, R173-R183): posted writes, stream buffers, CH_READ and CH_WRITE.
-/
namespace Sys2Proof.Machine

/-! ### Channel offsets and the tower (R163) -/

/-- Tower OFFSET of a channel offset. -/
def towerOff (ch co : Nat) : Nat := co / 4096 * 2 ^ 18 + ch * 4096 + co % 4096

/-- Channel and channel offset of a tower OFFSET. -/
def chanOff (o : Nat) : Nat × Nat := (o / 4096 % 64, o / 2 ^ 18 * 4096 + o % 4096)

/-- A tower that can be accessed: trained, not in self-refresh, in service (R19, R20, R347). -/
def towerUp (f : Field) : Bool := f.trained && ! f.sr && ! f.withdrawn

/-- Writes of channel offsets as writes of the tower. -/
def chanCells (ch : Nat) (l : List Host.Cell) : List Host.Cell := l.map (fun p => (towerOff ch p.1, p.2))

/-- Channel bytes that no posted-write entry holds, as tower bytes: what a read takes from DRAM (R173). -/
def dramBytes (l : List Pwb) (ch : Nat) (as : List Nat) : List Nat :=
  (as.filter (fun a => ! l.any (fun e => e.chan = ch && e.granule = a / 64 && e.enables.getLsbD (a % 64)))).map (towerOff ch)

/-- Bytes of a channel as the DRAM holds them. -/
def chanRaw (t : Memory) (ch co n : Nat) : List Byte := (span co n).map (fun a => t.byte (towerOff ch a))

/-- A byte through the posted write buffer: the newest value that any entry holds, else DRAM (R173). -/
def pwbByte (t : Memory) (l : List Pwb) (ch a : Nat) : Byte :=
  match (l.filter (fun e => e.chan = ch && e.granule = a / 64 && e.enables.getLsbD (a % 64))).getLast? with
  | some e => lgetD e.data (a % 64) 0
  | none => t.byte (towerOff ch a)

/-- The newest posted-write entry that holds a byte has an uncorrectable word there (R182, R183). -/
def pwbBad (l : List Pwb) (ch a : Nat) : Bool :=
  match (l.filter (fun e => e.chan = ch && e.granule = a / 64 && e.enables.getLsbD (a % 64))).getLast? with
  | some e => e.bad.contains (a % 64 / 8)
  | none => false

/-- Channel words [co, co + n) as tower words. -/
def chanWords (ch co n : Nat) : List Nat := (span co n).map (fun a => towerOff ch a)

/-! ### Scopes (R177, R179, R180) -/

/-- Whether a channel page lies in a valid PC_SCOPE range. -/
def hostScope (c : Cell) (co : Nat) : Bool :=
  (List.range 8).any (fun n =>
    let b := tgetD c.pc.scope (2 * n) 0
    let l := tgetD c.pc.scope (2 * n + 1) 0
    bitB b 31 && fld b 14 0 ≤ co / 4096 && co / 4096 ≤ fld l 14 0)

/-! ### Streams (R175-R177) -/

def strmValid (w : Word) : Bool := bitB w 31
def strmSync (w : Word) : Bool := bitB w 30
def strmDesc (w : Word) : Nat := fld w 29 23
def strmLines (w : Word) : Nat := fld w 22 16
def strmIx (w : Word) : Nat := fld w 15 0

def Cell.strm (c : Cell) (n : Nat) : Word := tgetD c.pc.strm n 0

/-- The stream that names a descriptor. -/
def strmOf (c : Cell) (d : Nat) : Option Nat :=
  (List.range 8).find? (fun n => strmValid (c.strm n) && strmDesc (c.strm n) = d)

/-- Lines allotted to a stream, in ascending stream number (R175). -/
def allotted (c : Cell) (n : Nat) : Nat :=
  let want := fun k => if strmValid (c.strm k) then strmLines (c.strm k) else 0
  let before := (List.range n).foldl (fun a k => a + min (want k) (256 - a)) 0
  min (want n) (256 - before)

/-- Lines that an item uses: 256 B lines that hold a byte of a live element. -/
def itemLines (c : Cell) (d : Desc) (step : Nat) : List Nat :=
  let p := d.pos step 0
  dedup ((liveAddrs d.fmt (d.itemAddr p) (liveMask d (c.maskOf d) p)).map (fun a => a / 256))

/-- The first line in walk order, over `k` steps from `step`, that is not in the list. -/
def firstMissing (c : Cell) (d : Desc) (have_ : List Nat) : Nat → Nat → Option Nat
  | 0, _ => none
  | k + 1, step =>
    match (itemLines c d step).find? (fun l => ! have_.contains l) with
    | some l => some l
    | none => firstMissing c d have_ k (step + 1)

/-- Whether a line is used in `k` steps from `step` on. -/
def usedLater (c : Cell) (d : Desc) (line : Nat) : Nat → Nat → Bool
  | 0, _ => false
  | k + 1, step => (itemLines c d step).contains line || usedLater c d line k (step + 1)

/-- Lines of a stream that are buffered or in flight. -/
def heldLines (c : Cell) (n : Nat) : List Nat :=
  (c.pc.lines.filter (fun l => l.stream = n)).map (·.addr) ++
    (c.pc.fetches.filter (fun l => l.stream = n && ! l.dead)).map (·.addr)

/-- The line a stream would fetch next (R175). -/
def nextLine (c : Cell) (n : Nat) : Option Nat :=
  let i := strmDesc (c.strm n)
  let d := c.desc i
  firstMissing c d (heldLines c n) (d.steps - c.walkPos i) (c.walkPos i)

/-- Lines that no coming step and no waiting CH_READ uses are freed (R175). -/
def freeLines (c : Cell) (n i : Nat) : List Line :=
  let d := c.desc i
  c.pc.lines.filter (fun l => l.stream ≠ n || usedLater c d l.addr (d.steps - c.walkPos i) (c.walkPos i) ||
    c.pc.waits.any (fun w => w.stream = n && w.lines.contains l.addr))

/-- The buffered line of a stream. -/
def lineAt (c : Cell) (n a : Nat) : Option Line := c.pc.lines.find? (fun l => l.stream = n && l.addr = a)

/-- The number in place of a stream of the lines that one op reads directly. -/
def directNo (opId : Nat) : Nat := 8 + opId

/-- The line that a waiting CH_READ takes: its own direct one, or the stream's. -/
def ChWait.line (c : Cell) (w : ChWait) (a : Nat) : Option Line := (lineAt c (directNo w.opId) a).or (lineAt c w.stream a)

/-- The item of a step delivered from buffered lines (R94, R175). -/
def itemFromLines (c : Cell) (at_ : Nat → Option Line) (d : Desc) (step : Nat) : Item :=
  let p := d.pos step 0
  let live := liveMask d (c.maskOf d) p
  let byte := fun (a : Nat) => match at_ (a / 256) with
    | some l => lgetD l.data (a % 256) 0
    | none => 0
  maskItem d.fmt live (itemOf ((span (d.itemAddr p) (isz d.fmt)).map (fun a =>
    if a < d.base + d.bound then byte a else (Config.unstated 0 a).setWidth 8)))

/-- The first uncorrectable word among the live bytes of an item in buffered lines (R183). -/
def badInLines (c : Cell) (at_ : Nat → Option Line) (d : Desc) (step : Nat) : Option Nat :=
  let p := d.pos step 0
  let ws := wordsOf (liveAddrs d.fmt (d.itemAddr p) (liveMask d (c.maskOf d) p))
  ws.find? (fun w => match at_ (w / 32) with
    | some l => l.bad.contains w
    | none => false)

/-- A line of a channel as it reads now: through the posted write buffer, with its uncorrectable words (R173, R182, R183). -/
def lineNow (c : Cell) (t : Memory) (ch stream addr : Nat) : Line :=
  let from_ := wordsOf (dramBytes c.pc.pwb ch (span (256 * addr) 256))
  let bad := (List.range 32).filter (fun k =>
    let w := towerOff ch (256 * addr + 8 * k) / 8
    (t.bad.contains w && from_.contains w) || (span (256 * addr + 8 * k) 8).any (pwbBad c.pc.pwb ch))
  { stream := stream, addr := addr, data := (span (256 * addr) 256).map (pwbByte t c.pc.pwb ch), bad := bad.map (fun k => 32 * addr + k) }

/-- Counters of R178 by number: 0 hits ... 7 uncorrectable. -/
def Cell.pcCount (c : Cell) (k n : Nat) : Cell :=
  { c with pc := { c.pc with cnt := cntAdd c.pc.cnt k n, fixedSum := if k = 6 then c.pc.fixedSum + n else c.pc.fixedSum } }

/-- A stream's lines are discarded, and its reads in flight are discarded on arrival (R176, R198). -/
def PChan.invalidate (p : PChan) (n : Nat) : PChan :=
  { p with lines := p.lines.filter (fun l => l.stream ≠ n),
           fetches := p.fetches.map (fun l => if l.stream = n then { l with dead := true } else l),
           cnt := cntAdd p.cnt 3 1 }

/-- A discarded line that a waiting CH_READ needs is fetched again. -/
def refetch (c : Cell) : Cell :=
  let need := c.pc.waits.flatMap (fun w => (w.lines.filter (fun a =>
    ! (heldLines c w.stream).contains a && ! (heldLines c (directNo w.opId)).contains a)).map (fun a =>
      ({ stream := w.stream, addr := a, dead := false, taken := none } : LineFetch)))
  { c with pc := { c.pc with fetches := c.pc.fetches ++ need } }

/-! ### CH_READ -/

/-- Fetches for the lines that a CH_READ of op `o` lacks: for its stream while that has lines of its allotment left, directly for the op
otherwise (R175). -/
def missFetches (c : Cell) (st o : Nat) (line : Nat → Nat → Line) (need : List Nat) : List LineFetch :=
  let room := if st < 8 then allotted c st - (heldLines c st).length else 0
  let tag := fun (k : Nat) => if k < room then st else directNo o
  (List.range need.length).map (fun k =>
    { stream := tag k, addr := lgetD need k 0, dead := false, taken := some (line (tag k) (lgetD need k 0)) })

/-- CH_READ (R175): from buffered lines in 3 pulses, else it waits for its lines; an item with no live element reads nothing. What the
tower `t` and the posted write buffer hold now is what it reads of the lines it waits for (R98). In part DEDUCED, log 40. -/
def bodyChRead (t : Memory) (m x y n : Nat) (_ : Cls) (c : Cell) (_ : Plan) : Fired :=
  let w := c.slot n
  let i := sOpa w % 128
  let d := c.desc i
  let step := c.walkPos i
  let lines := itemLines c d step
  let st := (strmOf c i).getD 8
  let c1 := c.advance i 1
  if lines = [] then fired (c1.addOp (opOf c n (c.pulse + 3) (outsOf (dstQs w) 0)))
  else if st < 8 ∧ lines.all (fun a => (lineAt c st a).isSome) then
    match badInLines c (lineAt c st) d step with
    | some b => firedBad c n (towerAddr m (fieldOf x y) (towerOff (chanOf x y) (8 * b)))
    | none =>
      let c2 := (c1.addOp (opOf c n (c.pulse + 3) (outsOf (dstQs w) (itemFromLines c (lineAt c st) d step)))).pcCount 0 1
      fired { c2 with pc := { c2.pc with lines := freeLines c2 st i } }
  else
    let o := { opOf c n (c.pulse + 3) (outsOf (dstQs w) 0) with fixed := false, waiting := true }
    let now := lineNow c t (chanOf x y)
    let need := lines.filter (fun a => st = 8 || ! (heldLines c st).contains a)
    let seen := fun (q : LineFetch) =>
      if q.stream = st && ! q.dead && q.taken.isNone && lines.contains q.addr then { q with taken := some (now st q.addr) } else q
    let c2 := (c1.addOp o).pcCount 1 1
    fired { c2 with pc := { c2.pc with
      waits := c2.pc.waits ++ [{ opId := o.id, stream := st, step := step, desc := i, lines := lines }],
      fetches := c2.pc.fetches.map seen ++ missFetches c st o.id now need } }

def execChRead (x y n : Nat) (s : State) : Res :=
  s.fire x y n (isOf .p 0x01) (bodyChRead (s.field (fieldOf x y)).tower s.myMod x y n)

/-! ### CH_WRITE -/

/-- The bytes of a CH_WRITE in channel offsets (R96). -/
def chWriteCells (c : Cell) (n : Nat) : List Host.Cell :=
  let w := c.slot n
  let i := sOpa w % 128
  let d := c.desc i
  writeDesc Memory.zero (2 ^ 27) (c.maskOf d) d (c.walkPos i) (c.headItem (sSrc0 w))

/-- Posted-write entries of listed bytes, one for each granule (R173). -/
def pwbOf (ch : Nat) (l : List Host.Cell) (waiting : Option (Nat × Nat × Nat × Nat × Nat)) (opId : Option Nat) : List Pwb :=
  (granules (l.map (·.1))).map (fun g =>
    { chan := ch, granule := g, enables := BitVec.ofNat 64 (granuleEn l g), data := granuleData l g, waiting := waiting,
      opId := opId, bad := [] })

/-- CH_WRITE (R173, R180): the item enters the posted write buffer; in a cell-scope page the write is then complete after 3
pulses, in a host-scope page once it has passed the host visibility point. -/
def bodyChWrite (x y n : Nat) (_ : Cls) (c : Cell) (_ : Plan) : Fired :=
  let w := c.slot n
  let i := sOpa w % 128
  let l := chWriteCells c n
  let c1 := c.advance i 1
  match l with
  | [] => fired (c1.addOp (opOf c n (c.pulse + 3) []))
  | p :: _ =>
    let host := hostScope c p.1
    let o := { opOf c n (c.pulse + 3) [] with fixed := ! host, waiting := host }
    let c2 := c1.addOp o
    fired { c2 with pc := { c2.pc with pwb := c2.pc.pwb ++ pwbOf (chanOf x y) l none (if host then some o.id else none) } }

def execChWrite (x y n : Nat) (s : State) : Res := s.fire x y n (isOf .p 0x02) (bodyChWrite x y n)

/-! ### The DRAM side -/

/-- A posted write entry at the DRAM (R173, R182, R183): whole words replace, parts of words merge, and the bytes for a word that
then reads uncorrectable are dropped, as are the bytes of a word of the entry itself that reads so. Answers the tower, the words
dropped and the words corrected. -/
def drainEntry (t : Memory) (e : Pwb) : Memory × List Nat × Nat :=
  let l := chanCells e.chan (cellsUnder (64 * e.granule) (fun k => e.enables.getLsbD k) e.data)
  let whole := wholeWords l
  let own := e.bad.map (fun k => towerOff e.chan (64 * e.granule + 8 * k) / 8)
  let dropped := (wordsOf (l.map (·.1))).filter (fun w => (! whole.contains w && t.bad.contains w) || own.contains w)
  let l' := l.filter (fun p => ! dropped.contains (p.1 / 8))
  (t.write l', dropped, (t.weakPartial l').length)

/-- An op that waited is free to write its result (R42). -/
def Cell.release (c : Cell) (id : Nat) : Cell :=
  { c with ops := c.ops.map (fun o => if o.id = id then { o with waiting := false, due := c.pulse } else o) }

/-- PWB_DRAIN: the oldest entry enters the DRAM command queue, the host visibility point (R173, R174, R180). A host-scope write
is acknowledged when its last entry does; bytes dropped are reported (R173, R226). -/
def execPwbDrain (x y : Nat) (s : State) : Res :=
  if ! siteOk x y then .fault .noSuchSite
  else
    let c := s.cell x y
    let f := fieldOf x y
    match c.pc.pwb with
    | [] => .next s
    | e :: rest =>
      if ! towerUp (s.field f) || s.bodyOut x y then .next s
      else
        let d := drainEntry (s.field f).tower e
        let last := match e.waiting with
          | some r => ! rest.any (fun q => q.waiting = some r)
          | none => false
        let ack := match e.waiting with
          | some r => if last then [rspOf s.myMod x y portV r.1 r.2.1 r.2.2.1 r.2.2.2.1 r.2.2.2.2 opWrack []] else []
          | none => []
        let lost := (d.2.1.filter (s.field f).tower.bad.contains).length
        let c1 := (((({ c with pc := { c.pc with pwb := rest } } : Cell).pcCount 5 ack.length).pcCount 6 d.2.2).pcCount 7 lost)
        let c2 := match e.opId with
          | some id => if rest.any (fun q => q.opId = some id) then c1 else c1.release id
          | none => c1
        let s1 := ((s.onField f (fun q => { q with tower := d.1 })).setCell x y c2).inject x y ack
        .next (d.2.1.foldl (fun s w => s.report x y 1 memUncorrectable 0xFF 0 0 (towerAddr s.myMod f (8 * w))) s1)

/-- STREAM_LINE_FETCH: stream `n` of an ACTIVE P-cell asks for the next line of its walk, within its allotment (R175). -/
def execStreamLineFetch (x y n : Nat) (s : State) : Res :=
  if ! siteOk x y then .fault .noSuchSite
  else if 8 ≤ n then .fault .noSuchPart
  else
    let c := s.cell x y
    if clsOf x y = .p ∧ s.bodyOut x y = false ∧ c.state = .active ∧ strmValid (c.strm n) ∧ (heldLines c n).length < allotted c n then
      match nextLine c n with
      | some a => .next (s.setCell x y { c with pc := { c.pc with fetches := c.pc.fetches ++ [{ stream := n, addr := a, dead := false, taken := none }] } })
      | none => .next s
    else .next s

/-- A line read directly is kept only for the CH_READs that wait for it. -/
def Cell.dropDirect (c : Cell) : Cell :=
  { c with pc := { c.pc with lines := c.pc.lines.filter (fun l =>
      decide (l.stream < 8) || c.pc.waits.any (fun v => directNo v.opId = l.stream && v.lines.contains l.addr)) } }

/-- CH_READs whose lines are all here deliver their items; an uncorrectable word that one reaches freezes the P-cell (R175,
R183). Answers the cell and the word of such a freeze with its slot. -/
def serveWaits (c : Cell) : List ChWait → Cell × Option (Nat × Nat)
  | [] => (c, none)
  | w :: t =>
    if w.lines.all (fun a => (w.line c a).isSome) then
      let d := c.desc w.desc
      let slot := match c.ops.find? (fun o => o.id = w.opId) with
        | some o => o.slot
        | none => 0xFF
      match badInLines c (w.line c) d w.step with
      | some b => (c, some (b, slot))
      | none =>
        let it := itemFromLines c (w.line c) d w.step
        let give := fun (o : Op) =>
          if o.id = w.opId then { o with waiting := false, due := c.pulse, outs := o.outs.map (fun p => (p.1, it)) } else o
        let c1 : Cell := { c with ops := c.ops.map give, pc := { c.pc with waits := c.pc.waits.filter (fun v => v.opId ≠ w.opId) } }
        let c2 := c1.dropDirect
        serveWaits (if w.stream = 8 then c2 else { c2 with pc := { c2.pc with lines := freeLines c2 w.stream w.desc } }) t
    else serveWaits c t

/-- STREAM_LINE_ARRIVE: the line of fetch number `n` arrives from the channel through the posted write buffer, as it is or as a CH_READ
that waits for it has read it; a line that an acquire or START has discarded is dropped (R98, R173, R175, R176). -/
def execStreamLineArrive (x y n : Nat) (s : State) : Res :=
  if ! siteOk x y then .fault .noSuchSite
  else
    let c := s.cell x y
    let f := fieldOf x y
    let ch := chanOf x y
    match c.pc.fetches[n]? with
    | none => .next s
    | some q =>
      let rest := c.pc.fetches.take n ++ c.pc.fetches.drop (n + 1)
      if q.dead then .next (s.setCell x y { c with pc := { c.pc with fetches := rest } })
      else if ! towerUp (s.field f) || s.bodyOut x y then .next s
      else
        let t := (s.field f).tower
        let addrs := chanWords ch (256 * q.addr) 256
        let line := q.taken.getD (lineNow c t ch q.stream q.addr)
        let c1 := ((c.pcCount 2 (if q.stream < 8 then 1 else 0)).pcCount 6 (t.weakOf addrs).length).pcCount 7
          (line.bad.filter (fun k => t.bad.contains (towerOff ch (8 * k) / 8))).length
        let c2 := { c1 with pc := { c1.pc with fetches := rest, lines := c1.pc.lines ++ [line] } }
        let r := serveWaits c2 c2.pc.waits
        let s1 := (s.onField f (fun v => { v with tower := t.heal addrs })).setCell x y r.1.dropDirect
        match r.2 with
        | none => .next s1
        | some (b, slot) => .next (s1.freezeCell x y memUncorrectable slot 0 (towerAddr s.myMod f (towerOff ch (8 * b))))

/-- PC_CTRL.INV_ALL: every stream is invalidated (R176, R177). -/
def invAll (c : Cell) : Cell := refetch { c with pc := (List.range 8).foldl (fun p n => if strmValid (c.strm n) then p.invalidate n else p) c.pc }

def execInvAll (x y : Nat) (s : State) : Res :=
  if ! siteOk x y then .fault .noSuchSite
  else if clsOf x y ≠ .p then .next s
  else .next (s.onCell x y invAll)

/-- PC_CTRL.CLR_CNT (R177, R178). -/
def execPcClrCnt (x y : Nat) (s : State) : Res :=
  if ! siteOk x y then .fault .noSuchSite
  else if clsOf x y ≠ .p then .next s
  else .next (s.onCell x y (fun c => { c with pc := { c.pc with cnt := [] } }))

end Sys2Proof.Machine
end

