-- ==== Sys2Proof/Machine/CellCtl.lean ====
section
/-!
DEFINITION. Cell control: results of ops in flight (R42, R45), START, STOP, APPLY, idle points (R57-R60), the watchdog (R54, R55),
retirement reports (R416) and the comparison of a sight window (R217-R220).
-/
namespace Sys2Proof.Machine

/-! ### RESULT_WRITE (R42) -/

/-- The outputs due now: those up to the second one for the same queue. -/
def dueOuts (seen : List Nat) : List (Nat × Item) → List (Nat × Item) × List (Nat × Item)
  | [] => ([], [])
  | p :: t =>
    if seen.contains p.1 then ([], p :: t)
    else
      let r := dueOuts (p.1 :: seen) t
      (p :: r.1, r.2)

/-- Additions into accumulators, in order (R46, R69, R71). -/
def Cell.addAll (c : Cell) (l : List (Nat × Bool × Word)) : Cell :=
  l.foldl (fun c a =>
    let r := accAdd a.2.1 (c.accAt a.1) a.2.2
    { c.setAcc a.1 r.1 with aflags := c.aflags ||| r.2 }) c

/-- An op may write its results now: its pulse has come, no earlier op adds into its accumulators, each queue takes one item in
a pulse, and a place not promised is there (R32, R42, R46, R129). -/
def canWrite (c : Cell) (o : Op) : Bool :=
  ! o.waiting && o.due ≤ c.pulse &&
    (o.adds = [] || c.ops.all (fun e => o.id ≤ e.id || e.adds = [] || ! overlaps o.accLo o.accLen e.accLo e.accLen)) &&
    (dueOuts [] o.outs).1.all (fun p => (c.queue p.1).lastPut ≠ some c.pulse &&
      (o.promised || (c.queue p.1).occ + promised c p.1 < qCap c p.1))

/-- A CMP writes a predicate; slots read it from the next pulse on (R45). -/
def Cell.cmpWrite (c : Cell) (k : Nat) (b : Bool) : Cell :=
  { c with pred := setBit c.pred k b, predWas := some (c.predWas.getD c.pred), predCmp := setBit c.predCmp k true }

/-- What the items written say of a drain (R129): of its items, `before` were left and `after` are. Residue records are counted as their
items are emitted, GC_SPILL_COUNT is set to 0 with the last of them, and the drain ends with the terminator. -/
def GEng.drained (g : GEng) (opId before after : Nat) : GEng :=
  match g.drain with
  | some { opId := i, slot := _, residue := some (recs, items) } =>
    if i ≠ opId then g
    else
      let out := fun left => min recs (2 * (items - (left - 1)))
      let new := if before = 0 then recs else out after - out before
      let g1 := { g with cnt := cntAdd g.cnt 0x54 new, spillCount := if after ≤ 1 then 0 else g.spillCount }
      if after = 0 then { g1 with cnt := cntAdd g1.cnt 0x58 1, drain := none } else g1
  | _ => g

/-- Items of a drain's op that are still to be written to each queue. -/
def drainLeft (l : List (Nat × Item)) : Nat :=
  match l with
  | [] => 0
  | p :: _ => (l.filter (fun q => q.1 = p.1)).length

/-- The op's results written; an op with items left stays, due one pulse later. -/
def Cell.writeOp (c : Cell) (k : Cls) (o : Op) : Cell :=
  let d := dueOuts [] o.outs
  let ops := if d.2 = [] then c.ops.filter (fun e => e.id ≠ o.id)
    else c.ops.map (fun e => if e.id = o.id then { e with outs := d.2, due := c.pulse + 1, adds := [], pred := none } else e)
  let held := if o.accLen = 0 then c.accHeld else (o.isDot, o.accLo, o.accLen) :: c.accHeld
  let c1 := d.1.foldl (fun c p => c.push k p.1 p.2)
    { c with ops := ops, accHeld := held, gc := c.gc.drained o.id (drainLeft o.outs) (drainLeft d.2) }
  let c2 := c1.addAll o.adds
  match o.pred with
  | some (k, b) => c2.cmpWrite k b
  | none => c2

/-- RESULT_WRITE: op number `id` of the cell writes its results (R42); one that would add into an uncorrectable word of the accumulator
store freezes the cell instead (R183). -/
def execResultWrite (x y id : Nat) (s : State) : Res :=
  if ! siteOk x y then .fault .noSuchSite
  else
    let c := s.cell x y
    match c.ops.find? (fun o => o.id = id) with
    | none => .next s
    | some o =>
      if ! canWrite c o then .next s
      else if (c.accHit (o.adds.map (·.1))).isSome then
        .next ((s.setCell x y { c with ops := c.ops.filter (fun e => e.id ≠ id) }).freezeCell x y memUncorrectable o.slot 0 0)
      else .next (s.setCell x y (c.writeOp (clsOf x y) o))

/-! ### START, STOP, APPLY, CLR_CNT (R57, R59, R60) -/

/-- The engine state that START clears (R120, R130, R198, R219). -/
def Cell.startEngines (c : Cell) (k : Cls) : Cell :=
  match k with
  | .g => { c with gc := { c.gc with expands := [], spans := [], fallback := false, hash := [], hashBad := [], spillCount := 0, drain := none,
                                     hashFree := c.pulse + 1025 } }
  | .p => { c with pc := { c.pc with lines := [], fetches := c.pc.fetches.map (fun f => { f with dead := true }), waits := [] } }
  | .c => { c with sg := { c.sg with wins := [], done := [], captured := false } }
  | _ => c

/-- START: an IDLE cell becomes ACTIVE; counts are reloaded from REPEAT, walks, scale positions and flags cleared (R44, R57, R66,
R82, R89). A cell that is not IDLE takes no notice. -/
def Cell.start (c : Cell) (k : Cls) : Cell :=
  if c.state ≠ .idle then c
  else
    ({ c with state := .active, stopping := false, issueFrom := c.pulse + 1, faultCode := 0, aflags := 0, eccFixed := 0, walk := [], wdogCount := 0,
              owes := true,
              runs := (List.range 64).map (fun n => (n, { SlotRun.reset with left := sRepeat (c.slot n) })) } : Cell).startEngines k

/-- The first pulse in which issue is held: the next one, or the one that an earlier STOP or APPLY has set. -/
def Cell.haltNext (c : Cell) : Nat := if c.stopping || c.applyPending then c.haltFrom else c.pulse + 1

/-- STOP: no slot issues from the next pulse; the cell enters IDLE at its idle point. Open sight windows are discarded (R57, R219). -/
def Cell.stop (c : Cell) : Cell :=
  if c.state = .idle then c else { c with haltFrom := c.haltNext, stopping := true, sg := { c.sg with wins := [] } }

/-- The shadow comes into force. -/
def Cell.applyShadow (c : Cell) : Cell := { c with slotEn := c.slotEnShadow, applyPending := false }

/-- APPLY: pending in an ACTIVE cell, where no slot issues from the next pulse; at once in one that is not (R60). -/
def Cell.apply (c : Cell) : Cell :=
  if c.state = .active then { c with haltFrom := c.haltNext, applyPending := true } else c.applyShadow

/-- CLR_CNT: the four counters (R59). -/
def Cell.clrCnt (c : Cell) : Cell := { c with lockedWrites := 0, firings := 0, outStalls := 0, inStalls := 0 }

/-- A command on the body of a site; a fenced body takes no state (R57). -/
def State.onBody (s : State) (x y : Nat) (f : Cell → Cell) : Res :=
  if ! siteOk x y then .fault .noSuchSite
  else if s.bodyOut x y then .next s
  else .next (s.onCell x y f)

def execStart (x y : Nat) (s : State) : Res := s.onBody x y (fun c => c.start (clsOf x y))
def execStop (x y : Nat) (s : State) : Res := s.onBody x y Cell.stop
def execApply (x y : Nat) (s : State) : Res := s.onBody x y Cell.apply
def execClrCnt (x y : Nat) (s : State) : Res := s.onBody x y Cell.clrCnt

/-- APPLY_COMPLETE: every op of fixed latency has written its result; issue resumes in the following pulse (R60). -/
def execApplyComplete (x y : Nat) (s : State) : Res :=
  s.onBody x y (fun c =>
    if c.applyPending && c.ops.all (fun o => ! o.fixed) then { c.applyShadow with issueFrom := c.pulse + 1 } else c)

/-! ### Retirement and idle points (R58, R82, R416) -/

/-- Enabled slots. An empty slot (OP 0x00) counts as none even where its bit is set, so a cell started without any other is at once due
to idle (DESIGN CHOICE, log 54). -/
def enabled (c : Cell) : List Nat := (List.range 64).filter (fun n => bitB c.slotEn n && sOp (c.slot n) ≠ 0)

/-- Every enabled slot with a nonzero REPEAT has retired, and what those slots issued is done (R416). -/
def retiredAll (c : Cell) : Bool :=
  let l := (enabled c).filter (fun n => sRepeat (c.slot n) ≠ 0)
  l.all (fun n => (c.run n).retired && c.ops.all (fun o => o.slot ≠ n) && c.reqs.all (fun r => r.slot ≠ n))

/-- The report of retired slots, when it is owed and due (R416). -/
def State.retireReport (s : State) (x y : Nat) : State :=
  let c := s.cell x y
  if c.owes && retiredAll c then (s.setCell x y { c with owes := false }).report x y 5 0 0xFF 0 0 0 else s

/-- Nothing of the cell is in flight. -/
def quietOps (c : Cell) : Bool := c.ops = [] && c.reqs = [] && c.dmas = []

/-- The conditions of an idle point: after STOP, or every enabled slot retired, with nothing in flight (R57, R58). -/
def idleDue (c : Cell) : Bool :=
  quietOps c && ((c.state ≠ .idle && c.stopping) ||
    (c.state = .active && (enabled c).all (fun n => (c.run n).retired)))

/-- IDLE_POINT: the cell enters IDLE, the shadow is applied, and the flag word or the corrections are reported (R58, R60, R82,
R226). -/
def execIdlePoint (x y : Nat) (s : State) : Res :=
  if ! siteOk x y then .fault .noSuchSite
  else if s.bodyOut x y || ! idleDue (s.cell x y) then .next s
  else
    let s1 := s.retireReport x y
    let c := s1.cell x y
    let s2 := s1.setCell x y { c.applyShadow with state := .idle, stopping := false, quietSince := c.pulse }
    if c.aflags = 0 ∧ c.eccFixed = 0 then .next s2
    else .next (s2.report x y 2 0 0xFF c.aflags.toNat (min c.eccFixed (2 ^ 32 - 1)) 0)

/-! ### The reconvergence watchdog (R54-R56) -/

/-- Input queues of a slot: those it can pop, scale queues included (R54). -/
def inputQs (k : Cls) (w : BitVec 128) : List Nat :=
  let scale := match k, sOp w with
    | .c, 0x01 => (opScq (sSrc0 w) (sOpa w)).toList ++ (opScq (sSrc1 w) (sOpb w)).toList
    | .c, 0x18 => if isNarrow w || 8 ≤ sSrc0 w then [] else (cvtScq w).toList
    | .g, 0x02 => if (sMod w).testBit 0 then (scqOf (sOpb w)).toList else []
    | _, _ => []
  dedup (srcQ (sSrc0 w) ++ srcQ (sSrc1 w) ++ (if sOp w = 0x31 ∨ sOp w = 0x32 ∨ sOp w = 0x33 then srcQ (sCtl w) else []) ++ scale)

/-- The watchdog condition of one slot: a full input queue and an empty one (R54). -/
def wdogSlot (k : Cls) (c : Cell) (n : Nat) : Option (Nat × Nat × Nat) :=
  let qs := inputQs k (c.slot n)
  match qs.find? (fun q => qCap c q ≤ (c.queue q).occ), qs.find? (fun q => (c.queue q).occ = 0) with
  | some f, some e => some (n, f, e)
  | _, _ => none

/-- The first slot for which the condition holds. -/
def wdogHit (k : Cls) (c : Cell) : Option (Nat × Nat × Nat) :=
  if c.state = .active then (enabled c).findSome? (wdogSlot k c) else none

/-- The limit in force: 0 disables, 1-4,095 act as 4,096 (R56). -/
def wdogLimitOf (w : Word) : Nat := if w.toNat < 4096 then 4096 else w.toNat

/-- WDOG_TRIP: the count has reached the limit in force; the cell freezes and records where (R55). A limit written in this pulse is in
force from the next (R60). -/
def execWdogTrip (x y : Nat) (s : State) : Res :=
  if ! siteOk x y then .fault .noSuchSite
  else
    let c := s.cell x y
    let lim := c.wdogWas.getD c.wdogLimit
    if s.bodyOut x y || lim = 0 || decide (c.wdogCount < wdogLimitOf lim) then .next s
    else
      match wdogHit (clsOf x y) c with
      | none => .next s
      | some (n, f, e) =>
        let info := word (n * 256 + f * 16 + e)
        .next ((s.setCell x y { c with wdogInfo := info, wdogTrip := true, wdogCount := 0 }).freezeCell x y
          fabReconvergenceStall n info.toNat 0)

/-! ### Sight comparison (R217-R221) -/

/-- The oldest full window of an entry. -/
def fullWin (c : Cell) (k : Nat) : Option (Nat × SightWin) := c.sg.wins.find? (fun v => v.1 % 4 = k && v.2.full)

/-- FMT of the slot that an entry checks. -/
def sightFmt (c : Cell) (k : Nat) : Nat := sFmt (c.slot (sgSlot (tgetD c.sg.entry k 0)))

/-- Whether a window passes (R217). -/
def sightPass (fm : Nat) (v : SightWin) : Bool :=
  let diff := v.d.add v.c.neg
  if fm = 8 then (if 0 ≤ diff.e then diff.m * 2 ^ diff.e.toNat else diff.m) % 256 = 0
  else diff.abs.le (sightTol fm v.p v.q v.n)

/-- Sight counters and captures after a comparison: 0 passes, 1 not compared, 2 fails (R217, R220, R221). -/
def Cell.compared (c : Cell) (k key : Nat) (v : SightWin) : Cell × Nat :=
  let fm := sightFmt c k
  let g := { c.sg with wins := tdel c.sg.wins key, done := tset c.sg.done k (tgetD c.sg.done k 0 + 1) }
  if v.skip then ({ c with sg := { g with skipped := satInc g.skipped, skipSum := g.skipSum + 1 } }, 1)
  else if sightPass fm v then ({ c with sg := { g with windows := satInc g.windows, winSum := g.winSum + 1 } }, 0)
  else
    let num := min (key / 4) 0xFFFF
    let info := word (num * 2 ^ 16 + sgSlot (tgetD c.sg.entry k 0) * 256 + k)
    let cap := fun (d : Dyadic) => if fm = 8 then word (twos 8 d.m) else word (fp32.roundD d).1
    let g1 := { g with mismatch := satInc g.mismatch, windows := satInc g.windows, winSum := g.winSum + 1 }
    let g2 := if g.captured then g1 else
      { g1 with captured := true, capD := cap v.d, capC := cap v.c,
                capTol := if fm = 8 then 0 else roundUp (sightTol fm v.p v.q v.n), capInfo := info }
    ({ c with sg := g2 }, 2)

/-- SIGHT_COMPARE: the comparison of the oldest full window of entry `k` (R219, R220). -/
def execSightCompare (x y k : Nat) (s : State) : Res :=
  if ! siteOk x y then .fault .noSuchSite
  else if 4 ≤ k then .fault .noSuchPart
  else
    let c := s.cell x y
    if clsOf x y ≠ .c then .next s
    else
      match fullWin c k with
      | none => .next s
      | some (key, v) =>
        let r := c.compared k key v
        let s1 := s.setCell x y r.1
        if r.2 = 2 then
          .next (s1.freezeCell x y sightMismatch (sgSlot (tgetD c.sg.entry k 0)) r.1.sg.capInfo.toNat 0)
        else .next s1

/-- SG_CTRL.CLR_CNT: the three sight counters (R221). -/
def execSgClrCnt (x y : Nat) (s : State) : Res :=
  if ! siteOk x y then .fault .noSuchSite
  else if clsOf x y ≠ .c then .next s
  else .next (s.onCell x y (fun c => { c with sg := { c.sg with windows := 0, skipped := 0, mismatch := 0 } }))

end Sys2Proof.Machine
end

