-- ==== Sys2Proof/Machine/Crypto.lean ====
section
/-!
DEFINITION. The checks and digests the spec takes from published standards: CRC-32 (R136, R351, R367), CRC-64 of ECMA-182
(R351), SHA-512 (R107, R232) and the ECDSA signatures of P-521 (R233, R375, R388).
-/
namespace Sys2Proof.Machine

/-! ### CRC-32 of IEEE 802.3 and CRC-64 of ECMA-182 -/

/-- One bit of the reflected CRC-32. -/
def crc32Bits : Nat → Nat → Nat
  | 0, c => c
  | n + 1, c => crc32Bits n (if c % 2 = 1 then Nat.xor (c / 2) 0xEDB88320 else c / 2)

def crc32Go : Nat → List Byte → Nat
  | c, [] => c
  | c, b :: t => crc32Go (crc32Bits 8 (Nat.xor c b.toNat)) t

/-- CRC-32 with the IEEE 802.3 polynomial over bytes. In part DESIGN CHOICE, log 11. -/
def crc32 (l : List Byte) : Nat := Nat.xor (crc32Go 0xFFFFFFFF l) 0xFFFFFFFF

/-- One bit of CRC-64, most significant bit first. -/
def crc64Bits : Nat → Nat → Nat
  | 0, c => c
  | n + 1, c => crc64Bits n (if 2 ^ 63 ≤ c then Nat.xor (2 * c % 2 ^ 64) 0x42F0E1EBA9EA3693 else 2 * c)

def crc64Go : Nat → List Byte → Nat
  | c, [] => c
  | c, b :: t => crc64Go (crc64Bits 8 (Nat.xor c (b.toNat * 2 ^ 56))) t

/-- CRC-64 of ECMA-182 over bytes: initial value and final exclusive or 0 (DESIGN CHOICE, log 11). -/
def crc64 (l : List Byte) : Nat := crc64Go 0 l

/-! ### SHA-512 (FIPS 180-4)

A row of eight 64-bit words is one 512-bit number, the first word at the top: the hash value, the working registers and eight round
constants are such rows, and a message block is two. -/

/-- Eight 64-bit words. -/
abbrev ShaRow := BitVec 512

/-- Word `i` of a row. -/
def ShaRow.word (r : ShaRow) (i : Nat) : Dword := (r >>> (448 - 64 * i)).setWidth 64

/-- A row of the words given by a function of their place. -/
def ShaRow.make (f : Nat → Dword) : ShaRow := (List.range 8).foldl (fun r i => (r <<< 64) ||| (f i).setWidth 512) 0

/-- Words of two rows added place by place. -/
def ShaRow.plus (r t : ShaRow) : ShaRow := ShaRow.make (fun i => r.word i + t.word i)

/-- The round constants: fractional parts of the cube roots of the first 80 primes, a row for eight rounds. -/
def shaConstants : List ShaRow :=
  [0x428A2F98D728AE227137449123EF65CDB5C0FBCFEC4D3B2FE9B5DBA58189DBBC3956C25BF348B53859F111F1B605D019923F82A4AF194F9BAB1C5ED5DA6D8118#512,
   0xD807AA98A303024212835B0145706FBE243185BE4EE4B28C550C7DC3D5FFB4E272BE5D74F27B896F80DEB1FE3B1696B19BDC06A725C71235C19BF174CF692694#512,
   0xE49B69C19EF14AD2EFBE4786384F25E30FC19DC68B8CD5B5240CA1CC77AC9C652DE92C6F592B02754A7484AA6EA6E4835CB0A9DCBD41FBD476F988DA831153B5#512,
   0x983E5152EE66DFABA831C66D2DB43210B00327C898FB213FBF597FC7BEEF0EE4C6E00BF33DA88FC2D5A79147930AA72506CA6351E003826F142929670A0E6E70#512,
   0x27B70A8546D22FFC2E1B21385C26C9264D2C6DFC5AC42AED53380D139D95B3DF650A73548BAF63DE766A0ABB3C77B2A881C2C92E47EDAEE692722C851482353B#512,
   0xA2BFE8A14CF10364A81A664BBC423001C24B8B70D0F89791C76C51A30654BE30D192E819D6EF5218D69906245565A910F40E35855771202A106AA07032BBD1B8#512,
   0x19A4C116B8D2D0C81E376C085141AB532748774CDF8EEB9934B0BCB5E19B48A8391C0CB3C5C95A634ED8AA4AE3418ACB5B9CCA4F7763E373682E6FF3D6B2B8A3#512,
   0x748F82EE5DEFB2FC78A5636F43172F6084C87814A1F0AB728CC702081A6439EC90BEFFFA23631E28A4506CEBDE82BDE9BEF9A3F7B2C67915C67178F2E372532B#512,
   0xCA273ECEEA26619CD186B8C721C0C207EADA7DD6CDE0EB1EF57D4F7FEE6ED17806F067AA72176FBA0A637DC5A2C898A6113F9804BEF90DAE1B710B35131C471B#512,
   0x28DB77F523047D8432CAAB7B40C724933C9EBE0A15C9BEBC431D67C49C100D4C4CC5D4BECB3E42B6597F299CFC657E2A5FCB6FAB3AD6FAEC6C44198C4A475817#512]

/-- The value a hash starts from: fractional parts of the square roots of the first eight primes. -/
def shaStart : ShaRow :=
  0x6A09E667F3BCC908BB67AE8584CAA73B3C6EF372FE94F82BA54FF53A5F1D36F1510E527FADE682D19B05688C2B3E6C1F1F83D9ABFB41BD6B5BE0CD19137E2179#512

/-- The exclusive or of a word turned right by some amounts. -/
def turned (x : Dword) (l : List Nat) : Dword := l.foldl (fun a n => a ^^^ x.rotateRight n) 0

/-- One round on the working registers a to h, words 0 to 7 of the row, with the sum of its constant and its schedule word: the registers
move one place on, and the first and the fifth of them are formed anew. -/
def ShaRow.round (v : ShaRow) (x : Dword) : ShaRow :=
  let e := v.word 4
  let a := v.word 0
  let choice := (e &&& v.word 5) ||| (~~~ e &&& v.word 6)
  let most := (a &&& (v.word 1 ||| v.word 2)) ||| (v.word 1 &&& v.word 2)
  let down := v.word 7 + turned e [14, 18, 41] + choice + x
  let fresh := down + turned a [28, 34, 39] + most
  ShaRow.make (fun i => if i = 0 then fresh else if i = 4 then v.word 3 + down else v.word (i - 1))

/-- The next eight schedule words after two rows, the later row second. -/
def shaMore (p q : ShaRow) : ShaRow :=
  (List.range 8).foldl (fun r i =>
    let at_ := fun (k : Nat) => if i + k < 8 then p.word (i + k) else if i + k < 16 then q.word (i + k - 8) else r.word (i + k - 16 + 8 - i)
    let low := turned (at_ 1) [1, 8] ^^^ (at_ 1 >>> 7)
    let high := turned (at_ 14) [19, 61] ^^^ (at_ 14 >>> 6)
    (r <<< 64) ||| (at_ 0 + low + at_ 9 + high).setWidth 512) 0

/-- Eight rounds for each row of constants, with the schedule rows `p` and then `q` at hand. -/
def shaRows : List ShaRow → ShaRow → ShaRow → ShaRow → ShaRow
  | [], v, _, _ => v
  | k :: ks, v, p, q => shaRows ks ((List.range 8).foldl (fun v i => v.round (k.word i + p.word i)) v) q (shaMore p q)

/-- A row from 64 bytes. -/
def shaRow (l : List Byte) : ShaRow := BitVec.ofNat 512 (beNat (l.take 64))

/-- Blocks of 128 bytes taken into the hash value. -/
def shaOver : Nat → ShaRow → List Byte → ShaRow
  | 0, h, _ => h
  | n + 1, h, l => shaOver n (h.plus (shaRows shaConstants h (shaRow l) (shaRow (l.drop 64)))) (l.drop 128)

/-- SHA-512 of bytes: 64 bytes. The message is filled up to whole blocks: a one bit, zeros, and its length in bits. -/
def sha512 (l : List Byte) : List Byte :=
  let blocks := l.length / 128 + (if l.length % 128 < 112 then 1 else 2)
  let fill := 128 * blocks - l.length - 16
  beBytes 64 (shaOver blocks shaStart (l ++ (0x80#8 :: zeros (fill - 1)) ++ beBytes 16 (8 * l.length))).toNat

/-! ### ECDSA on P-521 (FIPS 186-5) -/

def p521 : Nat := 2 ^ 521 - 1
def n521 : Nat :=
  0x01FFFFFFFFFFFFFFFFFFFFFFFFFFFFFFFFFFFFFFFFFFFFFFFFFFFFFFFFFFFFFFFFFA51868783BF2F966B7FCC0148F709A5D03BB5C9B8899C47AEBB6FB71E91386409
def b521 : Nat :=
  0x0051953EB9618E1C9A1F929A21A0B68540EEA2DA725B99B315F3B8B489918EF109E156193951EC7E937B1652C0BD3BB1BF073573DF883D2C34F1EF451FD46B503F00
def gx521 : Nat :=
  0x00C6858E06B70404E9CD9E3ECB662395B4429C648139053FB521F828AF606B4D3DBAA14B5E77EFE75928FE1DC127A2FFA8DE3348B3C1856A429BF97E7E31C2E5BD66
def gy521 : Nat :=
  0x011839296A789A3BC0045C8A5FB42C7D1BD998F54449579B446817AFBD17273E662C97EE72995EF42640C550B9013FAD0761353C7086A272C24088BE94769FD16650

/-- Modular power by squaring: `n` bits of the exponent. -/
def powMod (m : Nat) : Nat → Nat → Nat → Nat
  | 0, _, _ => 1 % m
  | n + 1, b, e => (if e % 2 = 1 then b else 1) * powMod m n (b * b % m) (e / 2) % m

/-- Inverse modulo a prime below 2^521 or so. -/
def invMod (m a : Nat) : Nat := powMod m 521 (a % m) (m - 2)

/-- Affine points; none is the point at infinity. -/
def ptAdd (p q : Option (Nat × Nat)) : Option (Nat × Nat) :=
  match p, q with
  | none, q => q
  | p, none => p
  | some (x1, y1), some (x2, y2) =>
    if x1 = x2 ∧ (y1 + y2) % p521 = 0 then none
    else
      let l := if x1 = x2 then (3 * x1 * x1 + (p521 - 3)) * invMod p521 (2 * y1) % p521
        else (y2 + p521 - y1) * invMod p521 (x2 + p521 - x1) % p521
      let x3 := (l * l + 2 * p521 - x1 - x2) % p521
      some (x3, (l * (x1 + p521 - x3) + p521 - y1) % p521)

/-- Scalar multiple, `n` bits of the scalar. -/
def ptMul : Nat → Nat → Option (Nat × Nat) → Option (Nat × Nat)
  | 0, _, _ => none
  | n + 1, k, p => ptAdd (if k % 2 = 1 then p else none) (ptMul n (k / 2) (ptAdd p p))

def onCurve (x y : Nat) : Bool := x < p521 && y < p521 && (y * y) % p521 = (x * x * x + (p521 - 3) * x + b521) % p521

/-- A public key 0x04, X, Y of 133 bytes. -/
def keyPoint (key : List Byte) : Option (Nat × Nat) :=
  let x := beNat ((key.drop 1).take 66)
  let y := beNat ((key.drop 67).take 66)
  if byteAt key 0 = 4 ∧ onCurve x y then some (x, y) else none

/-- ECDSA verification over SHA-512 of a message, with 66-byte big-endian R and S. In part DESIGN CHOICE, log 11. -/
def ecdsaVerify (key msg sigR sigS : List Byte) : Bool :=
  let r := beNat sigR
  let s := beNat sigS
  match keyPoint key with
  | none => false
  | some q =>
    if r = 0 ∨ n521 ≤ r ∨ s = 0 ∨ n521 ≤ s then false
    else
      let w := invMod n521 s
      let e := beNat (sha512 msg)
      match ptAdd (ptMul 521 (e * w % n521) (some (gx521, gy521))) (ptMul 521 (r * w % n521) (some q)) with
      | some (x, _) => x % n521 = r
      | none => false

/-- The private number of a key from a free number: 1 to n - 1. -/
def keyNumber (k : Nat) : Nat := 1 + k % (n521 - 1)

/-- The public key of a private number: 0x04, X, Y (R375). -/
def publicKey (d : Nat) : List Byte :=
  match ptMul 521 d (some (gx521, gy521)) with
  | some (x, y) => 4 :: (beBytes 66 x ++ beBytes 66 y)
  | none => zeros 133

/-- The ECDSA signature of a message with private number `d` and per-message number `k`: r and s, 66 bytes each, big-endian (R233). In part
DESIGN CHOICE, log 11. -/
def ecdsaSign (d k : Nat) (msg : List Byte) : List Byte :=
  match ptMul 521 k (some (gx521, gy521)) with
  | some (x, _) => beBytes 66 (x % n521) ++ beBytes 66 (invMod n521 k * (beNat (sha512 msg) + x % n521 * d) % n521)
  | none => zeros 132

end Sys2Proof.Machine
end

