-- ==== Sys2Proof/Machine/Sync.lean ====
section
/-!
DEFINITION. The sync words of M-cells (R199-R212): operations, barriers, wait lists, clears and their registers.
-/
namespace Sys2Proof.Machine

/-! ### The word (R199) -/

def swKind (w : Dword) : Nat := fld w 63 62
def swGen (w : Dword) : Nat := fld w 61 48
def swTarget (w : Dword) : Nat := fld w 47 24
def swValue (w : Dword) : Nat := fld w 23 0
def swArrived (w : Dword) : Nat := fld w 23 12
def swEarly (w : Dword) : Nat := fld w 11 0

def swMake (kind gen target value : Nat) : Dword := dword (kind * 2 ^ 62 + gen * 2 ^ 48 + target * 2 ^ 24 + value)

/-- Capacity of VALUE (R202). -/
def swCap : Nat := 16777215

/-- Outcome of an operation: the word after it, or the code it faults with. -/
inductive SwOut where
  | done (w : Dword)
  | bad (c : Code)
deriving DecidableEq, Repr

/-- A counter or flag takes a new value; only a counter has a limit (R202). -/
def swPut (w : Dword) (v : Nat) : SwOut :=
  if swKind w = 0 ∧ swTarget w ≠ 0 ∧ swTarget w < v then .bad syncOverflow
  else if swCap < v then .bad syncOverflow
  else .done (setFld w 23 0 v)

def swAdd (w : Dword) (o : Word) : SwOut :=
  if 1 ≤ swKind w ∧ swKind w ≠ 2 then .bad syncGeneration else swPut w (swValue w + fld o 23 0)

def swSub (w : Dword) (o : Word) : SwOut :=
  if 1 ≤ swKind w ∧ swKind w ≠ 2 then .bad syncGeneration
  else if swValue w < fld o 23 0 then .bad syncUnderflow
  else .done (setFld w 23 0 (swValue w - fld o 23 0))

/-- SET with bit 31 clear. -/
def swSet (w : Dword) (o : Word) : SwOut :=
  if 1 ≤ swKind w ∧ swKind w ≠ 2 then .bad syncGeneration else swPut w (fld o 23 0)

/-- SET with bit 31 set: KIND and TARGET are written, VALUE becomes 0, GEN is kept (R202). -/
def swConfigure (w : Dword) (o : Word) : SwOut :=
  let kind := fld o 29 28
  let target := fld o 23 0
  if swKind w = 3 ∨ kind = 3 then .bad syncGeneration
  else if kind = 1 ∧ (target = 0 ∨ 4095 < target) then .bad syncOverflow
  else .done (swMake kind (swGen w) target 0)

/-- ARRIVE (R202, R203). -/
def swArrive (w : Dword) (o : Word) : SwOut :=
  if swKind w = 3 then .bad syncGeneration
  else if swKind w ≠ 1 then swPut w (swValue w + 1)
  else if swTarget w = 0 ∨ 4095 < swTarget w then .bad syncOverflow
  else
    let d := (fld o 13 0 + 16384 - swGen w) % 16384
    if d = 0 then
      (if swArrived w + 1 = swTarget w then .done (swMake 1 ((swGen w + 1) % 16384) (swTarget w) (swEarly w * 4096))
       else .done (swMake 1 (swGen w) (swTarget w) ((swArrived w + 1) * 4096 + swEarly w)))
    else if d = 1 then
      (if swArrived w < swEarly w + 1 then .bad syncOverflow
       else .done (swMake 1 (swGen w) (swTarget w) (swArrived w * 4096 + swEarly w + 1)))
    else .bad syncGeneration

/-- The condition of WAIT_GE (R202); a word of KIND 3 has none. -/
def swHolds (w : Dword) (o : Word) : Bool :=
  if swKind w = 1 then (swGen w + 16384 - fld o 13 0) % 16384 < 8192 else swKind w ≠ 3 && fld o 23 0 ≤ swValue w

/-- The response item (R201). -/
def swItem (m : Nat) (w : Dword) (status : Code) (op : Nat) (pending : Bool) (index : Nat) : Item :=
  itemOf (leBytes 8 w.toNat ++ leBytes 2 status.toNat ++ [BitVec.ofNat 8 op, BitVec.ofNat 8 (b2n pending)] ++
    leBytes 2 index ++ [BitVec.ofNat 8 m])

/-- The answer to a parked waiter. -/
def waiterRsp (m x y : Nat) (w : Dword) (status : Code) (v : Waiter) : Packet :=
  rspOf m x y portL v.mod v.x v.y v.port v.tag opSyncrsp [swItem m w status opWaitGe false v.index]

/-! ### Words of a cell -/

/-- Word `k` of an M-cell. -/
def Cell.sw (c : Cell) (k : Nat) : SyncWord := if k = 0 then c.w0 else c.w1

def Cell.setSw (c : Cell) (k : Nat) (v : SyncWord) : Cell := if k = 0 then { c with w0 := v } else { c with w1 := v }

/-- A counter of R212: 0 SW_OPS, 1 SW_FAULTS, 2 SW_PARKED, 3 SW_PENDING. -/
def Cell.swCount (c : Cell) (k : Nat) : Cell := { c with syncCnt := cntAdd c.syncCnt k 1 }

/-- A new word, and the waiters whose condition now holds answered in list order (R207). -/
def Cell.swStore (c : Cell) (m x y k : Nat) (w : Dword) : Cell × List Packet :=
  let v := c.sw k
  let go := v.waiters.filter (fun p => swHolds w p.operand)
  (c.setSw k { v with word := w, waiters := v.waiters.filter (fun p => ! swHolds w p.operand) },
   go.map (waiterRsp m x y w codeOk))

/-! ### Operations as packets -/

/-- The first request that has arrived at a port of a site, and the router without it (R188). -/
def headReq (r : Router) (port : Nat) : Option (Packet × Router) :=
  (takeFirst (fun (v : Nat × Packet) => v.1 = port && v.2.cls ≠ clsRsp) r.arrived).map (fun v => (v.1.2, { r with arrived := v.2 }))

/-- The channel of a tower request; none: the packet is no such request. -/
def Packet.chan (p : Packet) : Option Nat := if fld p.dest 61 58 = 1 then some (fld p.dest 32 0 / 4096 % 64) else none

/-- The request served next at a port: the first one, but at the V port of a P-cell in paired service the first for the other channel
than was served last, when there is one (R18, R188). -/
def State.turnReq (s : State) (x y port : Nat) : Option (Packet × Router) :=
  let r := s.router x y
  let last := (s.cell x y).pc.lastChan
  match headReq r port with
  | none => none
  | some (p, r1) =>
    if port = portV && s.servesPair x y && last.isSome && p.chan = last then
      match takeFirst (fun (v : Nat × Packet) => v.1 = portV && v.2.cls ≠ clsRsp && v.2.chan.isSome && v.2.chan ≠ last) r.arrived with
      | some (v, rest) => some (v.2, { r with arrived := rest })
      | none => some (p, r1)
    else some (p, r1)

/-- The channel that has had its turn, when a request is served. -/
def State.noteTurn (s : State) (x y port : Nat) (p : Packet) : State :=
  if port = portV && p.cls ≠ clsRsp && s.servesPair x y && p.chan.isSome then s.onCell x y (fun c => { c with pc := { c.pc with lastChan := p.chan } }) else s

/-- The first response that has arrived at a port. -/
def headRsp (r : Router) (port : Nat) : Option (Packet × Router) :=
  (takeFirst (fun (v : Nat × Packet) => v.1 = port && v.2.cls = clsRsp) r.arrived).map (fun v => (v.1.2, { r with arrived := v.2 }))

/-- Sync index of a request, and the word it names in its home (R165). -/
def swIndex (p : Packet) : Nat := fld p.dest 15 0

/-- The report of a faulted operation (R204, R226 KIND 4). -/
def swReport (s : State) (x y : Nat) (p : Packet) (code : Code) : State :=
  s.inject x y [reportPkt s.myMod x y portL
    (reportFlit 4 code p.srcX p.srcY 0xFF 0 p.srcMod p.op (syncAddr s.myMod (swIndex p)))]

/-- An operation with outcome `f` on the word it names, its response and the waiters it satisfies (R202, R204, R207). -/
def swApply (s : State) (x y : Nat) (p : Packet) (f : Dword → Word → SwOut) : State :=
  let m := s.myMod
  let c := s.cell x y
  let k := swIndex p % 2
  match f (c.sw k).word (word p.arg.toNat) with
  | .bad code => swReport ((s.setCell x y (c.swCount 1)).inject x y [p.fault m x y portL code 0]) x y p code
  | .done w =>
    let r := (c.swCount 0).swStore m x y k w
    (s.setCell x y r.1).inject x y (p.answer m x y portL opSyncrsp [swItem m w codeOk p.op false (swIndex p)] :: r.2)

/-- WAIT_GE: answered at once, parked, or answered PENDING (R206). -/
def swWait (s : State) (x y : Nat) (p : Packet) : State :=
  let m := s.myMod
  let c := s.cell x y
  let k := swIndex p % 2
  let v := c.sw k
  let o := word p.arg.toNat
  if swKind v.word = 3 then
    swReport ((s.setCell x y (c.swCount 1)).inject x y [p.fault m x y portL syncGeneration 0]) x y p syncGeneration
  else if swHolds v.word o then
    (s.setCell x y (c.swCount 0)).inject x y [p.answer m x y portL opSyncrsp [swItem m v.word codeOk p.op false (swIndex p)]]
  else if v.waiters.length < 32 then
    s.setCell x y (((c.swCount 0).swCount 2).setSw k { v with waiters := v.waiters ++
      [{ index := swIndex p, mod := p.srcMod, x := p.srcX, y := p.srcY, port := p.srcPort, tag := p.tag, operand := o }] })
  else
    (s.setCell x y ((c.swCount 0).swCount 3)).inject x y
      [p.answer m x y portL opSyncrsp [swItem m v.word codeOk p.op true (swIndex p)]]

/-- The request at the head of the L port, when it is the operation meant, taken and given its effect. -/
def State.syncOp (s : State) (x y : Nat) (is : Packet → Bool) (f : State → Packet → State) : Res :=
  if ! siteOk x y then .fault .noSuchSite
  else
    match headReq (s.router x y) portL with
    | none => .next s
    | some (p, r) => if is p then .next (f (s.onRouter x y (fun _ => r)) p) else .next s

def execSyncAdd (x y : Nat) (s : State) : Res := s.syncOp x y (fun p => p.op = 0x08) (fun s p => swApply s x y p swAdd)
def execSyncSub (x y : Nat) (s : State) : Res := s.syncOp x y (fun p => p.op = 0x09) (fun s p => swApply s x y p swSub)
def execSyncSet (x y : Nat) (s : State) : Res :=
  s.syncOp x y (fun p => p.op = 0x0A && ! bitB p.arg 31) (fun s p => swApply s x y p swSet)
def execSyncSetConfigure (x y : Nat) (s : State) : Res :=
  s.syncOp x y (fun p => p.op = 0x0A && bitB p.arg 31) (fun s p => swApply s x y p swConfigure)
def execArrive (x y : Nat) (s : State) : Res := s.syncOp x y (fun p => p.op = 0x0B) (fun s p => swApply s x y p swArrive)
def execWaitGe (x y : Nat) (s : State) : Res := s.syncOp x y (fun p => p.op = 0x0C) (fun s p => swWait s x y p)

/-- WAIT_RESEND: 512 core cycles after a PENDING response the SYNC unit sends the same WAIT_GE again (R206). -/
def execWaitResend (x y tag : Nat) (s : State) : Res :=
  if ! siteOk x y then .fault .noSuchSite
  else
    let c := s.cell x y
    match c.reqs.find? (fun r => r.tag = tag) with
    | none => .next s
    | some r =>
      match r.resend, r.kind with
      | some t, .sync true o =>
        if t + 512 ≤ s.cycle then
          let p := { pktOf s.myMod x y portL with dest := r.dest, cls := clsSync, op := opWaitGe, tag := tag, arg := dword o.toNat }
          .next ((s.setCell x y { c with reqs := c.reqs.map (fun q => if q.tag = tag then { q with resend := none } else q) }).inject
            x y [p])
        else .next s
      | _, _ => .next s

/-! ### Clears and registers (R210-R212) -/

/-- The word becomes zero and every parked waiter is answered with RUN_CANCELLED, in list order (R210). -/
def swClear (s : State) (x y k : Nat) : State :=
  let c := s.cell x y
  let v := c.sw k
  (s.setCell x y (c.setSw k { v with word := 0, waiters := [] })).inject x y
    (v.waiters.map (waiterRsp s.myMod x y 0 runCancelled))

/-- A command on the sync registers of an M-site. -/
def State.onSw (s : State) (x y : Nat) (f : State → State) : Res :=
  if ! siteOk x y then .fault .noSuchSite
  else if clsOf x y ≠ .m || s.bodyOut x y then .next s
  else .next (f s)

def execClr0 (x y : Nat) (s : State) : Res := s.onSw x y (fun s => swClear s x y 0)
def execClr1 (x y : Nat) (s : State) : Res := s.onSw x y (fun s => swClear s x y 1)

/-- SW_CTRL.CLR_CNT (R212). -/
def execSwClrCnt (x y : Nat) (s : State) : Res := s.onSw x y (fun s => s.onCell x y (fun c => { c with syncCnt := [] }))

/-- A write of SW_WORDn_LO is held (R211). -/
def swHoldLo (s : State) (x y k : Nat) (v : Word) : State :=
  s.onCell x y (fun c => c.setSw k { c.sw k with heldLo := v })

/-- A write of SW_WORDn_HI writes both halves as one, and the parked waiters are evaluated (R211). -/
def swWriteHi (s : State) (x y k : Nat) (v : Word) : State :=
  let c := s.cell x y
  let r := c.swStore s.myMod x y k (join32 v (c.sw k).heldLo)
  (s.setCell x y r.1).inject x y r.2

def execSwWordHiWrite (x y k : Nat) (v : Word) (s : State) : Res :=
  if 2 ≤ k then .fault .noSuchPart else s.onSw x y (fun s => swWriteHi s x y k v)

/-- A read of SW_WORDn_LO captures the high half for the next read of HI (R211). -/
def swReadLo (s : State) (x y k : Nat) : State :=
  s.onCell x y (fun c => c.setSw k { c.sw k with capHi := some (hi32 (c.sw k).word) })

def execSwWordLoRead (x y k : Nat) (s : State) : Res :=
  if 2 ≤ k then .fault .noSuchPart else s.onSw x y (fun s => swReadLo s x y k)

end Sys2Proof.Machine
end

