-- ==== Sys2Proof/Machine/Route.lean ====
section
/-!
DEFINITION. Routers as places: neighbours, links and their sharing (R132, R133), ports that are down, resolution of a device
address and its checks (R138, R167, R168, R172, R307, R308), and the routing of one header (R142-R145).
-/
namespace Sys2Proof.Machine

/-- DST_PORT of a packet that a router consumes itself (UNIT 0 router block, UNIT 2; R168). The spec gives no code (DESIGN CHOICE, log 17). -/
def portR : Nat := 6

/-! ### The mesh (R132) -/

/-- The port by which a link that leaves by `p` enters the next router. -/
def opposite (p : Nat) : Nat := if p < 4 then (p + 2) % 4 else p

/-- The router beyond a port. -/
def beyond (x y p : Nat) : Option (Nat × Nat) :=
  match p with
  | 0 => if y = 0 then none else some (x, y - 1)
  | 1 => if x < 575 then some (x + 1, y) else none
  | 2 => if y < 575 then some (x, y + 1) else none
  | 3 => if x = 0 then none else some (x - 1, y)
  | _ => none

/-- Core cycles of a link beyond the first: 2 at a field boundary (R141). -/
def crossing (x y p : Nat) : Nat :=
  match beyond x y p with
  | some (u, v) => if fieldOf u v = fieldOf x y then 0 else 2
  | none => 0

/-- A router runs: it is not dead and its field has its core rails (R324, R325). -/
def State.routerUp (s : State) (x y : Nat) : Bool := (s.field (fieldOf x y)).rails && ! s.routerDead x y

/-- A port is down by PORT_OFF or by link failure (R142, R158); bits N, E, S, W, V are 0-4. -/
def portBit (p : Nat) : Nat := if p = portV then 4 else p
def Router.down (r : Router) (p : Nat) : Bool := bitB r.linkDown (portBit p) || bitB r.fence (4 + portBit p)

/-! ### Fences (R158) -/

def Router.body (r : Router) : Bool := bitB r.fence 0
def Router.preset (r : Router) : Bool := bitB r.fence 1
def Router.pair (r : Router) : Bool := bitB r.fence 2
def Router.fieldOff (r : Router) : Bool := bitB r.fence 3

/-- The bits of RTR_FENCE that firmware has set in every router of a field: PRESET and FIELD_OFF. -/
def Field.fences (q : Field) : Word := (if q.preset then 2#32 else 0) ||| (if q.fieldOff then 8#32 else 0)

/-- RTR_FENCE as it stands: a router's own two bits say where it differs from the rest of its field. -/
def State.fenceWord (s : State) (x y : Nat) : Word := (s.router x y).fence ^^^ (s.field (fieldOf x y)).fences

/-- RTR_FENCE is written. -/
def State.writeFence (s : State) (x y : Nat) (v : Word) : State :=
  let w := (v &&& 0x1FF#32) ^^^ (s.field (fieldOf x y)).fences
  s.onRouter x y (fun r => { r with fence := w })

/-- A bit of RTR_FENCE has been written in every router of a field: no listed router differs from it. -/
def State.sameFence (s : State) (f bit : Nat) : State :=
  { s with routers := tmap (fun i (r : Router) =>
      if fieldOf (i % 576) (i / 576) = f ∧ bitB r.fence bit then { r with fence := setBit r.fence bit false } else r) s.routers }

/-- Firmware writes PRESET, or FIELD_OFF, in every router of a field. -/
def State.setPreset (s : State) (f : Nat) (v : Bool) : State := (s.onField f (fun q => { q with preset := v })).sameFence f 1
def State.setFieldOff (s : State) (f : Nat) (v : Bool) : State := (s.onField f (fun q => { q with fieldOff := v })).sameFence f 3

/-! ### Links (R133) -/

/-- The wheel's word of an output port; bit 0 reads 1. -/
def Router.wheelOf (r : Router) (p : Nat) : Word := tgetD r.wheel p wheelReset

/-- Dynamic traffic has first claim in this cycle. -/
def Router.dynFirst (r : Router) (p cycle : Nat) : Bool := cycle % 16 = 0 || bitB (r.wheelOf p) (cycle % 16)

/-- The next of `n` in turn after the one served last that wants to go (R133); the first turn is that of number 0. -/
def nextTurn (last n : Nat) (wants : Nat → Bool) : Option Nat := ((List.range n).map (fun k => (last + 1 + k) % n)).find? wants

/-- The link has carried no flit in this cycle. -/
def Router.linkFree (r : Router) (p cycle : Nat) : Bool := tgetD r.used p 0 ≠ cycle + 1

/-- A flit crosses in this cycle, with `k` payload flits to follow it. -/
def Router.useLink (r : Router) (p cycle k : Nat) : Router :=
  { r with used := tset r.used p (cycle + 1), tail := if k = 0 then r.tail else tset r.tail p k }

/-- The flit is a static one from output lane `o`; the header of a packet from input channel `key` (R133). -/
def Router.useStat (r : Router) (o cycle : Nat) : Router :=
  { r.useLink (o / 4) cycle 0 with rrLane := tset r.rrLane (o / 4) (o % 4) }
def Router.useDyn (r : Router) (p cycle k key : Nat) : Router := { r.useLink p cycle k with rrVc := tset r.rrVc p key }

/-- Payload flits of a packet whose header has crossed. -/
def Router.tailOf (r : Router) (p : Nat) : Nat := tgetD r.tail p 0

/-- At the end of a core cycle one payload flit crosses each link that carried nothing (R133). -/
def Router.moveTails (r : Router) (cycle : Nat) : Router :=
  { r with tail := (r.tail.map (fun t => if r.linkFree t.1 cycle then (t.1, t.2 - 1) else t)).filter (fun t => t.2 ≠ 0) }

/-! ### Counters (R159): 0 FENCED_REPLIES, 1 DETOUR_SWITCHES, 2 DETOUR_LOST, 3 CRC_DISCARDS, 4 ECC_CORRECTED, 5 ECC_DISCARDS,
6 MC_DROPS, 7 REDUCE_MISMATCH, 8 RSP_DISCARDS, 9 STALE_RSP -/

def Router.count (r : Router) (k : Nat) : Router :=
  { r with cnt := cntAdd r.cnt k 1, total := if k = 3 ∨ k = 4 ∨ k = 5 then tset r.total k (tgetD r.total k 0 + 1) else r.total }

/-- A router event's report (R226 KIND 3), sent from the router. -/
def State.routerReport (s : State) (x y : Nat) (code : Code) (index detail : Nat) : State := s.report x y 3 code index 0 detail 0

/-! ### The order of RTR_UPDOWN (R145) -/

/-- XY: east or west first, then north or south. -/
def xyPort (x y dx dy : Nat) : Nat := if x < dx then portE else if dx < x then portW else if y < dy then portS else portN

/-- A router that the order is computed over: it is not dead and its field is in service. -/
def UpOrder.live (o : UpOrder) (v : Nat × Nat) : Bool := ! o.dead.contains v && ! o.lost.contains (fieldOf v.1 v.2)

/-- The live router beyond a port, over a link that has not failed. -/
def UpOrder.next (o : UpOrder) (v : Nat × Nat) (p : Nat) : Option (Nat × Nat) :=
  match beyond v.1 v.2 p with
  | some u => if o.live u && ! o.cut.contains (v.1, v.2, p) && ! o.cut.contains (u.1, u.2, opposite p) then some u else none
  | none => none

/-- The routers one link from a list of routers, among those not seen. -/
def UpOrder.layer (o : UpOrder) (seen front : List (Nat × Nat)) : List (Nat × Nat) :=
  front.foldl (fun acc v => (List.range 4).foldl (fun acc p => match o.next v p with
    | some u => if seen.contains u || acc.contains u then acc else acc ++ [u]
    | none => acc) acc) []

/-- Breadth-first distance of a router from a front, or the number of layers that found none. -/
def UpOrder.bfs (o : UpOrder) (goal : Nat × Nat) : Nat → List (Nat × Nat) → List (Nat × Nat) → Nat → Nat
  | 0, _, _, d => d
  | n + 1, seen, front, d =>
    if front.contains goal || front = [] then d
    else
      let next := o.layer seen front
      o.bfs goal n (seen ++ next) next (d + 1)

/-- The root: the first live one of the four routers at the wafer centre, in the order of R350. -/
def UpOrder.root (o : UpOrder) : Nat × Nat :=
  (([(287, 287), (288, 287), (287, 288), (288, 288)] : List (Nat × Nat)).find? o.live).getD (287, 287)

/-- Breadth-first distance from the root; in a whole mesh it is the Manhattan distance. -/
def UpOrder.dist (o : UpOrder) (v : Nat × Nat) : Nat :=
  let r := o.root
  if o.dead = [] ∧ o.lost = [] ∧ o.cut = [] then (v.1 - r.1) + (r.1 - v.1) + (v.2 - r.2) + (r.2 - v.2)
  else o.bfs v 331776 [r] [r] 0

/-- `b` is earlier in the order than `a`: by distance, then y, then x. -/
def UpOrder.earlier (o : UpOrder) (b a : Nat × Nat) : Bool :=
  let db := o.dist b
  let da := o.dist a
  db < da || (db = da && (b.2 < a.2 || (b.2 = a.2 && b.1 < a.1)))

/-- The link beyond a port leads up. -/
def UpOrder.up (o : UpOrder) (x y p : Nat) : Bool := match beyond x y p with
  | some u => o.earlier u (x, y)
  | none => false

/-- RTR_UPDOWN of the start-up order. -/
def UpOrder.word (o : UpOrder) (x y : Nat) : Word := (List.range 4).foldl (fun w p => setBit w p (o.up x y p)) 0

/-- RTR_UPDOWN in force: 0 before MESH_TEST, then that of the order, unless the register has been written. -/
def State.updown (s : State) (x y : Nat) : Word :=
  match (s.router x y).updown with
  | some w => w
  | none => match s.helm.order with
    | some o => o.word x y
    | none => 0

/-! ### What firmware's routes go around (R145, R156, R157) -/

/-- A mesh link that MESH_TEST has set down, named from either end. -/
def State.failedLink (s : State) (x y p : Nat) : Bool :=
  s.helm.summary.down.contains (x, y, p) || (match beyond x y p with
    | some (u, v) => s.helm.summary.down.contains (u, v, opposite p)
    | none => false)

/-- Every router outside a field holds a LOST entry for it: at once when it leaves service by thermal shutdown, 1 ms after a trip. -/
def State.lostShown (s : State) (f : Nat) : Bool :=
  s.helm.lostFields.contains f && (match (s.field f).lostAt with
    | some t => decide (t + msec ≤ s.cycle)
    | none => true)

/-- ROUTE entries lead around a field: at once, or 5 ms after a trip. -/
def State.avoided (s : State) (f : Nat) : Bool :=
  s.helm.lostFields.contains f && (match (s.field f).lostAt with
    | some t => decide (t + 5 * msec ≤ s.cycle)
    | none => true)

/-- Firmware's routes take no link that has failed, and enter no dead router and no field that they go around. -/
def State.barred (s : State) (x y p : Nat) : Bool :=
  match beyond x y p with
  | some (u, v) => s.failedLink x y p || s.routerDead u v || s.avoided (fieldOf u v)
  | none => true

/-- There is something to go around, and an order to go around it by. -/
def State.around (s : State) : Bool :=
  s.helm.order.isSome && (s.helm.summary.down ≠ [] || s.helm.defects.any (fun d => d.2.2) || s.helm.lostFields.any s.avoided)

/-- A router, and whether a packet there has taken a down link. -/
abbrev Node := (Nat × Nat) × Bool

/-- The steps of an up-then-down path. -/
def State.exits (s : State) (o : UpOrder) (n : Node) : List (Nat × Node) :=
  (List.range 4).filterMap (fun p => match beyond n.1.1 n.1.2 p with
    | some u => if s.barred n.1.1 n.1.2 p || (n.2 && o.up n.1.1 n.1.2 p) then none else some (p, (u, n.2 || ! o.up n.1.1 n.1.2 p))
    | none => none)

/-- Length of the shortest up-then-down path from a front to a goal. -/
def State.pathLen (s : State) (o : UpOrder) (goal : Nat × Nat → Bool) : Nat → List Node → List Node → Nat → Option Nat
  | 0, _, _, _ => none
  | n + 1, seen, front, d =>
    if front.any (fun v => goal v.1) then some d
    else
      let next := (front.flatMap (fun v => (s.exits o v).map (·.2))).foldl (fun acc v =>
        if seen.contains v || acc.contains v then acc else acc ++ [v]) []
      if next = [] then none else s.pathLen o goal n (seen ++ next) next (d + 1)

/-- The first port of a shortest up-then-down path; among equals the lowest (DESIGN CHOICE, log 62). -/
def State.firstPort (s : State) (o : UpOrder) (goal : Nat × Nat → Bool) (n : Node) : Option Nat :=
  ((s.exits o n).foldl (fun (a : Option (Nat × Nat)) e => match s.pathLen o goal 663552 [e.2] [e.2] 0, a with
    | none, _ => a
    | some d, some b => if d < b.2 then some (e.1, d) else a
    | some d, none => some (e.1, d)) none).map (·.1)

/-- The entry that firmware makes for a destination: a shortest up-then-down path in each phase, or LOST. -/
def State.detourTo (s : State) (o : UpOrder) (goal : Nat × Nat → Bool) (x y : Nat) : Detour :=
  match s.firstPort o goal ((x, y), false), s.firstPort o goal ((x, y), true) with
  | none, _ => .lost
  | some p, some q => .route p q true
  | some p, none => .route p 0 false

/-- The XY way inside a field, in the detour set, would meet a down or a forbidden port. -/
def State.xyFails (s : State) (o : UpOrder) (dx dy : Nat) : Nat → Nat → Nat → Bool → Bool
  | 0, _, _, _ => true
  | n + 1, x, y, down =>
    if x = dx ∧ y = dy then false
    else
      let p := xyPort x y dx dy
      match beyond x y p with
      | some u => s.barred x y p || (down && o.up x y p) || s.xyFails o dx dy n u.1 u.2 (down || ! o.up x y p)
      | none => true

/-! ### Detour tables (R143, R158) -/

/-- What a word of RTR_DT_FIELD says. -/
def fieldEntry (w : Word) : Option Detour :=
  if fld w 31 30 = 1 then some (.route (fld w 29 28) (fld w 27 26) (bitB w 25))
  else if fld w 31 30 = 2 then some .lost else none

/-- A field entry: the word last written, or what firmware keeps there where the register was not written since the field was last
marked LOST (R145, R156, R157). In part DEDUCED, log 28. -/
def State.dtField (s : State) (x y f : Nat) : Option Detour :=
  match tget (s.router x y).dtField f, s.helm.order with
  | some w, _ => fieldEntry w
  | none, o =>
    if f = fieldOf x y then none
    else if s.lostShown f then some .lost
    else match o with
      | some o => if s.around then some (s.detourTo o (fun v => fieldOf v.1 v.2 = f) x y) else none
      | none => none

def siteMatch (w : Word) (x y : Nat) : Bool := bitB w 31 && fld w 24 15 = x && fld w 14 5 = y

/-- What a valid word of RTR_DT_SITE says. -/
def dtEntry (w : Word) : Detour :=
  match fld w 30 29 with
  | 0 => .route (fld w 28 27) (fld w 26 25) (bitB w 4)
  | 1 => .fenced
  | 2 => .lost
  | _ => .redirect

/-- Sites of a field, in ascending y and then x. -/
def fieldSites (f : Nat) : List (Nat × Nat) :=
  (List.range 48).flatMap (fun j => (List.range 48).map (fun i => (48 * (f % 12) + i, 48 * (f / 12) + j)))

/-- The destinations for which firmware adds a site entry, as many as places are free, in ascending y and then x; dead sites have
theirs beside them (R145, R146). In part DESIGN CHOICE, log 62. -/
def State.addedSites (s : State) (x y : Nat) : List (Nat × Nat) :=
  match s.helm.order with
  | none => []
  | some o =>
    let t := (s.router x y).dtSite
    if ! s.around then []
    else ((fieldSites (fieldOf x y)).filter (fun v => ! s.routerDead v.1 v.2 && ! t.any (fun e => siteMatch e.2 v.1 v.2) &&
      s.xyFails o v.1 v.2 96 x y false)).take (64 - (t.filter (fun e => bitB e.2 31)).length)

/-- The site entry for a destination; those of dead sites stand in the tables of their neighbours (R146). -/
def State.dtSite (s : State) (x y dx dy : Nat) : Option Detour :=
  match (s.router x y).dtSite.find? (fun e => siteMatch e.2 dx dy), s.helm.order with
  | some (_, w), _ => some (dtEntry w)
  | none, some o =>
    if s.around && decide (fieldOf dx dy = fieldOf x y) && (s.addedSites x y).contains (dx, dy) then
      some (s.detourTo o (fun v => v = (dx, dy)) x y)
    else none
  | none, none => none

/-! ### Routing of a header (R142-R144) -/

/-- What a router does with a packet's header. -/
inductive Way where
  | eject (p : Packet)
  | send (port : Nat) (p : Packet) (switched : Bool)
  | answer (p : Packet) (code : Code) (reason : Nat)
deriving DecidableEq, Repr

/-- R144 for a packet in the detour set whose next port is known. -/
def viaDetour (r : Router) (up : Word) (p : Packet) (pu pd : Nat) (dnOk switched : Bool) : Way :=
  let q := if p.down then pd else pu
  if r.down q || (p.down && (bitB up q || ! dnOk)) then .answer { p with detour := true } fabDetourLost 4
  else .send q { p with detour := true, down := p.down || ! bitB up q } switched

/-- The x of the paired P-site (R18). -/
def pairX (x : Nat) : Nat := if x % 48 / 6 % 2 = 0 then x + 6 else x - 6

/-- The entries for a packet's destination and for the pair of that, as the tables of router (x, y) stand now. In part DEDUCED, log 42. -/
def State.lookups (s : State) (x y : Nat) (p : Packet) : List (Option Detour × Option Detour) :=
  [p.dstX, pairX p.dstX].map (fun dx => (s.dtSite x y dx p.dstY, s.dtField x y (fieldOf dx p.dstY)))

/-- A packet whose header arrives at router (x, y) by an input port. -/
def State.flight (s : State) (x y port : Nat) (p : Packet) (ready : Nat) : Flight :=
  { pkt := p, port := port, ready := ready, tabs := s.lookups x y p }

/-- The header at router (x, y), by the entries found for it (R142-R144); a REDIRECT goes on with those of the pair. -/
def wayOf (s : State) (x y : Nat) : List (Option Detour × Option Detour) → Packet → Way
  | [], p => .answer p fabDetourLost 4
  | (site, field) :: tabs, p =>
    let r := s.router x y
    let up := s.updown x y
    let xy := xyPort x y p.dstX p.dstY
    let f := fieldOf p.dstX p.dstY
    if p.dstX = x ∧ p.dstY = y then .eject p
    else
      let inField := fun (p : Packet) (sw : Bool) => viaDetour r up p xy xy true sw
      let byField := fun (p : Packet) (sw : Bool) =>
        if f = fieldOf x y then inField p sw
        else match field with
          | some (.route pu pd ok) => viaDetour r up p pu pd ok sw
          | some .lost => .answer { p with detour := true } fabDetourLost 2
          | _ => .answer { p with detour := true } fabDetourLost 4
      match site with
      | some .fenced => .answer p fabFencedTarget 0
      | some .lost => .answer p fabDetourLost 2
      | some .redirect => wayOf s x y tabs { p with dstX := pairX p.dstX }
      | e =>
        if ! p.detour && f ≠ fieldOf x y && e = none && field = some .lost then .answer p fabDetourLost 2
        else if ! p.detour && ! r.down xy then .send xy p false
        else match e with
          | some (.route pu pd ok) => viaDetour r up p pu pd ok (! p.detour)
          | _ => byField p (! p.detour)

/-! ### Buffers (R139) -/

/-- Virtual channel: class, plus 4 in the detour set. -/
def Packet.vc (p : Packet) : Nat := p.cls + (if p.detour then 4 else 0)

/-- Flits of a packet. -/
def Packet.size (p : Packet) : Nat := 1 + p.payload.length

/-- The cycle in which the header of a held packet was here, and whether it still lies in its input buffer: until every branch has
accepted it or was dropped (R152). -/
def McHeld.headAt (h : McHeld) : Nat := h.since - h.pkt.payload.length
def McHeld.lies (h : McHeld) (port vc : Nat) : Bool := h.open_ ≠ [] && h.from_ = port && h.pkt.vc = vc

/-- Flits in the buffer of an input port for a virtual channel. -/
def Router.vcUse (r : Router) (port vc : Nat) : Nat :=
  (((r.bufs.filter (fun f => f.port = port && f.pkt.vc = vc)).map (fun f => f.pkt.size)).sum) +
    (((r.held.filter (fun h => h.lies port vc)).map (fun h => h.pkt.size)).sum)

/-- Room for a whole packet. -/
def Router.vcRoom (r : Router) (port : Nat) (p : Packet) : Bool := r.vcUse port p.vc + p.size ≤ 9

/-- The oldest packet of a buffer, once its header can leave; a multicast packet that came before it is still ahead of it (R187). -/
def Router.vcHead (r : Router) (port vc cycle : Nat) : Option (Flight × List Flight) :=
  match takeFirst (fun (f : Flight) => f.port = port && f.pkt.vc = vc) r.bufs with
  | some (f, rest) =>
    if f.ready ≤ cycle && ! r.held.any (fun h => h.lies port vc && decide (h.headAt < f.ready)) then some (f, rest) else none
  | none => none

/-- A held packet whose header is here and is at the head of its buffer (R141, R152, R187). -/
def Router.mcHead (r : Router) (h : McHeld) (cycle : Nat) : Bool :=
  decide (h.headAt ≤ cycle) &&
    ! r.bufs.any (fun f => f.port = h.from_ && f.pkt.vc = h.pkt.vc && decide (f.ready < h.headAt)) &&
    ! r.held.any (fun g => g.lies h.from_ h.pkt.vc && decide (g.headAt < h.headAt))

/-- Whether a packet is a request that gets an answer (R149). -/
def Packet.isReq (p : Packet) : Bool := p.cls ≠ clsRsp && ! p.mc

/-- R149: a request is answered from router (x, y), anything else is discarded and counted; RTR_DETOUR_LOST counts the discards of
R144 (`routed`: what the routing of the detour set discards) and the answers with REASON 2 (R159). In part DEDUCED, log 42. -/
def State.bounce (s : State) (x y : Nat) (p : Packet) (code : Code) (reason : Nat) (routed : Bool) : State :=
  let lost := decide (reason = 4) || (decide (reason = 2) && p.isReq) || (routed && ! p.isReq)
  let s1 := if lost then s.onRouter x y (fun r => r.count 2) else s
  if p.isReq then
    let s2 := if lost then s1 else s1.onRouter x y (fun r => r.count 0)
    s2.inject x y [p.fault s.myMod x y portL code reason]
  else s1.onRouter x y (fun r => r.count 8)

/-! ### Resolution (R138, R161-R168) -/

/-- Where an address leads, or that it is refused. -/
inductive Target where
  | to (x y port : Nat)
  | refused
deriving DecidableEq, Repr

/-- Where a request comes from (R172). -/
inductive Source where
  | cell
  | host (p : Nat)
  | helm
  | peer
deriving DecidableEq, Repr

def sourceOf (x y port : Nat) : Source :=
  if port = portN ∧ helmLanding x y then .helm
  else if port = portV ∧ (laneAt x y).isSome then .peer
  else match landingOf x y with
    | some (h, p) => if port = p then .host h else .cell
    | none => .cell

/-- The partition of a source: a host site's own, else FRS_PART of the field. -/
def partOf (f : Field) (src : Source) : Option Nat :=
  match src with
  | .helm => none
  | .host p => some p
  | _ => if bitB f.frsPart 31 then some (fld f.frsPart 1 0) else none

/-- A field lies in a rectangle register (R170). -/
def inRect (w : Word) (f : Nat) : Bool :=
  bitB w 31 && fld w 15 12 ≤ f % 12 && f % 12 ≤ fld w 7 4 && fld w 11 8 ≤ f / 12 && f / 12 ≤ fld w 3 0

/-- The partition that holds a field. -/
def State.partOfField (s : State) (f : Nat) : Option Nat := (List.range 4).find? (fun p => inRect (s.part p).rect f)

/-- An integrity counter, of the partition that holds the site as well. -/
def State.countAt (s : State) (x y id n : Nat) : State :=
  match s.partOfField (fieldOf x y) with
  | some p => s.countPart p id n
  | none => s.count id n

/-- What the registers of a site have counted since firmware last took it over, by identifier of R238. -/
def State.siteCounts (s : State) (i : Nat) : List (Nat × Nat) :=
  let c := s.cell (i % 576) (i / 576)
  let t := fun (k : Nat) => tgetD (s.router (i % 576) (i / 576)).total k 0
  [(2, c.pc.fixedSum), (5, t 4), (6, t 3 + t 5), (7, c.sg.winSum), (8, c.sg.skipSum)]

/-- Firmware takes over the counts of some sites (R238), before a field loses its registers or a rectangle changes. -/
def State.takeCounts (s : State) (here : Nat → Bool) : State :=
  let sites := (dedup (s.cells.map (·.1) ++ s.routers.map (·.1))).filter here
  let s1 := sites.foldl (fun t i => (s.siteCounts i).foldl (fun t v => if v.2 = 0 then t else t.countAt (i % 576) (i / 576) v.1 v.2) t) s
  { s1 with cells := tmap (fun i (c : Cell) => if here i then
              { c with pc := { c.pc with fixedSum := 0 }, sg := { c.sg with winSum := 0, skipSum := 0 } } else c) s1.cells,
            routers := tmap (fun i (r : Router) => if here i then { r with total := [] } else r) s1.routers }

/-- Bytes that a request names. -/
def Packet.bytes (p : Packet) : Nat := if p.op = opRd then 64 * (fld p.arg 1 0 + 1) else 32 * p.payload.length

/-- A landing router in use: it is not dead, its field is not Off, and MESH_TEST has not set its landing link down (R25, R26, R349). In part DEDUCED, log 38. -/
def State.landingLive (s : State) (x y q : Nat) : Bool :=
  ! s.routerDead x y && (s.field (fieldOf x y)).power ≠ .off && ! s.helm.summary.down.contains (x, y, q)

/-- Live landing routers of a host site; its landing is on port N, E, S or W by its number (R23). -/
def State.liveLandings (s : State) (h : Nat) : List (Nat × Nat) := (landings h).filter (fun v => s.landingLive v.1 v.2 h)

/-- Live helm landing routers. -/
def State.helmLandings (s : State) : List (Nat × Nat) :=
  ((List.range 8).map (fun k => (212 + k, 0))).filter (fun v => s.landingLive v.1 v.2 portN)

/-- The port numbers that lead to a module (R306, R307). -/
def portsTo (topo own m : Nat) : List Nat :=
  let d := Nat.xor own m
  if topo = 1 then List.range 6 else if topo = 2 then [2 * (d - 1), 2 * d - 1] else []

/-- Distance of a field row from the nearer row of port k. -/
def rowGap (fy k : Nat) : Nat := if fy ≤ 2 * k then 2 * k - fy else fy - (2 * k + 1)

/-- The port of R307: the closest, ties to the lower. -/
def bestPort (fy : Nat) : List Nat → Option Nat
  | [] => none
  | k :: t => match bestPort fy t with
    | none => some k
    | some j => if rowGap fy k ≤ rowGap fy j then some k else some j

/-- The link-lane G-site that a packet for module `m` takes from (x, y) (R307). -/
def laneFor (topo own m x y : Nat) : Option (Nat × Nat) :=
  let fy := y / 48
  (bestPort fy (portsTo topo own m)).map (fun k =>
    laneSite ((if fy ≤ 2 * k then 2 * k else 2 * k + 1) * 12 + x / 48) (x % 48 / 24 + 2 * (y % 48 / 24)))

/-- Whether the OP is allowed in the space (R172). -/
def opAllowed (space unit op : Nat) : Bool :=
  if space = 2 then 0x08 ≤ op && op ≤ 0x0C
  else if space = 4 then op = opMwr || (op = opMrd && unit ≠ 3)
  else op = opRd || op = opWr

/-- A reserved field of an address is nonzero (R162-R168). -/
def addrResv (a : Dword) : Bool :=
  match fld a 61 58 with
  | 0 => fld a 37 19 ≠ 0
  | 1 => fld a 57 48 ≠ 0 || fld a 39 33 ≠ 0
  | 2 => fld a 57 16 ≠ 0
  | 3 => fld a 57 48 ≠ 0
  | _ => fld a 35 16 ≠ 0 || (match fld a 37 36 with
      | 0 => false
      | 3 => fld a 57 38 ≠ 0
      | _ => fld a 57 48 ≠ 0 || fld a 39 38 ≠ 0)

/-- The M-cell and word of a sync index in a home (R165). -/
def syncSite (f row i : Nat) : Nat × Nat × Nat :=
  let j := i % 64
  let m := j / 2 % 4
  (48 * (f % 12) + 6 * (j / 8) + (if m % 2 = 0 then 1 else 4), 48 * (f / 12) + 6 * row + (if m / 2 = 0 then 1 else 4), j % 2)

/-- The checks of R172 by space; a request of the helm passes them, and is refused only where its address names no place. In part DESIGN CHOICE, log 17; DEDUCED, log 42. -/
def resolveHere (s : State) (src : Source) (frs : Field) (p : Packet) : Target :=
  let a := p.dest
  let part := partOf frs src
  let rectOk := fun f => src = .helm || (match part with
    | some q => inRect (tgetD frs.frsRect q 0) f
    | none => false)
  match fld a 61 58 with
  | 0 =>
    let x := fld a 57 48
    let y := fld a 47 38
    if ! siteOk x y then .refused
    else if ! rectOk (fieldOf x y) || (src ≠ .helm && decide (storeSize (clsOf x y) < fld a 18 0 + p.bytes)) then .refused
    else .to x y portL
  | 1 =>
    let f := fld a 47 40
    let o := fld a 32 0
    if 144 ≤ f || ! rectOk f ||
        (src ≠ .helm && (decide (o / 4096 ≠ (o + p.bytes - 1) / 4096) || bitB (tgetD frs.frsOut (f / 32) 0) (f % 32))) then .refused
    else .to (pSite f (chanOff o).1).1 (pSite f (chanOff o).1).2 portV
  | 2 =>
    let w := tgetD frs.frsSync (fld a 15 0 / 64) 0
    if src ≠ .helm && (! bitB w 31 || part ≠ some (fld w 25 24)) then .refused
    else
      let v := syncSite (fld w 23 16) (fld w 2 0) (fld a 15 0)
      .to v.1 v.2.1 portL
  | 3 =>
    match part with
    | none => .refused
    | some q =>
      match (s.liveLandings q)[fld a 15 8 % (s.liveLandings q).length]? with
      | some v => .to v.1 v.2 q
      | none => .refused
  | _ =>
    let x := fld a 57 48
    let y := fld a 47 38
    let o := fld a 15 0
    let f := fld a 47 40
    match fld a 37 36 with
    | 0 => if src ≠ .helm || ! siteOk x y then .refused
           else .to x y (if 0x2000 ≤ o ∧ o < 0x3000 then portR else portL)
    | 1 => if src ≠ .helm || 144 ≤ f then .refused else .to (pSite f 0).1 (pSite f 0).2 portV
    | 2 => if src ≠ .helm || 144 ≤ f then .refused else .to (48 * (f % 12) + 3) (48 * (f / 12) + 3) portR
    | _ =>
      if src ≠ .helm && decide (0x100 ≤ o) then .refused
      else match s.helmLandings[o / 256 % s.helmLandings.length]? with
        | some v => .to v.1 v.2 portN
        | none => .refused

/-- Resolution of a request at the router where it is injected, with the checks of R172 and R308. -/
def resolve (s : State) (x y port : Nat) (p : Packet) : Target :=
  let a := p.dest
  let src := sourceOf x y port
  let frs := s.field (fieldOf x y)
  let m := fld a 63 62
  let toHelm := fld a 61 58 = 4 ∧ fld a 37 36 = 3 ∧ p.op = opMwr
  if 5 ≤ fld a 61 58 || ! opAllowed (fld a 61 58) (fld a 37 36) p.op || ((p.op = opRd || p.op = opWr) && fld a 5 0 ≠ 0) then .refused
  else if src = .cell ∧ ! bitB frs.frsPart 31 ∧ ! toHelm then .refused
  else if src = .peer ∧ (! bitB frs.frsPart 31 ∨ fld a 61 58 = 4) then .refused
  else if m ≠ s.myMod then
    if bitB frs.frsModules m then
      match laneFor s.helm.pins.topo s.myMod m x y with
      | some v => .to v.1 v.2 portV
      | none => .refused
    else .refused
  else if addrResv a then .refused
  else resolveHere s src frs p

/-- Where an injected packet goes: a response keeps its destination, or takes the lane to its module. -/
def destOf (s : State) (x y port : Nat) (p : Packet) : Target :=
  if p.cls ≠ clsRsp then resolve s x y port p
  else if fld p.dest 63 62 = s.myMod then .to (fld p.dest 57 48) (fld p.dest 47 38) (fld p.dest 2 0)
  else match laneFor s.helm.pins.topo s.myMod (fld p.dest 63 62) x y with
    | some v => .to v.1 v.2 portV
    | none => .refused

end Sys2Proof.Machine
end

