-- ==== Sys2Proof/Machine/Streams.lean ====
section
/-!
DEFINITION. Static streams (R32-R35, R133-R135, R147, R148): items over lanes, credits, reduction joins, extension rings; which
traffic a link's cycle goes to (R133).
-/
namespace Sys2Proof.Machine

/-! ### Lanes (R134, R158): lane number 4 x port + lane, ports N, E, S, W, L = 0-4 -/

def lmValid (w : Word) : Bool := bitB w 31
def lmJoin (w : Word) : Bool := bitB w 30
def lmOut (w : Word) : Nat := 4 * fld w 29 27 + fld w 26 25

def Router.lmap (r : Router) (l : Nat) : Word := tgetD r.laneMap l 0
def Router.lane (r : Router) (l : Nat) : List Flit := tgetD r.lanes l []
def Router.setLane (r : Router) (l : Nat) (v : List Flit) : Router := { r with lanes := if v = [] then tdel r.lanes l else tset r.lanes l v }

/-- The flit at the head of an input lane, once it is here. -/
def Router.laneHead (r : Router) (l cycle : Nat) : Option Flit :=
  match r.lane l with
  | f :: _ => if f.ready ≤ cycle then some f else none
  | [] => none

def Router.dropHead (r : Router) (l : Nat) : Router := r.setLane l ((r.lane l).drop 1)

/-- The input lanes that feed an output lane. -/
def Router.feeds (r : Router) (o : Nat) : List Nat := (List.range 20).filter (fun l => lmValid (r.lmap l) && lmOut (r.lmap l) = o)

/-- The inbound queue of a cell bound to a lane; the outbound one. -/
def inQueue (c : Cell) (lane : Nat) : Option Nat := (List.range 8).find? (fun q => qDir c q = 1 && qLane c q = lane)
def outQueue (c : Cell) (lane : Nat) : Option Nat := (List.range 8).find? (fun q => qDir c q = 2 && qLane c q = lane)

/-- The microcode registers are in place: from CLOCKS until READY, and during a wake (R352). -/
def State.mcActive (s : State) (x y : Nat) : Bool := s.helm.mcPhase || (s.field (fieldOf x y)).waking.isSome

/-- A collector takes microcode reports on lane 3 of a G-cell's L port (R350, R353). -/
def State.collects (s : State) (x y lane : Nat) : Bool := lane = 3 && clsOf x y = .g && s.mcActive x y

/-- Item number `collected` of a report sum goes to the staging store from offset 0 (R353). -/
def Cell.collect (c : Cell) (it : Item) (bad : Bool) : Cell :=
  let a := 32 * c.gc.collected
  let m := c.data.write (cellsAt a (itemBytes it))
  { c with data := if bad then { m with bad := wordsOf (span a 32) ++ m.bad } else m,
           gc := { c.gc with collected := (c.gc.collected + 1) % 101 } }

/-- A place for one flit beyond output lane `o`: the next router's lane buffer of 4 (R135), or the inbound queue (R32). -/
def State.laneRoom (s : State) (x y o : Nat) : Bool :=
  let p := o / 4
  if p = 4 then
    let c := s.cell x y
    match inQueue c (o % 4) with
    | some q => ! c.gated && (c.queue q).occ < qCap c q && (c.queue q).lastPut ≠ some c.pulse
    | none => s.collects x y (o % 4)
  else match beyond x y p with
    | some (u, v) => s.routerUp u v && ((s.router u v).lane (4 * opposite p + o % 4)).length < 4
    | none => false

/-- A packet can go from router (x, y) into the buffer beyond port `p` in this cycle. -/
def State.hopRoom (s : State) (x y p : Nat) (k : Packet) : Bool :=
  match beyond x y p with
  | some (u, v) => s.routerUp u v && (s.router u v).vcRoom (opposite p) k
  | none => false

/-- The link by which a packet leaves at its destination port: 12 + port beside the output links that static lanes share. In part DEDUCED, log 42. -/
def ejectLink (q : Nat) : Nat := if q = portL then portL else 12 + q

/-- The input channel of port `port` and virtual channel `vc` has a packet for an output link in this cycle: the head of its buffer, or a
multicast packet with a branch there (R133, R152). A packet for a peer lane goes onto the lane's queue and claims no link. In part
DESIGN CHOICE, log 19. -/
def State.dynWants (s : State) (x y link key : Nat) : Bool :=
  let r := s.router x y
  let port := key / 8
  let vc := key % 8
  (match r.vcHead port vc s.cycle with
    | some (f, _) => (match wayOf s x y f.tabs f.pkt with
      | .send q k _ => q = link && s.hopRoom x y q k
      | .eject g => ejectLink g.dstPort = link && f.ready + 2 + g.payload.length ≤ s.cycle &&
          ! (g.dstPort = portL && (s.cell x y).gated) && ! (g.dstPort = portV && (laneAt x y).isSome)
      | .answer _ _ _ => false)
    | none => false) ||
  r.held.any (fun h => h.lies port vc && h.open_.contains link && r.mcHead h s.cycle &&
    (if link = portL then ! (s.cell x y).gated && decide (h.since + 2 ≤ s.cycle) else ! r.down link && s.hopRoom x y link h.pkt))

/-- It is this input channel's turn among those that have a packet for the link (R133). In part DESIGN CHOICE, log 19. -/
def State.dynTurn (s : State) (x y link key : Nat) : Bool :=
  nextTurn (tgetD (s.router x y).rrVc link 47) 48 (s.dynWants x y link) = some key

/-- Whether dynamic traffic could use an output port in this cycle: the rest of a packet, or some input channel (R133). In part DESIGN
CHOICE, log 19. -/
def State.dynClaim (s : State) (x y p : Nat) : Bool := 0 < (s.router x y).tailOf p || (List.range 48).any (s.dynWants x y p)

/-- Whether a static flit could use output lane `o` in this cycle, were the link free. -/
def State.laneOpen (s : State) (x y o : Nat) : Bool :=
  let r := s.router x y
  ! bitB r.laneFault o && (o / 4 = 4 || ! r.down (o / 4)) && s.laneRoom x y o

/-- The oldest complete sum of a join, once it can leave. -/
def Join.head (j : Join) (cycle : Nat) : Option JoinOut :=
  match j.outs with
  | v :: _ => if v.due ≤ cycle then some v else none
  | [] => none

/-- Output lane `o` has a flit that could use its link in this cycle: the head of the lane that feeds it, or a sum of its join. -/
def State.laneWants (s : State) (x y o : Nat) : Bool :=
  let r := s.router x y
  s.laneOpen x y o &&
    ((List.range 20).any (fun l => (r.laneHead l s.cycle).isSome && lmValid (r.lmap l) && ! lmJoin (r.lmap l) && lmOut (r.lmap l) = o) ||
      (match tget r.joins o with
        | some j => (j.head s.cycle).isSome
        | none => false))

/-- Whether a static flit could use an output port in this cycle. In part DESIGN CHOICE, log 19; DEDUCED, log 42. -/
def State.statClaim (s : State) (x y p : Nat) : Bool := (List.range 4).any (fun k => s.laneWants x y (4 * p + k))

/-- Output lane `o` takes a flit in this cycle: the lane is not faulted, the port not down, the link's cycle is free and falls to
static lanes, it is this lane's turn, and there is a place beyond (R133, R135, R148). In part DESIGN CHOICE, log 9; DESIGN CHOICE, log 19. -/
def State.laneGo (s : State) (x y o : Nat) : Bool :=
  let r := s.router x y
  let p := o / 4
  s.routerUp x y && s.laneOpen x y o && r.linkFree p s.cycle && (! r.dynFirst p s.cycle || ! s.dynClaim x y p) &&
    decide (nextTurn (tgetD r.rrLane p 3) 4 (fun k => s.laneWants x y (4 * p + k)) = some (o % 4))

/-- A flit leaves by output lane `o`: one cycle to the next router, two more over a field boundary (R33, R141). -/
def State.laneSend (s : State) (x y o : Nat) (it : Item) (bad : Bool) : State :=
  let p := o / 4
  let s1 := s.onRouter x y (fun r => r.useStat o s.cycle)
  if p = 4 then
    s1.onCell x y (fun c => match inQueue c (o % 4) with
      | some q => c.enq (clsOf x y) q it bad
      | none => c.collect it bad)
  else match beyond x y p with
    | some (u, v) =>
      let l := 4 * opposite p + o % 4
      s1.onRouter u v (fun r => r.setLane l (r.lane l ++ [{ data := it, bad := bad, ready := s.cycle + 1 + crossing x y p }]))
    | none => s1

/-! ### The path of a stream -/

/-- Where a stream that enters router (x, y) by lane `l` ends: site, queue and distance (R33). -/
def pathEnd (s : State) : Nat → Nat → Nat → Nat → Nat → Option (Nat × Nat × Nat × Nat)
  | 0, _, _, _, _ => none
  | n + 1, x, y, l, d =>
    let w := (s.router x y).lmap l
    if ! lmValid w then none
    else
      let o := lmOut w
      if o / 4 = 4 then (inQueue (s.cell x y) (o % 4)).map (fun q => (x, y, q, d))
      else match beyond x y (o / 4) with
        | some (u, v) => pathEnd s n u v (4 * opposite (o / 4) + o % 4) (d + 1 + crossing x y (o / 4))
        | none => none

/-- The sources that feed input lane `l` of router (x, y): site number and queue. -/
def laneSources (s : State) : Nat → Nat → Nat → Nat → List (Nat × Nat)
  | 0, _, _, _ => []
  | n + 1, x, y, l =>
    if l / 4 = 4 then (outQueue (s.cell x y) (l % 4)).toList.map (fun q => (siteIx x y, q))
    else match beyond x y (l / 4) with
      | some (u, v) => ((s.router u v).feeds (4 * opposite (l / 4) + l % 4)).flatMap (fun k => laneSources s n u v k)
      | none => []

/-- A bound on the length of any path: every input lane of every router once. -/
def pathMax : Nat := 6635520

/-- The end of the stream that outbound queue `q` feeds. -/
def streamEnd (s : State) (x y q : Nat) : Option (Nat × Nat × Nat × Nat) := pathEnd s pathMax x y (16 + qLane (s.cell x y) q) 0

/-- The sources of the stream that fills inbound queue `q`. -/
def streamSources (s : State) (x y q : Nat) : List (Nat × Nat) :=
  ((s.router x y).feeds (16 + qLane (s.cell x y) q)).flatMap (fun l => laneSources s pathMax x y l)

/-- Link-up of the streams that leave a cell: one credit for each unit of capacity of the receiving queue (R33, R147). -/
def State.linkUp (s : State) (x y : Nat) : State :=
  let c := s.cell x y
  s.setCell x y ((List.range 8).foldl (fun (v : Cell) q =>
    if qDir c q = 2 then
      match streamEnd s x y q with
      | some (u, w, k, _) => v.setQueue q { v.queue q with credits := qCap (s.cell u w) k }
      | none => v
    else v) c)

/-! ### Commands -/

/-- STREAM_ITEM_SEND: an outbound queue of a cell that is not frozen sends its head item when it holds a credit (R33, R57). An
uncorrectable entry freezes the cell and is not sent (R31). -/
def execStreamItemSend (x y q : Nat) (s : State) : Res :=
  if ! siteOk x y then .fault .noSuchSite
  else if 8 ≤ q then .fault .noSuchPart
  else
    let c := s.cell x y
    let v := c.queue q
    let r := s.router x y
    let l := 16 + qLane c q
    match v.head c.pulse with
    | none => .next s
    | some it =>
      if s.bodyOut x y || ! s.routerUp x y || qDir c q ≠ 2 || c.state = .frozen || v.credits = 0 || 4 ≤ (r.lane l).length ||
          ! r.linkFree 5 s.cycle then .next s
      else if it.bad then .next (s.freezeCell x y memUncorrectable 0xFF 0 0)
      else
        .next ((s.setCell x y (c.setQueue q { v with hw := v.hw.drop 1, lastPop := some c.pulse, credits := v.credits - 1 })).onRouter
          x y (fun r => (r.useLink 5 s.cycle 0).setLane l (r.lane l ++ [{ data := it.data, bad := false, ready := s.cycle }])))

/-- A flit as the SECDED checks of the link and buffers it has crossed leave it (R140, R213): a correction is counted. -/
def State.flitEcc (s : State) (x y : Nat) (ecc : Ecc) : State :=
  if ecc = .corrected then s.onRouter x y (fun r => r.count 4) else s

/-- A flit moves from input lane `l` to its output lane, when the lane is no input of a join and `ok` accepts the output. -/
def State.laneMove (s : State) (x y l : Nat) (ecc : Ecc) (ok : Nat → Bool) : Res :=
  if ! siteOk x y then .fault .noSuchSite
  else if 20 ≤ l then .fault .noSuchPart
  else
    let r := s.router x y
    let w := r.lmap l
    match r.laneHead l s.cycle with
    | none => .next s
    | some f =>
      if lmValid w && ! lmJoin w && ok (lmOut w) && s.laneGo x y (lmOut w) then
        .next (((s.onRouter x y (fun r => r.dropHead l)).flitEcc x y ecc).laneSend x y (lmOut w) f.data (f.bad || ecc = .uncorrectable))
      else .next s

/-- STREAM_ITEM_ARRIVE: the flit of a lane that leads to the L port enters the inbound queue (R33). -/
def execStreamItemArrive (x y l : Nat) (ecc : Ecc) (s : State) : Res := s.laneMove x y l ecc (fun o => o / 4 = 4)

/-- STATIC_FLIT_HOP: a flit crosses a link into the next router's lane buffer (R135). -/
def execStaticFlitHop (x y l : Nat) (ecc : Ecc) (s : State) : Res := s.laneMove x y l ecc (fun o => o / 4 < 4)

/-- CREDIT_RETURN: the credit of a pop in cycle p reaches outbound queue `q` in cycle p + d + 1 (R33); a pop from a joined stream
returns one credit to every source (R147). -/
def execCreditReturn (x y q : Nat) (s : State) : Res :=
  if ! siteOk x y then .fault .noSuchSite
  else if 8 ≤ q then .fault .noSuchPart
  else if qDir (s.cell x y) q ≠ 2 then .next s
  else
    match streamEnd s x y q with
    | none => .next s
    | some (u, w, k, d) =>
      let me := (siteIx x y, q)
      let dst := (s.cell u w).queue k
      match dst.owed.find? (fun p => ! p.2.contains me) with
      | none => .next s
      | some p =>
        if s.cycle < p.1 + d + 1 then .next s
        else
          let all := streamSources s u w k
          let seen := me :: p.2
          let rest := if all.all (fun v => seen.contains v) then dst.owed.erase p
            else dst.owed.map (fun o => if o = p then (p.1, seen) else o)
          .next ((s.onCell u w (fun c => c.setQueue k { dst with owed := rest })).onCell x y (fun c =>
            c.setQueue q { c.queue q with credits := (c.queue q).credits + 1 }))

/-- QEXT_GRANULE_MOVE: one granule, up to two items move from the ring into free hardware entries; the ring's new oldest item can be popped
4 pulses from now at the earliest (R34). -/
def Queue.moved (v : Queue) : Nat := min 2 (min v.ring.length (16 - v.hw.length))

def granuleMove (v : Queue) (pulse : Nat) : Queue :=
  let k := min 2 (16 - v.hw.length)
  let late := fun (i : QItem) => { i with since := max i.since (pulse + 4) }
  let fresh := match v.ring.take k with
    | a :: t => a :: t.map late
    | [] => []
  let rest := match v.ring.drop k with
    | a :: t => late a :: t
    | [] => []
  if k = 0 then v else { v with hw := v.hw ++ fresh, ring := rest, ringOut := v.ringOut + v.moved, lastMove := some pulse }

def execQextGranuleMove (x y q : Nat) (s : State) : Res :=
  if ! siteOk x y then .fault .noSuchSite
  else if 8 ≤ q then .fault .noSuchPart
  else
    let c := s.cell x y
    let v := c.queue q
    let b := bankAt (clsOf x y) (ringAddr c q v.ringOut)
    if v.moved = 0 || v.lastMove = some c.pulse || c.bankUse.contains b then .next s
    else .next (s.setCell x y { c.setQueue q (granuleMove v c.pulse) with bankUse := b :: c.bankUse })


/-! ### Reduction joins (R147, R148) -/

/-- Input lanes of a join whose item is in the partial sum. -/
def Router.joined (r : Router) (o : Nat) : List Nat :=
  match tget r.joins o with
  | some j => j.got
  | none => []

/-- Input lane `l` is the next to be added at a join: no other input that is still to be added has an item that came before, or
with it at a port of lower number. -/
def joinTurn (r : Router) (o l cycle : Nat) (f : Flit) : Bool :=
  ((r.feeds o).filter (fun k => k ≠ l && ! (r.joined o).contains k)).all (fun k => match r.laneHead k cycle with
    | some g => f.ready < g.ready || (f.ready = g.ready && l < k)
    | none => true)

/-- The join after an item: the first is held, later ones are added lane by lane (R70); a complete sum can leave 2 cycles after the
last addition. -/
def joinAdd (r : Router) (o l cycle : Nat) (it : Item) (bad : Bool) : Join :=
  let j : Join := (tget r.joins o).getD { got := [], sum := 0, bad := false, outs := [] }
  let n : Join := if j.got = [] then { j with got := [l], sum := it, bad := bad }
    else { j with got := j.got ++ [l], sum := addItem j.sum it, bad := j.bad || bad }
  if (r.feeds o).all (fun k => n.got.contains k) then
    { n with got := [], outs := n.outs ++ [{ sum := n.sum, bad := n.bad, due := cycle + 2 }] }
  else n

/-- A join takes a further item: its input is not in the partial sum yet, and fewer than three complete sums wait (R147). In part DESIGN
CHOICE, log 20. -/
def Router.joinOpen (r : Router) (o l : Nat) : Bool :=
  match tget r.joins o with
  | some j => ! j.got.contains l && decide (j.outs.length < 3)
  | none => true

/-- JOIN_ITEM_ARRIVE: the item at the head of input lane `l` is added. When the two adders differ the sum is not forwarded: the
output lane is faulted, counted and reported (R148). -/
def execJoinItemArrive (x y l : Nat) (differ : Bool) (ecc : Ecc) (s : State) : Res :=
  if ! siteOk x y then .fault .noSuchSite
  else if 20 ≤ l then .fault .noSuchPart
  else
    let r := s.router x y
    let o := lmOut (r.lmap l)
    match r.laneHead l s.cycle with
    | none => .next s
    | some f =>
      if ! s.routerUp x y || ! lmValid (r.lmap l) || ! lmJoin (r.lmap l) || bitB r.laneFault o || ! r.joinOpen o l ||
          ! joinTurn r o l s.cycle f then .next s
      else
        let s1 := s.flitEcc x y ecc
        if differ ∧ r.joined o ≠ [] then
          .next ((s1.onRouter x y (fun r => ({ (r.dropHead l) with
            joins := tdel r.joins o, laneFault := setBit r.laneFault o true } : Router).count 7)).routerReport x y reduceMismatch o 0)
        else .next (s1.onRouter x y (fun r => { (r.dropHead l) with
          joins := tset r.joins o (joinAdd r o l s.cycle f.data (f.bad || ecc = .uncorrectable)) }))

/-- The join at an output lane after its oldest sum has left. -/
def Router.joinSent (r : Router) (o : Nat) (j : Join) : Router :=
  let n : Join := { j with outs := j.outs.drop 1 }
  { r with joins := if n.got = [] ∧ n.outs = [] then tdel r.joins o else tset r.joins o n }

/-- JOIN_OUTPUT: a complete sum leaves by output lane `o`. -/
def execJoinOutput (x y o : Nat) (s : State) : Res :=
  if ! siteOk x y then .fault .noSuchSite
  else if 20 ≤ o then .fault .noSuchPart
  else
    match tget (s.router x y).joins o with
    | none => .next s
    | some j =>
      match j.head s.cycle with
      | none => .next s
      | some v =>
        if s.laneGo x y o then .next ((s.onRouter x y (fun r => r.joinSent o j)).laneSend x y o v.sum v.bad) else .next s

/-! ### Lane maps and flushes (R148, R154, R158) -/

/-- FLUSH_STATIC: every flit in the static lane buffers is discarded. -/
def Router.flushStatic (r : Router) : Router := { r with lanes := [] }

/-- Bits that a lane-map entry holds. -/
def lmBits (v : Word) : Word := v &&& 0xFE000000#32

/-- A lane-map entry is written: the fault of the output lane it named and of the one it names is cleared, and a join's partial
sum there is gone (DESIGN CHOICE, log 20). -/
def Router.writeLaneMap (r : Router) (l : Nat) (v : Word) : Router :=
  let os := [lmOut (r.lmap l), lmOut (lmBits v)]
  { r with laneMap := tset r.laneMap l (lmBits v), joins := os.foldl tdel r.joins,
           laneFault := os.foldl (fun f o => setBit f o false) r.laneFault }

/-- A command on a router. -/
def State.onLive (s : State) (x y : Nat) (f : Router → Router) : Res :=
  if ! siteOk x y then .fault .noSuchSite else .next (s.onRouter x y f)

def execFlushStatic (x y : Nat) (s : State) : Res := s.onLive x y Router.flushStatic

/-- RTR_CTRL.CLR_CNT (R159). -/
def execRtrClrCnt (x y : Nat) (s : State) : Res := s.onLive x y (fun r => { r with cnt := [] })

/-- In part DESIGN CHOICE, log 20. -/
def execLaneMapWrite (x y l : Nat) (v : Word) (s : State) : Res :=
  if 20 ≤ l then .fault .noSuchPart else s.onLive x y (fun r => r.writeLaneMap l v)

end Sys2Proof.Machine
end

