-- ==== Sys2Proof/Machine/PowerOps.lean ====
section
/-!
DEFINITION. A field's power actions and gates (R318, R324, R327, R332, R336, R338) as operations that the registers, the rows of
their own and the sequences of power management share. Each PWR_CMD action is one step (DESIGN CHOICE, log 21).
-/
namespace Sys2Proof.Machine

/-! ### Quiescence (R324) -/

/-- A packet or flit for the cell waits at its router's L port. -/
def State.lWaits (s : State) (x y : Nat) : Bool :=
  let r := s.router x y
  r.arrived.any (fun v => v.1 = portL) || r.held.any (fun h => h.open_.contains portL) || r.bufs.any (fun f => f.pkt.dstX = x && f.pkt.dstY = y && f.pkt.dstPort = portL) ||
    (List.range 20).any (fun l => r.lane l ≠ [] && lmValid (r.lmap l) && lmOut (r.lmap l) / 4 = 4)

/-- The cell's own part of quiescence. -/
def Cell.still (c : Cell) : Bool :=
  c.state = .idle && c.queues.all (fun q => q.2.occ = 0) && c.ops = [] && c.reqs = [] && c.dmas = [] && ! c.applyPending

def State.quiescent (s : State) (x y : Nat) : Bool := (s.cell x y).still && ! s.lWaits x y

/-- Site numbers of listed cells and routers of a field; others are at rest. -/
def State.busySites (s : State) (f : Nat) : List Nat :=
  (dedup (s.cells.map (·.1) ++ s.routers.map (·.1))).filter (fun i => fieldOf (i % 576) (i / 576) = f)

/-- Every cell of a field, or of its block `b`, is quiescent. -/
def State.fieldQuiet (s : State) (f : Nat) (ok : Nat → Bool) : Bool :=
  (s.busySites f).all (fun i => ! ok (chanOf (i % 576) (i / 576)) || s.quiescent (i % 576) (i / 576))

/-- A close is refused (R324). -/
def Field.refuse (q : Field) : Field := { q with refused := true, gateRefused := satInc q.gateRefused }

/-- A close of block gate `b`, or its opening. -/
def State.gateBlock (s : State) (f b : Nat) (close : Bool) : State :=
  if ! close then s.onField f (fun q => { q with gates := setBit q.gates b false })
  else if bitB (s.field f).gates b then s
  else if s.fieldQuiet f (fun c => c = b) then s.onField f (fun q => { q with gates := setBit q.gates b true })
  else s.onField f Field.refuse

/-- A write of PWR_GATE_LO or PWR_GATE_HI: every bit asks for its block's gate to be closed or opened (R338). -/
def State.writeGates (s : State) (f : Nat) (hi : Bool) (v : Word) : State :=
  (List.range 32).foldl (fun s b => s.gateBlock f (b + if hi then 32 else 0) (bitB v b)) s

/-! ### PWR_CMD actions -/

/-- UNGATE: the field gate and the block gates open; the field is Underway and its idle time restarts (R327, R330). It is never Underway
unless it is LOCKED (R316). -/
def Field.ungate (q : Field) (cycle : Nat) : Field :=
  if q.power = .lull ∧ q.locked = true then
    { q with power := .underway, fieldGate := false, gates := 0, idleSince := some cycle, lullTry := none }
  else q

/-- LULL: every block gate and then the field gate close, or those the base die closed open again (R327). In part DEDUCED, log 46. -/
def State.toLull (s : State) (f : Nat) : State :=
  let q := s.field f
  if q.power ≠ .underway then s
  else if s.fieldQuiet f (fun _ => true) then
    s.onField f (fun q => { q with power := .lull, fieldGate := true, gates := BitVec.ofNat 64 (2 ^ 64 - 1), lullTry := none })
  else s.onField f (fun q => { q.refuse with lullTry := some s.cycle })

/-- Cells and routers of a field leave the state: all wafer-side state of the field is lost (R325, R328). -/
def dropField {α : Type} (t : Tbl α) (f : Nat) : Tbl α := t.filter (fun v => fieldOf (v.1 % 576) (v.1 / 576) ≠ f)

/-- What a field keeps when its core rails drop: the base die's registers, tower and settings; its resolution store lies on the
wafer. -/
def Field.dark (q : Field) (next : PowerState) (draw : Nat) : Field :=
  { q with rails := false, power := next, locked := false, lockSince := none, frsPart := 0, frsRect := [], frsOut := [], frsModules := 0,
           frsSync := [], gates := 0, fieldGate := false, mcBase := [], lostGen := draw, idleSince := none, lullTry := none }

/-- The core rails of a field drop and its wafer side is lost. -/
def State.darken (s : State) (f : Nat) (next : PowerState) : State :=
  let s0 := s.takeCounts (fun i => fieldOf (i % 576) (i / 576) = f)
  let s1 := { s0 with cells := dropField s0.cells f, routers := dropField s0.routers f }
  (s1.onField f (fun q => q.dark next s.fresh)).draw

/-- A POWER_STATE record: the state entered (R338, R368). -/
def powerRec (f code : Nat) : LogRec := { recOf 0x42 .firmware with field := f, detail := leBytes 1 code }

/-- RAILS_OFF: the field enters Doldrums, or Off when it is being shut down; the end of an entry into Doldrums is recorded. In part DEDUCED, log 46. -/
def State.railsDown (s : State) (f : Nat) : State :=
  let q := s.field f
  if ! q.rails then s
  else
    let s1 := s.darken f (if q.shutting then .off else .doldrums)
    if q.entry.isSome then (s1.onField f (fun q => { q with entry := none })).fwLog (powerRec f 2) else s1

/-- Routers outside a field that join it, with the port that faces it. -/
def facing (f : Nat) : List (Nat × Nat × Nat) :=
  let x0 := 48 * (f % 12)
  let y0 := 48 * (f / 12)
  let north := if y0 = 0 then [] else (List.range 48).map (fun k => (x0 + k, y0 - 1, portS))
  let south := if y0 = 528 then [] else (List.range 48).map (fun k => (x0 + k, y0 + 48, portN))
  let west := if x0 = 0 then [] else (List.range 48).map (fun k => (x0 - 1, y0 + k, portE))
  let east := if x0 = 528 then [] else (List.range 48).map (fun k => (x0 + 48, y0 + k, portW))
  north ++ south ++ west ++ east

/-- RAILS_ON: the core rails of a field that is not latched off ramp up; the links to its neighbours are alive again. In part DEDUCED, log 42; DEDUCED, log 46. -/
def State.railsUp (s : State) (f : Nat) : State :=
  let q := s.field f
  if q.rails || q.tripped || decide (q.power = .off) then s
  else
    let s1 := (facing f).foldl (fun s v => if bitB (s.router v.1 v.2.1).linkDown (portBit v.2.2) then
        s.onRouter v.1 v.2.1 (fun r => { r with linkDown := setBit r.linkDown (portBit v.2.2) false }) else s) s
    s1.onField f (fun q => { q with rails := true, litAt := s.cycle, lockSince := if q.oscEn then some s.cycle else none })

/-- The power stage latches off: the field is Off, its tower in self-refresh (R325, R336). -/
def State.tripStage (s : State) (f : Nat) : State :=
  let s1 := s.darken f .off
  s1.onField f (fun q => { q with tripped := true, sr := true, entry := none, waking := none, shutting := false, coolAt := none, past := none })

/-- SR_ENTER and SR_EXIT (R20, R338). -/
def Field.selfRefresh (q : Field) (on : Bool) : Field := if q.power = .off ∧ ! on then q else { q with sr := on }

/-- A write of PWR_CMD (R338). In part DESIGN CHOICE, log 21. -/
def State.pwrCmd (s : State) (f : Nat) (v : Word) : State :=
  match fld v 2 0 with
  | 1 => s.onField f (fun q => q.ungate s.cycle)
  | 2 => s.toLull f
  | 3 => s.railsDown f
  | 4 => s.railsUp f
  | 5 => s.tripStage f
  | 6 => s.onField f (fun q => q.selfRefresh true)
  | 7 => s.onField f (fun q => q.selfRefresh false)
  | _ => s

/-! ### Registers of UNIT 1 (R243, R338) -/

/-- Neighbour of a field beyond boundary N, E, S or W. -/
def fieldBeyond (f p : Nat) : Option Nat :=
  match p with
  | 0 => if f / 12 = 0 then none else some (f - 12)
  | 1 => if f % 12 = 11 then none else some (f + 1)
  | 2 => if f / 12 = 11 then none else some (f + 12)
  | _ => if f % 12 = 0 then none else some (f - 1)

/-- COUPLED: coupling enabled at both ends, both oscillators running (R316). -/
def State.coupled (s : State) (f : Nat) : Nat :=
  let q := s.field f
  (List.range 4).foldl (fun a p => match fieldBeyond f p with
    | some g => if q.rails && q.oscEn && bitB q.couple p && (s.field g).rails && (s.field g).oscEn && bitB (s.field g).couple (opposite p)
        then a + 2 ^ p else a
    | none => a) 0

/-- OFFSET: what the phase detectors show toward coupled neighbours; within a quarter of a cycle while LOCKED (R316, R338). DESIGN CHOICE,
log 13. -/
def State.phaseOffset (s : State) (f : Nat) : Nat :=
  let o := (Config.phaseOffset f s.cycle).toNat
  if s.coupled f = 0 then 0 else if (s.field f).locked then twos 8 (((o % 129 : Nat) : Int) - 64) else o

/-- OSC_EN starts and stops the field's oscillator, which is LOCKED once it has run within bounds for 65,536 cycles (R316). -/
def Field.setOsc (q : Field) (on : Bool) (cycle : Nat) : Field :=
  if ! q.rails || q.oscEn = on then q
  else { q with oscEn := on, locked := false, lockSince := if on then some cycle else none }

def PowerState.code : PowerState → Nat
  | .underway => 0
  | .lull => 1
  | .doldrums => 2
  | .off => 3

/-- In part DESIGN CHOICE, log 21. -/
def pwrStatus (q : Field) : Word :=
  word (q.power.code + 4 * b2n q.refused + 16 * b2n q.rails + 32 * b2n q.sr + 64 * b2n q.tripped + 128 * b2n q.hwThermal +
    256 * q.reef.toNat)

/-- A base-die register as it reads. -/
def State.readBase (s : State) (f off : Nat) : Word :=
  let q := s.field f
  match off with
  | 0x100 => q.xferTimeout
  | 0x204 => pwrStatus q
  | 0x208 => word q.reefReg.toNat
  | 0x20C => word (q.gates.toNat % 2 ^ 32)
  | 0x210 => word (q.gates.toNat / 2 ^ 32)
  | 0x214 => q.gateRefused
  | 0x218 => word (q.sensor * 2 ^ 28 + twos 16 q.tj)
  | 0x220 => word (q.couple.toNat + 256 * b2n q.oscEn)
  | 0x224 => word (s.coupled f + 16 * b2n q.locked + 256 * q.slip.toNat + s.phaseOffset f * 2 ^ 24)
  | _ => 0

/-- A write of a base-die register. In part DESIGN CHOICE, log 34. -/
def State.writeBase (s : State) (f off : Nat) (v : Word) : State :=
  match off with
  | 0x100 => s.onField f (fun q => { q with xferTimeout := word (fld v 15 0) })
  | 0x200 => s.pwrCmd f v
  | 0x204 => if bitB v 2 then s.onField f (fun q => { q with refused := false }) else s
  | 0x208 => s.onField f (fun q => { q with reefReg := BitVec.ofNat 4 (fld v 3 0) })
  | 0x20C => s.writeGates f false v
  | 0x210 => s.writeGates f true v
  | 0x220 => s.onField f (fun q => { q.setOsc (bitB v 8) s.cycle with couple := BitVec.ofNat 4 (fld v 3 0) })
  | 0x224 => s.onField f (fun q => { q with slip := q.slip &&& ~~~ (BitVec.ofNat 4 (fld v 11 8)) })
  | _ => s

/-! ### Commands -/

/-- A command on a field. -/
def State.onFld (s : State) (f : Nat) (g : State → State) : Res := if 144 ≤ f then .fault .noSuchField else .next (g s)

def execUngate (f : Nat) (s : State) : Res := s.onFld f (fun s => s.onField f (fun q => q.ungate s.cycle))
def execLull (f : Nat) (s : State) : Res := s.onFld f (fun s => s.toLull f)
def execRailsOff (f : Nat) (s : State) : Res := s.onFld f (fun s => s.railsDown f)
def execRailsOn (f : Nat) (s : State) : Res := s.onFld f (fun s => s.railsUp f)
def execSrEnter (f : Nat) (s : State) : Res := s.onFld f (fun s => s.onField f (fun q => q.selfRefresh true))
def execSrExit (f : Nat) (s : State) : Res := s.onFld f (fun s => s.onField f (fun q => q.selfRefresh false))
def execPwrGateWrite (f : Nat) (hi : Bool) (v : Word) (s : State) : Res := s.onFld f (fun s => s.writeGates f hi v)

/-- PWR_REEF: the level takes effect at the next 16-cycle boundary (R332). -/
def execPwrReefWrite (f : Nat) (v : Word) (s : State) : Res := s.onFld f (fun s => s.writeBase f 0x208 v)

/-- The position of a cycle among 16 is swallowed at reef level `n` (R332). -/
def swallowed (cycle n : Nat) : Bool := decide (cycle % 16 * n % 16 < n)

/-- The cell has been quiescent for 64 pulses. A cell that nothing has reached is quiescent since its rails came up; its pulses are those
of the last 1,024 cycles, among which every reef level leaves 64. -/
def State.longQuiet (s : State) (x y : Nat) : Bool :=
  let q := s.field (fieldOf x y)
  match tget s.cells (siteIx x y) with
  | some c => decide (c.quietSince + 64 ≤ c.pulse)
  | none => decide (64 ≤ ((List.range (min 1024 (s.cycle - q.litAt))).filter (fun k =>
      ! (clsOf x y = .c && swallowed (s.cycle - 1 - k) q.reef.toNat))).length)

/-- CELL_GATE_CLOSE: the gate of a cell that has been quiescent for 64 pulses closes (R324). -/
def execCellGateClose (x y : Nat) (s : State) : Res :=
  if ! siteOk x y then .fault .noSuchSite
  else
    let c := s.cell x y
    if s.clocked x y && s.quiescent x y && s.longQuiet x y then .next (s.setCell x y { c with gated := true })
    else .next s

/-- CELL_GATE_OPEN: a flit or packet for a gated cell opens its gate (R324). -/
def execCellGateOpen (x y : Nat) (s : State) : Res :=
  if ! siteOk x y then .fault .noSuchSite
  else if (s.cell x y).gated && s.lWaits x y then .next (s.onCell x y (fun c => { c with gated := false, quietSince := c.pulse }))
  else .next s

end Sys2Proof.Machine
end

