-- ==== Sys2Proof/Machine/Micro.lean ====
section
/-!
DEFINITION. Cell microcode (R351-R353): chunks, the image check, and the completeness report.
-/
namespace Sys2Proof.Machine

/-- The microcode of a site: its own record, or that which the whole field's cells of its class share. In part DESIGN CHOICE, log 43. -/
def State.mcOf (s : State) (x y : Nat) : Microcode :=
  ((s.cell x y).mc).getD (tgetD (s.field (fieldOf x y)).mcBase (clsOf x y).code Microcode.reset)

def State.setMc (s : State) (x y : Nat) (m : Microcode) : State := s.onCell x y (fun c => { c with mc := some m })

/-- Bytes of a class image from the chunks held. -/
def Microcode.image (m : Microcode) : List Byte := (List.range m.count).flatMap (fun i => tgetD m.chunks i (zeros 224))

/-- Every chunk below COUNT is received. -/
def Microcode.whole (m : Microcode) : Bool := decide (0 < m.count) && (List.range m.count).all (fun i => (tget m.chunks i).isSome)

/-- The CRC-64 of the held image against MC_EXPECT: COMPLETE, or every chunk discarded and CRC_FAIL (R352). -/
def Microcode.check (m : Microcode) : Microcode :=
  let c := dword (crc64 m.image)
  if c = m.expect then { m with crc := c, complete := true, crcFail := false }
  else { m with crc := c, complete := false, crcFail := true, chunks := [] }

/-- A chunk of 8 flits: data, index, class, COUNT, CRC32 and IMAGE_CRC (R351). -/
def Microcode.chunk (m : Microcode) (cls : Nat) (flits : List Item) : Microcode :=
  let b := flitsBytes flits
  let data := b.take 224
  let d := b.drop 224
  let i := leAt d 0 2
  if flits.length ≠ 8 ∨ byteAt d 2 ≠ cls ∨ 160 ≤ i ∨ (tget m.chunks i).isSome then m
  else if crc32 data ≠ leAt d 8 4 then { m with badCrc := min (m.badCrc + 1) 255 }
  else
    let m1 := { m with count := if m.count = 0 then leAt d 4 2 else m.count, chunks := tset m.chunks i data }
    if m1.whole then { m1 with expect := dword (leAt d 16 8) }.check else m1

/-- CLEAR: chunks discarded, COUNT, COMPLETE and CRC_FAIL cleared (R352). -/
def Microcode.clear (m : Microcode) : Microcode := { m with chunks := [], count := 0, complete := false, crcFail := false }

/-- VERIFY: the check of a held image; without a whole image there is nothing to check. In part DESIGN CHOICE, log 43. -/
def Microcode.verify (m : Microcode) : Microcode := if m.whole then m.check else m

def mcStatus (m : Microcode) : Word :=
  word (b2n m.complete * 2 ^ 31 + b2n m.crcFail * 2 ^ 30 + m.count % 256 * 2 ^ 16 + m.chunks.length % 256 * 2 ^ 8 + m.badCrc)

/-- FP32 1.0 in the lanes of an item that a test picks. -/
def onesItem (f : Nat → Bool) : Item := packItem 0 ((List.range 8).map (fun l => if f l then 0x3F800000 else 0))

/-- The 101 items of a report (R353). -/
def reportItems (m : Microcode) (cls : Nat) : List Item :=
  (List.range 101).map (fun n =>
    if n = 0 then onesItem (fun l => m.complete && l = cls)
    else onesItem (fun l =>
      let i := 8 * ((n - 1) % 20) + l
      (n - 1) / 20 = cls && (m.count = 0 || (i < m.count && (tget m.chunks i).isNone))))

/-- REPORT: the items enter lane 3 of the cell's L port one after another; those beyond the lane buffer wait in the cell. -/
def State.mcEmit (s : State) (x y : Nat) : State :=
  let its := reportItems (s.mcOf x y) (clsOf x y).code
  s.onRouter x y (fun r => r.setLane 19 (r.lane 19 ++ its.map (fun it => { data := it, bad := false, ready := s.cycle })))

/-- A command on the microcode registers of a cell in service, while they are in place. -/
def State.onMc (s : State) (x y : Nat) (f : State → State) : Res :=
  if ! siteOk x y then .fault .noSuchSite
  else if s.mcActive x y && ! s.bodyOut x y then .next (f s)
  else .next s

def State.mcDo (s : State) (x y : Nat) (f : Microcode → Microcode) : State := s.setMc x y (f (s.mcOf x y))

def execMcPort (x y : Nat) (flits : List Item) (s : State) : Res :=
  s.onMc x y (fun s => s.mcDo x y (fun m => m.chunk (clsOf x y).code flits))
def execMcClear (x y : Nat) (s : State) : Res := s.onMc x y (fun s => s.mcDo x y Microcode.clear)
def execMcVerify (x y : Nat) (s : State) : Res := s.onMc x y (fun s => s.mcDo x y Microcode.verify)
def execMcReport (x y : Nat) (s : State) : Res := s.onMc x y (fun s => s.mcEmit x y)

/-- A write of MC_CTRL: CLEAR, VERIFY, REPORT in that order (R352). -/
def State.mcCtrl (s : State) (x y : Nat) (v : Word) : State :=
  let s1 := if bitB v 0 then s.mcDo x y Microcode.clear else s
  let s2 := if bitB v 1 then s1.mcDo x y Microcode.verify else s1
  if bitB v 2 then s2.mcEmit x y else s2

/-- Registers 0x30C0-0x30FF as they read. -/
def State.readMc (s : State) (x y off : Nat) : Word :=
  let m := s.mcOf x y
  match off with
  | 0xE0 => mcStatus m
  | 0xE8 => lo32 m.crc
  | 0xEC => hi32 m.crc
  | 0xF0 => lo32 m.expect
  | 0xF4 => hi32 m.expect
  | _ => 0

/-- A write of one of them other than MC_PORT. -/
def State.writeMc (s : State) (x y off : Nat) (v : Word) : State :=
  match off with
  | 0xE4 => s.mcCtrl x y v
  | 0xF0 => s.mcDo x y (fun m => { m with expect := join32 (hi32 m.expect) v })
  | 0xF4 => s.mcDo x y (fun m => { m with expect := join32 v (lo32 m.expect) })
  | _ => s

end Sys2Proof.Machine
end

