-- ==== Sys2Proof/Machine/SlotsG.lean ====
section
/-!
DEFINITION. The gather-merge engine of a G-cell (R108-R130): EXPAND, spans, the predictor and the hash accumulator.
-/
namespace Sys2Proof.Machine

/-- Engine counters of R111 by offset. -/
def GEng.count (g : GEng) (off n : Nat) : GEng := { g with cnt := cntAdd g.cnt off n }

def Cell.onG (c : Cell) (f : GEng → GEng) : Cell := { c with gc := f c.gc }

/-! ### EXPAND -/

/-- Fetch pieces of stream bytes [a, b): granule runs as offsets and lengths (R108, R164). -/
def pieces (addr a b : Nat) : List (Nat × Nat) :=
  (runs4 (granules ((List.range ((b - a + 63) / 64)).map (fun k => addr + a + 64 * k)))).map (fun r => (64 * r.1 - addr / 64 * 64, 64 * r.2))

/-- Progress of slot `n` recorded. -/
def Cell.setExpand (c : Cell) (n : Nat) (e : Expand) : Cell := c.onG (fun g => { g with expands := tset g.expands n e })

/-- The engine takes up the command at the queue's head, and reads the header of the tile it has come to, once that is here (R115). -/
def expandTake (c : Cell) (n : Nat) : Option Expand :=
  let w := c.slot n
  let e0 : Option Expand := match tget c.gc.expands n with
    | some e => some e
    | none => ((c.queue (sSrc0 w)).head c.pulse).map (fun (it : QItem) =>
        let cmd := ExpCmd.of it.data
        { addr := cmd.addr, left := cmd.count, tileOff := 0, asked := 0, item := 0, hdr := none })
  e0.map (fun e => if e.hdr.isNone && e.tileOff + 32 ≤ arrivedTo c n e then
    { e with hdr := some (itemOf ((span e.tileOff 32).map (ringByte c (c.desc (sOpa w % 128))))) } else e)

/-- The engine's own work for an EXPAND slot: it reads ahead for as long as the ring has room (R115). -/
def expandEngine (m x y n : Nat) (c : Cell) : Cell × List Packet :=
  let d := c.desc (sOpa (c.slot n) % 128)
  match expandTake c n with
  | none => (c, [])
  | some e =>
    let goal := min (e.goal c d (arrivedTo c n e)) (e.heldFrom + d.bound / 64 * 64)
    if goal ≤ e.asked then (c.setExpand n e, [])
    else
      let r := sendAll (c.setExpand n { e with asked := goal }) (pieces e.addr e.asked goal) (fun c v =>
        c.readReq m x y n 0 (.fetch v.1 v.2 none 0) (dword (e.addr + v.1)) (v.2 / 64))
      (r.1, r.2)

/-- Errors of a stored tile (R116): its header, its first section, or a disagreement with the slot and the command. In part DEDUCED, log 40. -/
def expandBad (c : Cell) (n : Nat) : Bool :=
  let w := c.slot n
  let d := c.desc (sOpa w % 128)
  match tget c.gc.expands n with
  | none => false
  | some e =>
    e.left = 0 ||
    match expTile c n with
    | none => false
    | some (e, h) =>
      let cmd := ExpCmd.of (c.headItem (sSrc0 w))
      ! h.ok || h.fmt ≠ sFmt w || h.rows ≠ cmd.rows + 1 || h.cols ≠ cmd.cols + 1 || h.mx ≠ (scqOf (sOpb w)).isSome ||
        (expReady c n e h && ! h.bodyOk (fun o => ringByte c d (e.tileOff + o)))

/-- Scale bytes added to the slot's scale item: the item when it is complete, and what is left (R66, R115). What a slot holds of an item
when it retires is never written (DESIGN CHOICE, log 55). -/
def scaleFill (r : SlotRun) (bs : List Nat) : Option Item × List Byte :=
  let sp := r.scPart ++ bs.map (fun v => BitVec.ofNat 8 v)
  if 32 ≤ sp.length then (some (itemOf (sp.take 32)), sp.drop 32) else (none, sp)

/-- Outputs of a GATHER firing: the item to DST, a filled scale item to the scale output. -/
def gatherOuts (w : BitVec 128) (it : Item) (sc : Option Item) : List (Nat × Item) :=
  outsOf (dstQs w) it ++ (match sc, scqOf (sOpb w) with
    | some s, some q => [(q, s)]
    | _, _ => [])

/-- An uncorrectable word that the engine meets in a stored tile before it can emit an item: its header, and its first section once
that is here (R116, R183). -/
def expandHit (c : Cell) (n : Nat) : Option Nat :=
  let d := c.desc (sOpa (c.slot n) % 128)
  match expTile c n with
  | none => none
  | some (e, h) => c.data.badWord (ringAddrs d e.tileOff
      ((if e.item = 0 then span 0 32 else []) ++ if expReady c n e h then span 32 h.sec0 else []))

/-- The firing that emits the next dense item of a stored tile (R115). -/
def bodyExpand (at_ : Nat → Dword) (n : Nat) (_ : Cls) (c : Cell) (_ : Plan) : Fired :=
  let w := c.slot n
  let d := c.desc (sOpa w % 128)
  match expTile c n with
  | none => fired c
  | some (e, h) =>
    let rd := fun o => ringByte c d (e.tileOff + o)
    let scaled := (scqOf (sOpb w)).isSome
    let used := ringAddrs d e.tileOff ((if e.item = 0 then span 0 32 else []) ++ span 32 h.sec0 ++ h.used rd e.item scaled)
    match c.data.badWord used with
    | some b => firedBad c n (at_ (8 * b))
    | none =>
    let sf := scaleFill (c.run n) (if scaled then h.scales rd e.item else [])
    let lastItem := e.item + 1 = h.items
    let es : Tbl Expand :=
      if lastItem then
        (if e.left = 1 then tdel c.gc.expands n
         else tset c.gc.expands n { e with left := e.left - 1, tileOff := up64 (e.tileOff + h.size), item := 0, hdr := none })
      else tset c.gc.expands n { e with item := e.item + 1 }
    let g := if lastItem then (c.gc.count 0x44 1).count 0x48 (b2n h.dense) else c.gc
    let c1 := (((c.healed used).advance (sOpa w % 128) 1).setRun n { c.run n with scPart := sf.2 }).onG (fun _ => { g with expands := es })
    fired (c1.addOp (opOf c n (c.pulse + 4) (gatherOuts w (h.item rd e.item) sf.1)))

def isExpand : Cls → BitVec 128 → Bool := fun k w => decide (k = .g) && sOp w = 0x01 && sMod w % 4 = 0

/-- GATHER_EXPAND (R115, R116): the engine reads ahead; a malformed tile freezes the cell; else the slot fires when its next
item's bytes are here. -/
def execGatherExpand (x y n : Nat) (s : State) : Res :=
  if ! siteOk x y then .fault .noSuchSite
  else if 64 ≤ n then .fault .noSuchPart
  else
    let c := s.cell x y
    if s.bodyOut x y || ! s.clocked x y || ! slotOn c n || ! isExpand (clsOf x y) (c.slot n) then .next s
    else
      let r := expandEngine s.myMod x y n c
      let s1 := (s.setCell x y r.1).inject x y r.2
      match expandHit r.1 n with
      | some b => .next (s1.freezeCell x y memUncorrectable n 0 (cellAddr s.myMod x y (8 * b)))
      | none =>
        if expandBad r.1 n then .next (s1.freezeCell x y loadFormat n 0 0)
        else s1.fire x y n isExpand (bodyExpand (cellAddr s.myMod x y) n)

/-! ### Spans -/

/-- Fetch of one group into staging: the cell, its packets and the number of reads (R117, R120). -/
def fetchGroup (m x y n : Nat) (c : Cell) (p : Span) (g : Nat) : Cell × List Packet × Nat :=
  let d := c.desc p.desc
  let a := p.base + g * p.gstride
  let ps := runs4 (granules ((List.range (p.glen / 64)).map (fun k => a + 64 * k)))
  let r := sendAll c ps (fun c v =>
    c.readReq m x y n 0 (.fetch (d.base + g * p.glen + (64 * v.1 - a)) (64 * v.2) (some p.num) g) (dword (64 * v.1)) v.2)
  (r.1, r.2, ps.length)

/-- Fetch of several groups, in ascending order. -/
def fetchGroups (m x y n : Nat) (c : Cell) (p : Span) (gs : List Nat) : Cell × List Packet × Span :=
  gs.foldl (fun (a : Cell × List Packet × Span) g =>
    let r := fetchGroup m x y n a.1 p g
    (r.1, a.2.1 ++ r.2.1, { a.2.2 with fetched := a.2.2.fetched ||| BitVec.ofNat 64 (2 ^ g),
                                       missing := tset a.2.2.missing g r.2.2 })) (c, [], p)

/-- PLAN (R118, R120): the command is checked, the span opens and its history record is read; the fetches follow the record. The op
itself is in flight for its latency of 2 (R49). -/
def bodyPlan (m x y n : Nat) (_ : Cls) (c : Cell) (_ : Plan) : Fired :=
  let w := c.slot n
  let i := sOpa w % 128
  let d := c.desc i
  let cmd := SpanCmd.of (c.headItem (sSrc0 w))
  if cmd.resv || cmd.fmt ≠ sFmt w then { cell := c, sends := [], frz := some (loadFormat, n, 0), taken := false }
  else if cmd.groups * gLen cmd.fmt cmd.rows cmd.mx > d.bound then
    { cell := c, sends := [], frz := some (loadBufferSize, n, 0), taken := false }
  else
    let rec_ := c.gc.histBase.toNat / 16 * 16 + 16 * cmd.hist
    let p : Span := { num := c.gc.nextSpan, desc := i, slot := n, base := cmd.base, gstride := cmd.gstride, hist := cmd.hist, layer := cmd.layer,
                      groups := cmd.groups, rows := cmd.rows, fmt := cmd.fmt, mx := cmd.mx, planned := false, fetched := 0,
                      missing := [], live := 0, checked := 0, misses := 0, emitted := 0 }
    let c1 := c.onG (fun g => { g with spans := g.spans ++ [p], nextSpan := g.nextSpan + 1, fallback := g.fallback && g.fbLayer = cmd.layer })
    let r := (c1.addOp (opOf c1 n (c.pulse + 2) [])).readReq m x y n 0 (.histRead p.num) (dword (rec_ / 64 * 64)) 1
    { cell := r.1, sends := [r.2], frz := none, taken := true }

def isPlan : Cls → BitVec 128 → Bool := fun k w => decide (k = .g) && sOp w = 0x02 && ! (sMod w).testBit 0

def execPlan (x y n : Nat) (s : State) : Res := s.fire x y n isPlan (bodyPlan s.myMod x y n)

/-- The history record of a span arrives: prediction and fetches (R119, R120). -/
def planSpan (m x y : Nat) (c : Cell) (p : Span) (h : BitVec 128) : Cell × List Packet :=
  let all := lowMask p.groups
  let miss := ! cfgPredEn c.gc.cfg || ! bitB h 63 || fld h 47 32 ≠ p.layer || fld h 53 48 + 1 ≠ p.groups
  let pred := if miss then all else BitVec.ofNat 64 (fld h 127 64) &&& all
  let dense := (c.gc.fallback && c.gc.fbLayer = p.layer) || 16 * popcount pred > cfgThresh c.gc.cfg * p.groups
  let gs := (List.range p.groups).filter (fun g => dense || pred.getLsbD g)
  let r := fetchGroups m x y p.slot c { p with planned := true } gs
  (r.1.onG (fun g => { (g.count 0x28 (popcount pred)).count 0x40 (b2n dense) with spans := updSpan g.spans p r.2.2 }), r.2.1)

/-- One group classified by CHECK (R121, R122): the cell, the packets, the span. -/
def checkGroup (m x y n : Nat) (a : Cell × List Packet × Span) (live : Bool) : Cell × List Packet × Span :=
  let c := a.1
  let p := a.2.2
  let g := p.checked
  let had := p.fetched.getLsbD g
  let p1 := { p with checked := g + 1, live := if live then p.live ||| BitVec.ofNat 64 (2 ^ g) else p.live }
  if live && ! had then
    let p2 := { p1 with misses := p.misses + 1 }
    if p2.misses ≤ cfgBudget c.gc.cfg then
      let r := fetchGroups m x y n (c.onG (fun e => e.count 0x30 1)) p2 [g]
      (r.1, a.2.1 ++ r.2.1, r.2.2)
    else
      let gs := (List.range p.groups).filter (fun j => g ≤ j && ! p.fetched.getLsbD j)
      let r := fetchGroups m x y n (c.onG (fun e =>
        { (e.count 0x30 1).count 0x3C 1 with fallback := true, fbLayer := p.layer })) p2 gs
      (r.1, a.2.1 ++ r.2.1, r.2.2)
  else (c.onG (fun e => e.count 0x34 (b2n (! live && had))), a.2.1, p1)

/-- The history record a completed CHECK writes (R119, R122). -/
def histRecord (p : Span) : BitVec 128 :=
  BitVec.ofNat 128 (p.live.toNat * 2 ^ 64 + 2 ^ 63 + (p.groups - 1) * 2 ^ 48 + p.layer * 2 ^ 32)

/-- The end of a span's CHECK: the record is written and the counters advance (R122). -/
def checkDone (m x y n : Nat) (a : Cell × List Packet × Span) : Cell × List Packet × Span :=
  let p := a.2.2
  if p.checked < p.groups then a
  else
    let at_ := a.1.gc.histBase.toNat / 16 * 16 + 16 * p.hist
    let l := cellsAt at_ (leBytes 16 (histRecord p).toNat)
    let g := at_ / 64
    let r := a.1.request m x y n 0 .histWrite (dword (64 * g)) opWr clsReq (dword (granuleEn l g)) (bytesFlits 2 (granuleData l g))
    let never := ((List.range p.groups).filter (fun j => ! p.fetched.getLsbD j)).length
    (r.1.onG (fun e => ((e.count 0x2C (popcount p.live)).count 0x38 never).count 0x24 1), a.2.1 ++ [r.2], p)

/-- A span that has emitted its last item and completed its CHECK closes (R123). -/
def closeSpans (l : List Span) : List Span := l.filter (fun p => ! (p.emitted = p.items && p.checked = p.groups))

/-- CHECK (R121, R122). -/
def bodyCheck (m x y n : Nat) (_ : Cls) (c : Cell) (_ : Plan) : Fired :=
  let w := c.slot n
  let r := c.run n
  match spanToCheck c (sOpa w % 128) with
  | none => fired c
  | some p =>
    let it := c.headItem (sSrc0 w)
    let sc := match scqOf (sOpb w) with
      | some q => (scaleBytes c q r.sc0 (blocks (sFmt w))).map some
      | none => copies 2 none
    let k := min (gpi p.fmt) (p.groups - p.checked)
    let lives := (List.range k).map (fun j => groupLive p.fmt it j (lgetD sc j none))
    let a := checkDone m x y n (lives.foldl (checkGroup m x y n) (c, [], p))
    let popped := (scqPops (scqOf (sOpb w)) r.sc0 (blocks (sFmt w)) (lastFiring w r)).1
    let fwd := popped.flatMap (fun q => (fwdQ w).map (fun t => (t, c.headItem q)))
    let sc0 := match scqOf (sOpb w) with
      | some _ => if lastFiring w r then 0 else (scaleStep r.sc0 (blocks (sFmt w))).1
      | none => r.sc0
    let c1 := (a.1.onG (fun e => { e with spans := closeSpans (updSpan e.spans p a.2.2) })).setRun n { r with sc0 := sc0 }
    let c2 := c1.addOp (opOf c1 n (c.pulse + 2) (outsOf (dstQs w) it))
    let c3 := if fwd = [] then c2 else c2.addOp (opOf c2 n c.pulse fwd)
    { cell := c3, sends := a.2.1, frz := none, taken := true }

def isCheck : Cls → BitVec 128 → Bool := fun k w => decide (k = .g) && sOp w = 0x02 && (sMod w).testBit 0

def execCheck (x y n : Nat) (s : State) : Res := s.fire x y n isCheck (bodyCheck s.myMod x y n)

/-- GATHER in SPAN mode (R123). -/
def bodySpan (at_ : Nat → Dword) (n : Nat) (_ : Cls) (c : Cell) (_ : Plan) : Fired :=
  let w := c.slot n
  match spanToEmit c (sOpa w % 128) with
  | none => fired c
  | some p =>
    let scaled := (scqOf (sOpb w)).isSome
    let used := spanUsed (c.desc p.desc) p scaled
    match c.data.badWord used with
    | some b => firedBad c n (at_ (8 * b))
    | none =>
    let v := spanItem c (c.desc p.desc) p
    let sf := scaleFill (c.run n) (if scaled then v.2 else [])
    let p' := { p with emitted := p.emitted + 1 }
    let c1 := (((c.healed used).advance (sOpa w % 128) 1).setRun n { c.run n with scPart := sf.2 }).onG (fun e =>
      { e with spans := closeSpans (updSpan e.spans p p') })
    fired (c1.addOp (opOf c n (c.pulse + 4) (gatherOuts w v.1 sf.1)))

def isSpan : Cls → BitVec 128 → Bool := fun k w => decide (k = .g) && sOp w = 0x01 && sMod w % 4 = 1

def execGatherSpan (x y n : Nat) (s : State) : Res := s.fire x y n isSpan (bodySpan (cellAddr s.myMod x y) n)

/-! ### The hash accumulator -/

/-- A record written to the spill region (R128). -/
def spillReq (m x y n : Nat) (c : Cell) (r : BitVec 128) : Cell × Packet :=
  let a := c.gc.spillBase.toNat / 64 * 64 + 16 * c.gc.spillCount
  let l := cellsAt a (leBytes 16 r.toNat)
  (c.onG (fun g => { g.count 0x50 1 with spillCount := g.spillCount + 1 })).request m x y n 0 .spill (dword (64 * (a / 64)))
    opWr clsReq (dword (granuleEn l (a / 64))) (bytesFlits 2 (granuleData l (a / 64)))

/-- HASH_ADD (R125, R127): the op is in flight for 3 pulses a probe (R49); an uncorrectable word of a set it probes freezes the cell
(R183). In part DEDUCED, log 40. -/
def bodyHashAdd (m x y n : Nat) (_ : Cls) (c : Cell) (_ : Plan) : Fired :=
  let r : BitVec 128 := BitVec.ofNat 128 (c.headItem (sSrc0 (c.slot n))).toNat
  if ! hValid r then fired c
  else if c.gc.hashBad ≠ [] && (hWords c.gc.hash r).any c.gc.hashBad.contains then firedBad c n 0
  else
    let q := hAdd c.gc.hash r [0, 1, 2, 3]
    let c1 := (c.onG (fun g => { g.count 0x4C 1 with hash := q.1 })).addOp (opOf c n (c.pulse + 3 * hTries c.gc.hash r [0, 1, 2, 3]) [])
    if q.2 then fired c1
    else
      let t := spillReq m x y n c1 r
      { cell := t.1, sends := [t.2], frz := none, taken := true }

def execHashAdd (x y n : Nat) (s : State) : Res := s.fire x y n (isOf .g 0x03) (bodyHashAdd s.myMod x y n)

/-- The M-cell and offset of the spill region (R110, R162). -/
def spillSite (c : Cell) : Nat × Nat × Nat :=
  (fld c.gc.spillBase 57 48, fld c.gc.spillBase 47 38, fld c.gc.spillBase 18 0 / 64 * 64)

/-- Bytes of the spill region that hold records. -/
def spillSpan (c : Cell) : List Nat := span (spillSite c).2.2 (16 * c.gc.spillCount)

/-- The spill records in append order. -/
def spillRecs (mem : Memory) (c : Cell) : List (BitVec 128) :=
  (List.range c.gc.spillCount).map (fun k => BitVec.ofNat 128 (leNat (mem.read ((spillSite c).2.2 + 16 * k) 16)))

/-- HASH_DRAIN (R129): the firing pops its trigger and holds the HASH unit; the drain's op waits until every spill write has been
acknowledged (step 1). -/
def bodyHashDrain (n : Nat) (_ : Cls) (c : Cell) (_ : Plan) : Fired :=
  let o := { opOf c n (c.pulse + 4) [] with fixed := false, promised := false, waiting := true }
  fired ((c.addOp o).onG (fun g => { g with drain := some { opId := o.id, slot := n, residue := none } }))

/-- Steps 2 to 6 of a drain (R129): the table is emptied, the spill records are read and applied, and the items are handed to the op,
which writes one per pulse as DST has room. -/
def Cell.drainItems (c : Cell) (d : Drain) (v : List Item × List (BitVec 128)) : Cell :=
  let ops := c.ops.map (fun o => if o.id = d.opId then
    { o with waiting := false, outs := v.1.flatMap (outsOf (dstQs (c.slot d.slot))) } else o)
  { c with ops := ops, gc := { c.gc with hash := [], spillCount := if v.1.length ≤ 1 then 0 else c.gc.spillCount,
                                         drain := some { d with residue := some (v.2.length, (pairItems v.2).length) } } }

/-- A drain whose spill writes are all acknowledged goes on; its residue records are written back to the spill region from index 0 on
(R129 step 3). An uncorrectable word of the table or of a spill record freezes the cell (R183). In part DEDUCED, log 40. -/
def State.drainGo (s : State) (x y : Nat) : State :=
  let c := s.cell x y
  match c.gc.drain with
  | some { opId := i, slot := n, residue := none } =>
    if c.reqs.any (fun q => q.kind = .spill) then s
    else if c.gc.hashBad ≠ [] then s.freezeCell x y memUncorrectable n 0 0
    else
      let at_ := spillSite c
      let mem := (s.cell at_.1 at_.2.1).data
      match mem.badWord (spillSpan c) with
      | some b => s.freezeCell x y memUncorrectable n 0 (cellAddr s.myMod at_.1 at_.2.1 (8 * b))
      | none =>
        let v := hDrain c.gc.hash (spillRecs mem c)
        let l := cellsAt at_.2.2 (v.2.flatMap (fun r => leBytes 16 r.toNat))
        (s.setCell x y (c.drainItems { opId := i, slot := n, residue := none } v)).onCell at_.1 at_.2.1 (fun u =>
          { u with data := u.data.write l })
  | _ => s

/-- HASH_DRAIN. -/
def execHashDrain (x y n : Nat) (s : State) : Res :=
  match s.fire x y n (isOf .g 0x04) (bodyHashDrain n) with
  | .next t => .next (t.drainGo x y)
  | r => r

/-- GC_CTRL.CLR_CNT (R110, R111). -/
def execGcClrCnt (x y : Nat) (s : State) : Res :=
  if ! siteOk x y then .fault .noSuchSite
  else if clsOf x y ≠ .g then .next s
  else .next (s.onCell x y (fun c => c.onG (fun g => { g with cnt := [] })))

end Sys2Proof.Machine
end

