-- ==== Sys2Proof/Machine/Mgmt.lean ====
section
/-!
DEFINITION. Management space (R9, R31, R59, R110, R158, R168-R170, R177, R211, R221, R352): how each register of a site, a base
die and a resolution store reads, and what a write of it does.
-/
namespace Sys2Proof.Machine

/-! ### The cell store (R31, R59) -/

/-- A write of an RWL location: ignored and counted while the cell is ACTIVE or FROZEN (R9, R60). -/
def Cell.locked (c : Cell) (f : Cell → Cell) : Cell :=
  if c.state ≠ .idle then { c with lockedWrite := true, lockedWrites := satInc c.lockedWrites } else f c

/-- A shadowed write of SLOT_EN: the shadow, and at once in a cell that is not ACTIVE (R9, R60). -/
def Cell.writeEn (c : Cell) (hi : Bool) (v : Word) : Cell :=
  let sh := if hi then setFld c.slotEnShadow 63 32 v.toNat else setFld c.slotEnShadow 31 0 v.toNat
  if c.state = .active then { c with slotEnShadow := sh } else { c with slotEnShadow := sh, slotEn := sh }

/-- CELL_CTRL: CLR_CNT, APPLY, STOP, START in that order (R59). -/
def Cell.ctrl (c : Cell) (k : Cls) (v : Word) : Cell :=
  let c1 := if bitB v 3 then c.clrCnt else c
  let c2 := if bitB v 2 then c1.apply else c1
  let c3 := if bitB v 1 then c2.stop else c2
  if bitB v 0 then c3.start k else c3

def CellState.code : CellState → Nat
  | .idle => 0
  | .active => 1
  | .frozen => 2

def Cell.status (c : Cell) : Word :=
  word (c.state.code + 16 * b2n c.applyPending + 32 * b2n c.faultSt + 64 * b2n c.wdogTrip + 128 * b2n c.lockedWrite)

/-- One 32-bit word of the slot and configuration store as it reads; WO and reserved locations read 0. -/
def Cell.readStore (c : Cell) (k : Cls) (x y off : Nat) : Word :=
  if off = 0x000 then word (k.code * 2 ^ 29 + x * 2 ^ 19 + y * 2 ^ 9)
  else if off = 0x008 then c.status
  else if off = 0x00C then c.wdogLimit
  else if off = 0x010 then word (fld c.slotEnShadow 31 0)
  else if off = 0x014 then word (fld c.slotEnShadow 63 32)
  else if off = 0x018 then word c.pred.toNat
  else if off = 0x01C then word c.faultCode.toNat
  else if 0x020 ≤ off ∧ off < 0x040 then tgetD c.qcfg ((off - 0x020) / 4) 0
  else if 0x040 ≤ off ∧ off < 0x060 then tgetD c.qext ((off - 0x040) / 4) 0
  else if off = 0x060 then c.lockedWrites
  else if off = 0x064 then c.firings
  else if off = 0x068 then c.outStalls
  else if off = 0x06C then c.inStalls
  else if off = 0x070 then c.wdogInfo
  else if 0x400 ≤ off ∧ off < 0x800 then
    let w := c.slot ((off - 0x400) / 16)
    word (fld w (32 * (off / 4 % 4) + 31) (32 * (off / 4 % 4)))
  else if 0x1000 ≤ off ∧ off < 0x2000 then
    let w := c.descWord ((off - 0x1000) / 32)
    word (fld w (32 * (off / 4 % 8) + 31) (32 * (off / 4 % 8)))
  else 0

/-- A write of CELL_PRED: slots read it from the next pulse on, and a bit that CMP writes in this pulse keeps CMP's value (R45,
R60). -/
def Cell.predWrite (c : Cell) (v : BitVec 8) : Cell :=
  { c with pred := (c.pred &&& c.predCmp) ||| (v &&& ~~~ c.predCmp), predWas := some (c.predWas.getD c.pred) }

/-- The bits of a word of the store that a management write changes: the reserved bits of a slot read as zero (R8, R38). -/
def storeBits (off : Nat) : Word :=
  if 0x400 ≤ off ∧ off < 0x800 then
    match off % 16 / 4 with
    | 0 => 0xFFFFF000#32
    | 2 => 0xFFF8FFFF#32
    | 3 => 0xFFFFFFF0#32
    | _ => 0xFFFFFFFF#32
  else 0xFFFFFFFF#32

/-- A write of one 32-bit word of the store. -/
def Cell.writeStore (c : Cell) (k : Cls) (off : Nat) (v : Word) : Cell :=
  if off = 0x004 then c.ctrl k v
  else if off = 0x008 then
    { c with faultSt := c.faultSt && ! bitB v 5, wdogTrip := c.wdogTrip && ! bitB v 6, lockedWrite := c.lockedWrite && ! bitB v 7 }
  else if off = 0x00C then { c with wdogLimit := v, wdogWas := some (c.wdogWas.getD c.wdogLimit) }
  else if off = 0x010 then c.writeEn false v
  else if off = 0x014 then c.writeEn true v
  else if off = 0x018 then c.predWrite (BitVec.ofNat 8 (fld v 7 0))
  else if 0x020 ≤ off ∧ off < 0x040 then
    c.locked (fun c => { c with qcfg := tset c.qcfg ((off - 0x020) / 4) (v &&& 0xF0000000#32) })
  else if 0x040 ≤ off ∧ off < 0x060 then
    c.locked (fun c => { c with qext := tset c.qext ((off - 0x040) / 4) (v &&& 0x03FF007F#32) })
  else if 0x400 ≤ off ∧ off < 0x800 then
    c.locked (fun c =>
      let n := (off - 0x400) / 16
      let w := setFld (c.slot n) (32 * (off / 4 % 4) + 31) (32 * (off / 4 % 4)) v.toNat
      { c with slots := tset c.slots n w })
  else if 0x1000 ≤ off ∧ off < 0x2000 then
    c.locked (fun c =>
      let n := (off - 0x1000) / 32
      { c with descs := tset c.descs n (setFld (c.descWord n) (32 * (off / 4 % 8) + 31) (32 * (off / 4 % 8)) v.toNat) })
  else c

/-! ### Engine blocks (R110, R177, R211, R221, R352) -/

/-- Lines of the stream buffers that are allotted (R175). -/
def linesAllotted (c : Cell) : Nat := ((List.range 8).map (allotted c)).sum

/-- The P-cell at (x, y) also serves its pair's channel (R18). -/
def State.paired (s : State) (x y : Nat) : Bool := s.bodyOut (pairX x) y

def State.readEngine (s : State) (x y off : Nat) : Word :=
  let c := s.cell x y
  match clsOf x y with
  | .c =>
    let g := c.sg
    if 0x10 ≤ off ∧ off < 0x20 then tgetD g.entry ((off - 0x10) / 4) 0
    else if 0x20 ≤ off ∧ off < 0x30 then tgetD g.window ((off - 0x20) / 4) 0
    else match off with
      | 0x40 => g.windows
      | 0x44 => g.skipped
      | 0x48 => g.mismatch
      | 0x50 => g.capD
      | 0x54 => g.capC
      | 0x58 => g.capTol
      | 0x5C => g.capInfo
      | _ => 0
  | .m =>
    match off with
    | 0x04 => word (c.w0.waiters.length + 256 * c.w1.waiters.length)
    | 0x08 => lo32 c.w0.word
    | 0x0C => c.w0.capHi.getD (hi32 c.w0.word)
    | 0x10 => lo32 c.w1.word
    | 0x14 => c.w1.capHi.getD (hi32 c.w1.word)
    | _ => if 0x20 ≤ off ∧ off < 0x30 then tgetD c.syncCnt ((off - 0x20) / 4) 0 else 0
  | .p =>
    if off = 0x04 then word (c.pc.pwb.length + 32 * b2n (s.paired x y) + 256 * (256 - linesAllotted c))
    else if 0x10 ≤ off ∧ off < 0x30 then c.strm ((off - 0x10) / 4)
    else if 0x40 ≤ off ∧ off < 0x80 then tgetD c.pc.scope ((off - 0x40) / 4) 0
    else if 0x80 ≤ off ∧ off < 0xA0 then tgetD c.pc.cnt ((off - 0x80) / 4) 0
    else 0
  | .g =>
    let g := c.gc
    match off with
    | 0x04 => g.cfg
    | 0x08 => lo32 g.histBase
    | 0x0C => hi32 g.histBase
    | 0x10 => lo32 g.spillBase
    | 0x14 => hi32 g.spillBase
    | 0x18 => g.spillCap
    | 0x1C => word (g.spillCount % 2 ^ 16)
    | 0x20 => word (b2n g.fallback * 2 ^ 31 + g.spans.length * 2 ^ 16 + g.fbLayer % 2 ^ 16)
    | _ => if 0x24 ≤ off ∧ off ≤ 0x58 then tgetD g.cnt off 0 else 0
  | .f => 0

/-- A write of an engine register. -/
def State.writeEngine (s : State) (x y off : Nat) (v : Word) : State :=
  let lk := fun (f : Cell → Cell) => s.onCell x y (fun c => c.locked f)
  match clsOf x y with
  | .c =>
    if off = 0 then (if bitB v 0 then s.onCell x y (fun c => { c with sg := { c.sg with windows := 0, skipped := 0, mismatch := 0 } }) else s)
    else if 0x10 ≤ off ∧ off < 0x20 then
      lk (fun c => { c with sg := { c.sg with entry := tset c.sg.entry ((off - 0x10) / 4) (v &&& 0xC0003FFF#32) } })
    else if 0x20 ≤ off ∧ off < 0x30 then
      lk (fun c => { c with sg := { c.sg with window := tset c.sg.window ((off - 0x20) / 4) (v &&& 0xFFFF#32) } })
    else s
  | .m =>
    match off with
    | 0x00 =>
      let s1 := if bitB v 0 then swClear s x y 0 else s
      let s2 := if bitB v 1 then swClear s1 x y 1 else s1
      if bitB v 2 then s2.onCell x y (fun c => { c with syncCnt := [] }) else s2
    | 0x08 => swHoldLo s x y 0 v
    | 0x0C => swWriteHi s x y 0 v
    | 0x10 => swHoldLo s x y 1 v
    | 0x14 => swWriteHi s x y 1 v
    | _ => s
  | .p =>
    if off = 0 then
      let s1 := if bitB v 1 then s.onCell x y invAll else s
      if bitB v 0 then s1.onCell x y (fun c => { c with pc := { c.pc with cnt := [] } }) else s1
    else if 0x10 ≤ off ∧ off < 0x30 then lk (fun c => { c with pc := { c.pc with strm := tset c.pc.strm ((off - 0x10) / 4) v } })
    else if 0x40 ≤ off ∧ off < 0x80 then
      let m := if off % 8 = 0 then 0x80007FFF#32 else 0x00007FFF#32
      lk (fun c => { c with pc := { c.pc with scope := tset c.pc.scope ((off - 0x40) / 4) (v &&& m) } })
    else s
  | .g =>
    match off with
    | 0x00 => if bitB v 0 then s.onCell x y (fun c => c.onG (fun g => { g with cnt := [] })) else s
    | 0x04 => lk (fun c => c.onG (fun g => { g with cfg := v &&& 0x001F3F01#32 }))
    | 0x08 => lk (fun c => c.onG (fun g => { g with histBase := join32 (hi32 g.histBase) v }))
    | 0x0C => lk (fun c => c.onG (fun g => { g with histBase := join32 v (lo32 g.histBase) }))
    | 0x10 => lk (fun c => c.onG (fun g => { g with spillBase := join32 (hi32 g.spillBase) v }))
    | 0x14 => lk (fun c => c.onG (fun g => { g with spillBase := join32 v (lo32 g.spillBase) }))
    | 0x18 => lk (fun c => c.onG (fun g => { g with spillCap := v &&& 0xFFFF#32 }))
    | _ => s
  | .f => s

/-! ### The router block (R158, R159) -/

/-- No packet lies in a dynamic buffer; one whose branches have all been served lies in none (R152). -/
def Router.vcEmpty (r : Router) : Bool := r.bufs = [] && r.held.all (fun h => h.open_ = [])
def Router.staticEmpty (r : Router) : Bool := r.lanes.all (fun l => l.2 = [])

def Router.status (r : Router) : Word :=
  word (((List.range 5).foldl (fun a b => if bitB r.linkDown b || bitB r.fence (4 + b) then a + 2 ^ b else a) 0) +
    b2n r.staticEmpty * 2 ^ 10 + b2n r.vcEmpty * 2 ^ 11 + r.laneFault.toNat * 2 ^ 12)

/-- Whether a router has a V port, and whether its outward port is connected (R132, R158). -/
def hasV (x y : Nat) : Bool := clsOf x y = .p || (laneAt x y).isSome
def hasEdge (x y : Nat) : Bool := (landingOf x y).isSome || helmLanding x y

/-- The word of a field entry as it reads. -/
def State.dtFieldWord (s : State) (x y f : Nat) : Word :=
  match tget (s.router x y).dtField f, s.dtField x y f with
  | some w, _ => w
  | none, some (.route u d ok) => word (2 ^ 30 + u * 2 ^ 28 + d * 2 ^ 26 + b2n ok * 2 ^ 25)
  | none, some .lost => 0x80000000#32
  | none, _ => 0

/-- The word of place `n` of the site entries as it reads: firmware's own fill the places that are free, in their order (R145). -/
def State.dtSiteWord (s : State) (x y n : Nat) : Word :=
  let t := (s.router x y).dtSite
  let w := tgetD t n 0
  if bitB w 31 then w
  else match (s.addedSites x y)[((List.range n).filter (fun k => ! bitB (tgetD t k 0) 31)).length]? with
    | none => w
    | some v =>
      let at_ := 2 ^ 31 + v.1 * 2 ^ 15 + v.2 * 2 ^ 5
      match s.dtSite x y v.1 v.2 with
      | some (.route u d ok) => word (at_ + u * 2 ^ 27 + d * 2 ^ 25 + b2n ok * 2 ^ 4)
      | _ => word (at_ + 2 * 2 ^ 29)

def State.readRouter (s : State) (x y off : Nat) : Word :=
  let r := s.router x y
  if off = 0x000 then word (x * 2 ^ 22 + y * 2 ^ 12 + b2n (hasV x y) * 2 ^ 11 + b2n (hasEdge x y) * 2 ^ 10)
  else if off = 0x008 then r.status
  else if off = 0x00C then s.fenceWord x y
  else if off = 0x010 then s.updown x y
  else if off = 0x014 then r.mcHold
  else if 0x018 ≤ off ∧ off < 0x02C then r.wheelOf ((off - 0x018) / 4) ||| 1#32
  else if 0x030 ≤ off ∧ off < 0x058 then tgetD r.cnt ((off - 0x030) / 4) 0
  else if 0x100 ≤ off ∧ off < 0x150 then r.lmap ((off - 0x100) / 4)
  else if 0x200 ≤ off ∧ off < 0x440 then s.dtFieldWord x y ((off - 0x200) / 4)
  else if 0x500 ≤ off ∧ off < 0x600 then s.dtSiteWord x y ((off - 0x500) / 4)
  else if 0x600 ≤ off ∧ off < 0xA00 then tgetD r.mcTree ((off - 0x600) / 4) 0
  else 0

/-- A write of a register of the block, RTR_FENCE apart. -/
def Router.writeReg (r : Router) (off : Nat) (v : Word) : Router :=
  if off = 0x004 then
    let r1 := if bitB v 0 then { r with cnt := [] } else r
    if bitB v 1 then r1.flushStatic else r1
  else if off = 0x010 then { r with updown := some (v &&& 0xF#32) }
  else if off = 0x014 then { r with mcHold := v &&& 0xFFFF#32 }
  else if 0x018 ≤ off ∧ off < 0x02C then { r with wheel := tset r.wheel ((off - 0x018) / 4) ((v &&& 0xFFFF#32) ||| 1#32) }
  else if 0x100 ≤ off ∧ off < 0x150 then r.writeLaneMap ((off - 0x100) / 4) v
  else if 0x200 ≤ off ∧ off < 0x440 then { r with dtField := tset r.dtField ((off - 0x200) / 4) (v &&& 0xFE000000#32) }
  else if 0x500 ≤ off ∧ off < 0x600 then { r with dtSite := tset r.dtSite ((off - 0x500) / 4) (v &&& 0xFFFFFFF0#32) }
  else if 0x600 ≤ off ∧ off < 0xA00 then { r with mcTree := tset r.mcTree ((off - 0x600) / 4) (v &&& 0xFF800000#32) }
  else r

/-! ### The field resolution store (R170) -/

def Field.readStore (q : Field) (off : Nat) : Word :=
  if off = 0x0000 then q.frsPart
  else if 0x0010 ≤ off ∧ off < 0x0020 then tgetD q.frsRect ((off - 0x0010) / 4) 0
  else if 0x0020 ≤ off ∧ off < 0x0034 then tgetD q.frsOut ((off - 0x0020) / 4) 0
  else if off = 0x0034 then q.frsModules
  else if 0x1000 ≤ off ∧ off < 0x2000 then tgetD q.frsSync ((off - 0x1000) / 4) 0
  else 0

def Field.writeStore (q : Field) (off : Nat) (v : Word) : Field :=
  if off = 0x0000 then { q with frsPart := v &&& 0x80000003#32 }
  else if 0x0010 ≤ off ∧ off < 0x0020 then { q with frsRect := tset q.frsRect ((off - 0x0010) / 4) (v &&& 0x8000FFFF#32) }
  else if 0x0020 ≤ off ∧ off < 0x0034 then
    { q with frsOut := tset q.frsOut ((off - 0x0020) / 4) (if off = 0x0030 then v &&& 0xFFFF#32 else v) }
  else if off = 0x0034 then { q with frsModules := v &&& 0xF#32 }
  else if 0x1000 ≤ off ∧ off < 0x2000 then { q with frsSync := tset q.frsSync ((off - 0x1000) / 4) (v &&& 0x83FF0007#32) }
  else q

/-! ### UNIT 0 as a whole (R168) -/

/-- A register of UNIT 0 as it reads; a fenced body answers nothing of its own. -/
def State.readSite (s : State) (x y off : Nat) : Word :=
  if off < 0x2000 then (if s.bodyOut x y then 0 else (s.cell x y).readStore (clsOf x y) x y off)
  else if off < 0x3000 then s.readRouter x y (off - 0x2000)
  else if s.bodyOut x y then 0
  else if 0x30C0 ≤ off ∧ off < 0x3100 then (if s.mcActive x y then s.readMc x y (off - 0x3000) else 0)
  else if off < 0x30C0 then s.readEngine x y (off - 0x3000)
  else 0

/-- What a read does: a read of SW_WORDn_LO captures the high half (R211), and a read of SW_WORDn_HI uses the capture up. -/
def State.noteRead (s : State) (x y off : Nat) : State :=
  if clsOf x y = .m ∧ ! s.bodyOut x y then
    match off with
    | 0x3008 => swReadLo s x y 0
    | 0x3010 => swReadLo s x y 1
    | 0x300C => s.onCell x y (fun c => c.setSw 0 { c.sw 0 with capHi := none })
    | 0x3014 => s.onCell x y (fun c => c.setSw 1 { c.sw 1 with capHi := none })
    | _ => s
  else s

/-- A write of a register of UNIT 0. -/
def State.writeSite (s : State) (x y off : Nat) (v : Word) : State :=
  if off < 0x2000 then (if s.bodyOut x y then s else s.onCell x y (fun c => c.writeStore (clsOf x y) off (v &&& storeBits off)))
  else if off = 0x200C then s.writeFence x y v
  else if off < 0x3000 then s.onRouter x y (fun r => r.writeReg (off - 0x2000) v)
  else if s.bodyOut x y then s
  else if 0x30C0 ≤ off ∧ off < 0x3100 then (if s.mcActive x y then s.writeMc x y (off - 0x3000) v else s)
  else if off < 0x30C0 then s.writeEngine x y (off - 0x3000) v
  else s

/-! ### Management addresses (R168) -/

/-- A management space object: a site, a base die or a store. -/
inductive Unit_ where
  | site (x y : Nat)
  | base (f : Nat)
  | store (f : Nat)
  | other
deriving DecidableEq, Repr

def unitOf (a : Dword) : Unit_ :=
  match fld a 37 36 with
  | 0 => .site (fld a 57 48) (fld a 47 38)
  | 1 => .base (fld a 47 40)
  | 2 => .store (fld a 47 40)
  | _ => .other

def State.readUnit (s : State) (u : Unit_) (off : Nat) : Word :=
  match u with
  | .site x y => s.readSite x y off
  | .base f => s.readBase f off
  | .store f => (s.field f).readStore off
  | .other => 0

def State.noteUnit (s : State) (u : Unit_) (off : Nat) : State :=
  match u with
  | .site x y => s.noteRead x y off
  | _ => s

def State.writeUnit (s : State) (u : Unit_) (off : Nat) (v : Word) : State :=
  match u with
  | .site x y => s.writeSite x y off v
  | .base f => s.writeBase f off v
  | .store f => s.onField f (fun q => q.writeStore off v)
  | .other => s

/-- 32-bit registers that the bytes of a management write cover, with the bytes enabled, in ascending order. -/
def mgmtWords (off n : Nat) (en : Nat → Bool) (data : List Byte) : List (Nat × (Nat → Bool) × List Byte) :=
  (List.range (n / 4)).map (fun k => (off + 4 * k, fun j => en (4 * k + j), (data.drop (4 * k)).take 4))

/-- The word that an enabled write leaves: bytes that are not enabled keep what the register reads as. -/
def mergeWord (old : Word) (en : Nat → Bool) (data : List Byte) : Word :=
  (List.range 4).foldl (fun w k => if en k then setFld w (8 * k + 7) (8 * k) (byteAt data k) else w) old

/-- What the bytes of a register that a write does not enable count as: for a W1C register, zeros. -/
def State.keepWord (s : State) (u : Unit_) (off : Nat) : Word :=
  match u with
  | .site _ _ => if off = 0x008 then 0 else s.readUnit u off
  | .base _ => if off = 0x204 ∨ off = 0x224 then 0 else s.readUnit u off
  | _ => s.readUnit u off

/-- A management write as a whole: each 32-bit register of which a byte is enabled is written, in ascending order (R137, R169). -/
def State.mgmtWrite (s : State) (u : Unit_) (off n : Nat) (en : Nat → Bool) (data : List Byte) : State :=
  (mgmtWords off n en data).foldl (fun s w =>
    if (List.range 4).any w.2.1 then s.writeUnit u w.1 (mergeWord (s.keepWord u w.1) w.2.1 w.2.2) else s) s

/-- Store words (64 bits) of a cell that a management access of `n` bytes touches, and those it covers whole. -/
def storeWords (off n : Nat) : List Nat := dedup ((List.range (n / 4)).map (fun k => (off + 4 * k) / 8))
def storeWhole (off n : Nat) (en : Nat → Bool) : List Nat :=
  (storeWords off n).filter (fun w => (List.range 8).all (fun j => off ≤ 8 * w + j && 8 * w + j < off + n && en (8 * w + j - off)))

end Sys2Proof.Machine
end

