-- ==== Sys2Proof/Machine/Packets.lean ====
section
/-!
DEFINITION. Dynamic packets on their way (R133, R136, R139-R144, R149, R150, R154): injection, hops, ejection, the V port of a
link-lane G-site (R297, R302), and tree multicast (R151-R153).
-/
namespace Sys2Proof.Machine

/-! ### The header flit (R136) -/

/-- The header as a number with its CRC field zero; SET and DOWN as given. -/
def Packet.headNat (p : Packet) (set down : Nat) : Nat :=
  p.dest.toNat * 2 ^ 192 + p.srcMod * 2 ^ 190 + p.srcX * 2 ^ 180 + p.srcY * 2 ^ 170 + p.srcPort * 2 ^ 167 + p.dstX * 2 ^ 157 +
    p.dstY * 2 ^ 147 + p.dstPort * 2 ^ 144 + p.cls * 2 ^ 142 + set * 2 ^ 141 + down * 2 ^ 140 + b2n p.mc * 2 ^ 139 +
    p.payload.length * 2 ^ 135 + p.op * 2 ^ 129 + p.tag * 2 ^ 117 + p.status.toNat * 2 ^ 101 + p.reason * 2 ^ 97 +
    p.arg.toNat * 2 ^ 32

/-- CRC over header and payload, with CRC, SET and DOWN taken as zero. -/
def Packet.crc (p : Packet) : Nat := crc32 (leBytes 32 (p.headNat 0 0) ++ flitsBytes p.payload)

/-- The flits of a packet: header and payload; the CRC of a damaged packet does not hold. -/
def Packet.flits (p : Packet) : List Item :=
  BitVec.ofNat 256 (p.headNat (b2n p.detour) (b2n p.down) + (if p.damaged then Nat.xor p.crc 1 else p.crc)) :: p.payload

/-- The packet that flits spell; it is damaged when its CRC does not hold. -/
def packetOf (h : Item) (payload : List Item) : Packet :=
  let p : Packet :=
    { dest := dword (fld h 255 192), srcMod := fld h 191 190, srcX := fld h 189 180, srcY := fld h 179 170,
      srcPort := fld h 169 167, dstX := fld h 166 157, dstY := fld h 156 147, dstPort := fld h 146 144, cls := fld h 143 142,
      detour := bitB h 141, down := bitB h 140, mc := bitB h 139, op := fld h 134 129, tag := fld h 128 117,
      status := BitVec.ofNat 16 (fld h 116 101), reason := fld h 100 97, arg := dword (fld h 95 32), payload := payload,
      damaged := false }
  { p with damaged := p.crc ≠ fld h 31 0 }

/-! ### Links (R133) -/

/-- Dynamic traffic may use an output link in this cycle (R133). In part DESIGN CHOICE, log 9; DESIGN CHOICE, log 19. -/
def State.linkGo (s : State) (x y p : Nat) : Bool :=
  let r := s.router x y
  r.linkFree p s.cycle && r.tailOf p = 0 && (4 < p || r.dynFirst p s.cycle || ! s.statClaim x y p)

/-- The packet of input channel `key` may: it is its turn too. -/
def State.dynGo (s : State) (x y p key : Nat) : Bool := s.linkGo x y p && s.dynTurn x y p key

/-- A packet may leave by its destination port in this cycle; what the router itself takes needs no link. -/
def State.ejectGo (s : State) (x y q key : Nat) : Bool := q = portR || s.dynGo x y (ejectLink q) key

/-! ### Errors on links and in buffers (R140) -/

/-- What SECDED checks found as a packet crossed a link (R140): the packet as it goes on, or none when it is discarded. -/
def linkEcc (p : Packet) : LinkEcc → Option Packet
  | .clean => some p
  | .corrected => some p
  | .headerBad => none
  | .payloadBad => some { p with damaged := true }

/-- Router (u, v) takes a packet over a link, or discards it for an uncorrectable header and reports that; a correction is counted. -/
def State.crossEcc (s : State) (u v : Nat) (p : Packet) (ecc : LinkEcc) (f : State → Packet → State) : State :=
  let s1 := if ecc = .corrected then s.onRouter u v (fun r => r.count 4) else s
  match linkEcc p ecc with
  | some q => f s1 q
  | none => (s1.onRouter u v (fun r => r.count 5)).routerReport u v 0 0xFF 1

/-- A packet joins the buffer of an input port. -/
def State.takeHop (s : State) (u v port : Nat) (p : Packet) (ready : Nat) (ecc : LinkEcc) : State :=
  s.crossEcc u v p ecc (fun s q => s.onRouter u v (fun r => { r with bufs := r.bufs ++ [s.flight u v port q ready] }))

/-! ### Fences (R149, R150, R154, R156) -/

/-- Operations that R137 defines. -/
def opKnown (op : Nat) : Bool := (1 ≤ op && op ≤ 5) || (8 ≤ op && op ≤ 13) || op = 0x10 || op = 0x11 || op = 0x18 || op = 0x19

/-- The MGMT packets of the helm pass PRESET (R154). -/
def fromHelm (p : Packet) : Bool := p.cls = clsMgmt && helmLanding p.srcX p.srcY && p.srcPort = portN

/-- A fence of the destination router that meets a packet (R149, R150, R154, R156). Where several stand, FIELD_OFF answers before BODY and
BODY before PRESET (DESIGN CHOICE, log 60). -/
def fenceOf (r : Router) (x y : Nat) (p : Packet) : Option (Code × Nat) :=
  let lane := (laneAt x y).isSome
  let local_ := p.dstPort = portL || (p.dstPort = portV && ! lane)
  if local_ && r.fieldOff then some (fabDetourLost, 2)
  else if p.dstPort = portL && r.body then some (fabFencedTarget, 0)
  else if p.dstPort = portV && ! lane && r.body && ! r.pair then some (fabFencedTarget, 0)
  else if local_ && r.preset && ! fromHelm p then some (fabFencedTarget, 1)
  else none

/-! ### Multicast (R151-R153) -/

def mtValid (w : Word) : Bool := bitB w 31
def mtLocal (w : Word) : Bool := bitB w 30
def mtBranch (w : Word) (p : Nat) : Bool := bitB w (26 + p)
def mtParent (w : Word) : Nat := fld w 25 23

/-- A drop at a router: counted, and MC_MISS sent to the sender (R152). -/
def State.mcDrop (s : State) (x y : Nat) (h : McHeld) (port : Nat) : State :=
  (s.onRouter x y (fun r => r.count 6)).inject x y
    [{ h.pkt.answer s.myMod x y portL opMcMiss [] with arg := dword (port + h.tree * 256) }]

/-- The held packet of a tree, put back, or MC_DONE when nothing of it is open or awaited: to the parent, or from the root to the
sender. -/
def State.mcKeep (s : State) (x y : Nat) (h : McHeld) : State :=
  let others := (s.router x y).held.filter (fun v => v.tree ≠ h.tree)
  if h.open_ = [] ∧ h.await = [] then
    let done := { h.pkt.answer s.myMod x y portL opMcDone [] with arg := dword h.drops }
    let s1 := s.onRouter x y (fun r => { r with held := others })
    if h.pkt.srcX = x ∧ h.pkt.srcY = y then s1.inject x y [done]
    else match beyond x y (mtParent (tgetD (s.router x y).mcTree h.tree 0)) with
      | some (u, v) => s1.inject x y [{ done with dstX := u, dstY := v, dstPort := portR }]
      | none => s1
  else s.onRouter x y (fun r => { r with held := others ++ [h] })

/-- A multicast packet enters a tree router: branches whose port is down are dropped at once (R152). Where no valid entry for its tree
stands, it is discarded, counted in RTR_RSP_DISCARDS and not answered (DESIGN CHOICE, log 57). -/
def State.mcEnter (s : State) (x y from_ : Nat) (p : Packet) (at_ : Nat) : State :=
  let r := s.router x y
  let t := p.dstX % 256
  let w := tgetD r.mcTree t 0
  if ! mtValid w then s.onRouter x y (fun r => r.count 8)
  else
    let ports := (List.range 4).filter (mtBranch w)
    let gone := ports.filter (fun p => r.down p)
    let h : McHeld := { tree := t, pkt := p, from_ := from_, since := at_ + p.payload.length,
                        open_ := ports.filter (fun p => ! r.down p) ++ (if mtLocal w then [portL] else []), await := [],
                        drops := gone.length }
    (gone.foldl (fun s p => s.mcDrop x y h p) s).mcKeep x y h

/-- A management write reaches a cell: its registers, or a microcode chunk (R168, R352). -/
def State.cellWrite (s : State) (x y : Nat) (p : Packet) : State :=
  let off := fld p.dest 15 0
  let n := p.payload.length
  if off = 0x30C0 then
    (if s.mcActive x y && ! s.bodyOut x y && n = 8 then s.mcDo x y (fun m => m.chunk (clsOf x y).code p.payload) else s)
  else s.mgmtWrite (.site x y) off (32 * n) (fun k => n ≠ 1 || p.arg.getLsbD k) (flitsBytes p.payload)

/-- The branch of a held packet, if it is open. -/
def Router.mcOpen (r : Router) (t port : Nat) : Option McHeld := r.held.find? (fun h => h.tree = t && h.open_.contains port)

/-- A copy for the L port is discarded at a fence: a body that is out, a field that leaves service (R149, R156). -/
def State.mcFenced (s : State) (x y : Nat) (h : McHeld) : Bool :=
  s.bodyOut x y || (fenceOf { (s.router x y) with fence := s.fenceWord x y } x y { h.pkt with dstPort := portL }).isSome

/-- A copy for the L port that fails its check is discarded like any packet, and its branch is closed without a drop (R140; DESIGN
CHOICE, log 58). -/
def State.mcBad (s : State) (x y : Nat) (ecc : LinkEcc) : State :=
  if ecc = .headerBad then (s.onRouter x y (fun r => r.count 5)).routerReport x y 0 0xFF 1
  else (s.onRouter x y (fun r => r.count 3)).routerReport x y 0 0xFF 0

/-- MULTICAST_FORWARD: one branch of a held packet accepts it, or is dropped because its port is down or its cell fenced (R149,
R152); a copy that a fence discards is counted in RTR_RSP_DISCARDS too. -/
def execMulticastForward (x y t port : Nat) (ecc : LinkEcc) (s : State) : Res :=
  if ! siteOk x y then .fault .noSuchSite
  else if 256 ≤ t || 5 ≤ port then .fault .noSuchPart
  else
    let r := s.router x y
    match r.mcOpen t port with
    | none => .next s
    | some h =>
      let key := 8 * h.from_ + h.pkt.vc
      let h1 := { h with open_ := h.open_.erase port }
      if ! s.routerUp x y || ! r.mcHead h s.cycle then .next s
      else if port = portL then
        if s.cycle < h.since + 2 then .next s
        else if s.mcFenced x y h then
          .next (((s.onRouter x y (fun r => r.count 8)).mcDrop x y h port).mcKeep x y { h1 with drops := h1.drops + 1 })
        else if (s.cell x y).gated || ! s.dynGo x y portL key then .next s
        else
          let s1 := s.onRouter x y (fun r => (if ecc = .corrected then r.count 4 else r).useDyn portL s.cycle h.pkt.payload.length key)
          if h.pkt.damaged || ecc = .headerBad || ecc = .payloadBad then .next ((s1.mcBad x y ecc).mcKeep x y h1)
          else .next ((s1.cellWrite x y h.pkt).mcKeep x y h1)
      else if r.down port then .next ((s.mcDrop x y h port).mcKeep x y { h1 with drops := h1.drops + 1 })
      else match beyond x y port with
        | none => .next s
        | some (u, v) =>
          if s.dynGo x y port key && s.routerUp u v && (s.router u v).vcRoom (opposite port) h.pkt then
            let s1 := (s.onRouter x y (fun r => r.useDyn port s.cycle h.pkt.payload.length key)).mcKeep x y { h1 with await := port :: h1.await }
            .next (s1.crossEcc u v h.pkt ecc (fun s q => s.mcEnter u v (opposite port) q (s.cycle + 2 + crossing x y port)))
          else .next s

/-- The hold limit in force (R158). -/
def holdOf (w : Word) : Nat := max 256 (fld w 15 0)

/-- MC_HOLD_EXPIRY: a branch that has not accepted within the hold limit is dropped (R152). -/
def execMcHoldExpiry (x y t port : Nat) (s : State) : Res :=
  if ! siteOk x y then .fault .noSuchSite
  else if 256 ≤ t || 5 ≤ port then .fault .noSuchPart
  else
    let r := s.router x y
    match r.mcOpen t port with
    | none => .next s
    | some h =>
      if s.cycle < h.since + holdOf r.mcHold then .next s
      else .next ((s.mcDrop x y h port).mcKeep x y { h with open_ := h.open_.erase port, drops := h.drops + 1 })

/-! ### Peer lanes at the V port (R291, R297, R302) -/

/-- Port and lane of a link-lane G-site (R21, R291). -/
def laneNo (x y : Nat) : Option (Nat × Nat) :=
  (laneAt x y).map (fun q => (y / 48 / 2, 48 * (y / 48 % 2) + 4 * (x / 48) + q))

/-- A packet at the V port of a link-lane G-site: onto the lane under its credits, or answered LINK_DOWN while the lane is out of
service; a response is then discarded. None while it must wait. -/
def State.toLane (s : State) (x y : Nat) (p : Packet) : Option State :=
  match laneNo x y with
  | none => none
  | some (k, n) =>
    let l := s.lane k n
    if p.mc then some (s.onRouter x y (fun r => r.count 8))
    else if l.state ≠ .up then
      if p.isReq then some (s.inject x y [p.fault s.myMod x y portV codeLinkDown 0])
      else some (s.onRouter x y (fun r => r.count 8))
    else if lgetD l.credits p.cls 0 < p.size then none
    else if p.isReq && decide (512 ≤ l.reqs.length) then none
    else
      let rec_ : LaneReq := { x := p.srcX, y := p.srcY, port := p.srcPort, tag := p.tag }
      some (s.onLane k n (fun l => { l with tx := l.tx ++ p.flits, credits := lset l.credits p.cls (lgetD l.credits p.cls 0 - p.size),
                                            reqs := if p.isReq then l.reqs ++ [rec_] else l.reqs }))

/-! ### PACKET_INJECT -/

/-- PACKET_INJECT: the oldest packet waiting at port `port` of the router is resolved once and injected (R138, R141), or answered
FAB_FENCED_TARGET, REASON 3 (R172). -/
def execPacketInject (x y port : Nat) (ecc : LinkEcc) (s : State) : Res :=
  if ! siteOk x y then .fault .noSuchSite
  else if 6 ≤ port then .fault .noSuchPart
  else
    let r := s.router x y
    match takeFirst (fun (p : Packet) => p.srcPort = port) r.inject with
    | none => .next s
    | some (p, rest) =>
      let link := if port = portL then 5 else 6 + port
      if ! s.routerUp x y then .next s
      else if p.mc then
        if r.vcRoom port p && r.linkFree link s.cycle && r.tailOf link = 0 then
          .next ((s.onRouter x y (fun r => ({ r with inject := rest } : Router).useLink link s.cycle p.payload.length)).crossEcc x y p ecc
            (fun s q => s.mcEnter x y port q (s.cycle + 2)))
        else .next s
      else match destOf s x y port p with
        | .refused =>
          let s1 := s.onRouter x y (fun r => { r with inject := rest })
          if p.isReq then
            let f := p.fault s.myMod x y port fabFencedTarget 3
            let back := fun (r : Router) => if p.srcMod = s.myMod then { r with arrived := r.arrived ++ [(port, f)] }
              else { r with inject := r.inject ++ [f] }
            .next (s1.onRouter x y (fun r => (back r).count 0))
          else .next (s1.onRouter x y (fun r => r.count 8))
        | .to u v q =>
          if r.vcRoom port p && r.linkFree link s.cycle && r.tailOf link = 0 then
            .next ((s.onRouter x y (fun r => ({ r with inject := rest } : Router).useLink link s.cycle p.payload.length)).takeHop x y port
              { p with dstX := u, dstY := v, dstPort := q } (s.cycle + 2) ecc)
          else .next s

/-! ### PACKET_HOP -/

/-- PACKET_HOP: the header at the head of a buffer moves to the next router by XY or detour rules, or is answered or discarded
(R142-R144, R149). -/
def execPacketHop (x y port vc : Nat) (ecc : LinkEcc) (s : State) : Res :=
  if ! siteOk x y then .fault .noSuchSite
  else if 6 ≤ port || 8 ≤ vc then .fault .noSuchPart
  else
    match (s.router x y).vcHead port vc s.cycle with
    | none => .next s
    | some (f, rest) =>
      if ! s.routerUp x y then .next s
      else
        let s1 := s.onRouter x y (fun r => { r with bufs := rest })
        match wayOf s x y f.tabs f.pkt with
        | .eject _ => .next s
        | .answer p code reason =>
          let s2 := if p.detour && ! f.pkt.detour then s1.onRouter x y (fun r => r.count 1) else s1
          .next (s2.bounce x y p code reason p.detour)
        | .send q p switched =>
          match beyond x y q with
          | none => .next s
          | some (u, v) =>
            let key := 8 * port + vc
            if s.dynGo x y q key && s.routerUp u v && (s.router u v).vcRoom (opposite q) p then
              let s2 := s1.onRouter x y (fun r => (if switched then r.count 1 else r).useDyn q s.cycle p.payload.length key)
              .next (s2.takeHop u v (opposite q) p (s.cycle + 2 + crossing x y q + (if switched then 2 else 0)) ecc)
            else .next s

/-! ### PACKET_EJECT -/

/-- A response whose epoch is not the cell's (R154). -/
def staleRsp (c : Cell) (p : Packet) : Bool := p.dstPort = portL && p.cls = clsRsp && p.op ≤ opSyncrsp && p.tag / 1024 % 4 ≠ c.epoch.toNat

/-- PACKET_EJECT: the packet at the head of a buffer leaves at its destination: through the checks of its last link, its fence, and for a
response the epoch; the V port of a link-lane site leads onto the lane, and that of a fenced P-cell in paired service onward to the
pair (R140, R150). -/
def execPacketEject (x y port vc : Nat) (ecc : LinkEcc) (s : State) : Res :=
  if ! siteOk x y then .fault .noSuchSite
  else if 6 ≤ port || 8 ≤ vc then .fault .noSuchPart
  else
    let r := s.router x y
    match r.vcHead port vc s.cycle with
    | none => .next s
    | some (f, rest) =>
      match wayOf s x y f.tabs f.pkt with
      | .send _ _ _ => .next s
      | .answer _ _ _ => .next s
      | .eject p =>
        let s1 := s.onRouter x y (fun r => { r with bufs := rest })
        if ! s.routerUp x y || decide (s.cycle < f.ready + 2 + p.payload.length) then .next s
        else if p.dstPort = portV && (laneAt x y).isNone && r.body && r.pair then
          .next (s.onRouter x y (fun r => { r with bufs := rest ++
            [{ f with pkt := { p with dstX := pairX x }, tabs := s.lookups x y { p with dstX := pairX x } }] }))
        else if ecc = .headerBad then .next ((s1.onRouter x y (fun r => r.count 5)).routerReport x y 0 0xFF 1)
        else
          let s2 := if ecc = .corrected then s1.onRouter x y (fun r => r.count 4) else s1
          if p.damaged || ecc = .payloadBad || ! opKnown p.op then
            .next ((s2.onRouter x y (fun r => r.count 3)).routerReport x y 0 0xFF 0)
          else match fenceOf { r with fence := s.fenceWord x y } x y p with
            | some (code, reason) => .next (s2.bounce x y p code reason false)
            | none =>
              if p.dstPort = portV && (laneAt x y).isSome then
                match s2.toLane x y p with
                | some t => .next t
                | none => .next s
              else if p.dstPort = portL && staleRsp (s.cell x y) p then .next (s2.onRouter x y (fun r => r.count 9))
              else if p.dstPort = portL && (s.cell x y).gated then .next s
              else if ! s.ejectGo x y p.dstPort (8 * port + vc) then .next s
              else
                .next (s2.onRouter x y (fun r => ({ r with arrived := r.arrived ++ [(p.dstPort, p)] } : Router).useDyn
                  (ejectLink p.dstPort) s.cycle p.payload.length (8 * port + vc)))

/-! ### Link failure (R142, R157) -/

/-- LINK_ALIVE_LOSS: no link-alive signal from the router beyond a port: DOWN is set for the port. In part DEDUCED, log 38. -/
def execLinkAliveLoss (x y port : Nat) (s : State) : Res :=
  if ! siteOk x y then .fault .noSuchSite
  else if 4 ≤ port then .fault .noSuchPart
  else match beyond x y port with
    | none => .next s
    | some (u, v) =>
      if s.routerUp x y && ! s.routerUp u v then .next (s.onRouter x y (fun r => { r with linkDown := setBit r.linkDown port true }))
      else .next s

end Sys2Proof.Machine
end

