-- ==== Sys2Proof/Machine/SlotsM.lean ====
section
/-!
DEFINITION. Slot firings of M-cells: SREAD, SWRITE and the DMA (R49, R94, R96, R415).
-/
namespace Sys2Proof.Machine

/-- SREAD (R49, R94). -/
def execSread (x y n : Nat) (s : State) : Res := s.fire x y n (isOf .m 0x01) (bodyLoad (cellAddr s.myMod x y) n 4)

/-- SWRITE (R49, R96). -/
def execSwrite (x y n : Nat) (s : State) : Res := s.fire x y n (isOf .m 0x02) (bodyStore (cellAddr s.myMod x y) n)

/-- The items of tile number `t` of a descriptor's walk. -/
def tilePoses (d : Desc) (t : Nat) : List Pos := (List.range d.tileSteps).map (fun i => d.pos (t * d.tileSteps + i) 0)

/-- Where a descriptor's bytes lie: LOCAL addresses as they are, DEVICE ones from the device address of the item (R87). -/
def spaceBase (d : Desc) (dev : Dword) : Nat := if d.space = 2 then dev.toNat / 64 * 64 else 0

/-- Bytes of the source tile with a live element (R415). -/
def dmaSrc (c : Cell) (d : Desc) (t : Nat) : List Nat :=
  (tilePoses d t).flatMap (fun p => (liveAddrs d.fmt (d.itemAddr p) (liveMask d (c.maskOf d) p)).filter (fun a =>
    a < d.base + d.bound))

/-- The bytes a DMA writes: live elements of the destination tile, from the source tile's bytes, +0 where the source element is
masked; FP4 and FP6 merge with what LOCAL storage holds (R96, R415). -/
def dmaDst (c : Cell) (m : Dma) : List Host.Cell :=
  let sd := c.desc m.srcDesc
  let dd := c.desc m.dstDesc
  let so := spaceBase sd m.srcAddr
  ((tilePoses sd m.srcTile).zip (tilePoses dd m.dstTile)).flatMap (fun pq =>
    let ls := liveMask sd (c.maskOf sd) pq.1
    let ld := liveMask dd (c.maskOf dd) pq.2
    let sa := sd.itemAddr pq.1
    let da := dd.itemAddr pq.2
    let src := maskItem sd.fmt ls (itemOf ((span (so + sa) (isz sd.fmt)).map (fun a => (tget m.buf a).getD 0)))
    let old := if dd.space = 2 then 0 else itemOf (c.data.read da (isz dd.fmt))
    let new := packItem dd.fmt ((List.range (epi dd.fmt)).map (fun k => elem dd.fmt (if ld.testBit k then src else old) k))
    ((liveAddrs dd.fmt da ld).filter (fun a => a < dd.base + dd.bound)).map (fun a => (a, itemByte new (a - da))))

/-- Listed bytes in rising order, the last write of a byte kept. -/
def orderCells (l : List Host.Cell) : List Host.Cell := l.foldl (fun t p => tset t p.1 p.2) []

/-- The writes of a DMA whose bytes are all read: LOCAL ones are done at once, DEVICE ones are sent (R415). -/
def dmaIssue (m x y : Nat) (c : Cell) (t : Dma) : Cell × List Packet :=
  let l := orderCells (dmaDst c t)
  let dd := c.desc t.dstDesc
  if dd.space = 2 then
    let off := spaceBase dd t.dstAddr
    let ws := writeRuns (l.map (fun p => (p.1 + off, p.2)))
    let r := sendAll c ws (fun c v => c.request m x y t.slot t.opId .dmaWrite (dword (64 * v.1)) opWr clsReq (dword v.2.2.1)
      (bytesFlits (2 * v.2.1) v.2.2.2))
    ({ r.1 with dmas := r.1.dmas ++ [{ t with issued := true, writes := ws.length, bytes := l.length }] }, r.2)
  else
    ({ c.store (l.filter (fun p => p.1 < storeSize .m)) with
              dmas := c.dmas ++ [{ t with issued := true, writes := 0, bytes := l.length }] }, [])

/-- An uncorrectable word that a LOCAL write of a transfer would change in part (R183). In part DEDUCED, log 40. -/
def dmaHit (c : Cell) (t : Dma) : Option Nat :=
  if (c.desc t.dstDesc).space = 2 then none else partialBad c.data ((orderCells (dmaDst c t)).filter (fun p => p.1 < storeSize .m))

/-- The DMA firing: the next tile of each descriptor; its reads go out, or the LOCAL source is read at once. -/
def bodyDma (m x y n : Nat) (_ : Cls) (c : Cell) (_ : Plan) : Fired :=
  let w := c.slot n
  let it := c.headItem (sSrc0 w)
  let si := sOpa w % 128
  let di := sOpb w % 128
  let sd := c.desc si
  let o := { opOf c n (c.pulse + 1) (outsOf (dstQs w) 0) with fixed := false, waiting := true }
  let t : Dma := { opId := o.id, slot := n, srcDesc := si, dstDesc := di, srcAddr := dword (itemLe it 0 8),
                   dstAddr := dword (itemLe it 8 8), srcTile := c.walkPos si / sd.tileSteps,
                   dstTile := c.walkPos di / (c.desc di).tileSteps, number := (c.run n).count, buf := [], reads := 0, writes := 0,
                   issued := false, bytes := 0 }
  let bytes := dmaSrc c sd t.srcTile
  let c1 := ((c.addOp o).advance si sd.tileSteps).advance di (c.desc di).tileSteps
  if sd.space = 2 then
    let rs := runs4 (granules (bytes.map (fun a => a + spaceBase sd t.srcAddr)))
    if rs = [] then
      match dmaHit c1 t with
      | some b => firedBad c n (cellAddr m x y (8 * b))
      | none =>
        let q := dmaIssue m x y c1 t
        { cell := q.1, sends := q.2, frz := none, taken := true }
    else
      let r := sendAll c1 rs (fun c v => c.readReq m x y n o.id .dmaRead (dword (64 * v.1)) v.2)
      { cell := { r.1 with dmas := r.1.dmas ++ [{ t with reads := rs.length }] }, sends := r.2, frz := none, taken := true }
  else
    match c.seen.badWord bytes with
    | some b => firedBad c n (cellAddr m x y (8 * b))
    | none =>
      let t1 := { t with buf := orderCells (bytes.map (fun a => (a, c.seen.byte a))) }
      match dmaHit c1 t1 with
      | some b => firedBad c n (cellAddr m x y (8 * b))
      | none =>
        let q := dmaIssue m x y (c1.healed bytes) t1
        { cell := q.1, sends := q.2, frz := none, taken := true }

/-- DMA (R415). -/
def execDma (x y n : Nat) (s : State) : Res := s.fire x y n (isOf .m 0x03) (bodyDma s.myMod x y n)

/-- The completion item of a transfer (R415): bytes 8-15 hold a device address, in LOCAL space that of the cell's own storage; `at_` gives
it for an offset there. -/
def dmaItem (at_ : Nat → Dword) (c : Cell) (t : Dma) : Item :=
  let dd := c.desc t.dstDesc
  let first := dd.tileAddr (dd.pos (t.dstTile * dd.tileSteps) 0)
  itemOf (leBytes 4 t.bytes ++ leBytes 4 t.number ++
    leBytes 8 (if dd.space = 2 then spaceBase dd t.dstAddr + first else (at_ first).toNat))

/-- DMA_COMPLETION: once the oldest transfer of slot `n` has every write acknowledged, its completion item is written to the
promised places (R194, R415). -/
def execDmaCompletion (x y n : Nat) (s : State) : Res :=
  if ! siteOk x y then .fault .noSuchSite
  else if 64 ≤ n then .fault .noSuchPart
  else
    let c := s.cell x y
    match takeFirst (fun (t : Dma) => t.slot = n && t.issued && t.writes = 0) c.dmas with
    | none => .next s
    | some (t, rest) =>
      match takeFirst (fun (o : Op) => o.id = t.opId) c.ops with
      | none => .next s
      | some (o, ops) =>
        if o.outs.any (fun p => (c.queue p.1).lastPut = some c.pulse) then .next s
        else
          let it := dmaItem (cellAddr s.myMod x y) c t
          .next (s.setCell x y (o.outs.foldl (fun c p => c.push .m p.1 it) { c with dmas := rest, ops := ops }))

end Sys2Proof.Machine
end

