-- ==== Sys2Proof/Machine/Targets.lean ====
section
/-!
DEFINITION. Packets at their destination (R137, R149, R162-R164, R168, R173-R183, R193, R194): reads, writes, management,
responses, multicast reports, and the transfer timeout (R261).
-/
namespace Sys2Proof.Machine

/-- The first packet with operation `op` that has arrived at a port, when it is the oldest request or response there, is taken
and given its effect; none: the command finds nothing to do. -/
def State.atPort (s : State) (x y port op : Nat) (f : State → Packet → Option State) : Res :=
  if ! siteOk x y then .fault .noSuchSite
  else if 7 ≤ port then .fault .noSuchPart
  else
    let isRsp := op = opRdata || op = opWrack || op = opFault || op = opSyncrsp || op = opMcMiss || op = opMcDone
    match (if isRsp then headRsp (s.router x y) port else s.turnReq x y port) with
    | none => .next s
    | some (p, r) =>
      if p.op ≠ op then .next s
      else match f (s.onRouter x y (fun _ => r)) p with
        | some t => .next (t.noteTurn x y port p)
        | none => .next s

/-- The site that an address of cell or UNIT 0 management space names; of a tower address, one of its field. -/
def addrSite (a : Dword) : Nat × Nat := if fld a 61 58 = 1 then pSite (fld a 47 40) 0 else (fld a 57 48, fld a 47 38)

/-- A record of an uncorrectable word met by a reader outside a cell (R183, R368), counted (R238). In part DEDUCED, log 39. -/
def State.memUe (s : State) (a : Dword) : State :=
  (s.fwLog { recOf 0x23 .firmware with code := memUncorrectable, addr := a }).countAt (addrSite a).1 (addrSite a).2 3 1

/-- A request that reads an uncorrectable word, or writes part of one, is answered with MEM_UNCORRECTABLE (R183). The report of a
requesting cell of this module is its record; for another requester firmware writes one. In part DEDUCED, log 39. -/
def State.memFault (s : State) (x y port : Nat) (p : Packet) (a : Dword) : State :=
  let s1 := s.inject x y [p.fault s.myMod x y port memUncorrectable 0]
  if p.srcMod = s.myMod ∧ p.srcPort = portL then s1 else s1.memUe a

/-- The packet comes from a bridge landing (R174). -/
def fromBridge (p : Packet) : Bool :=
  match landingOf p.srcX p.srcY with
  | some (_, q) => p.srcPort = q
  | none => false

/-- Bytes that a write names, as listed bytes from `a` on: under byte enables when it is one granule (R137). -/
def writeCells (p : Packet) (a : Nat) : List Host.Cell :=
  cellsUnder a (fun k => p.payload.length ≠ 2 || p.arg.getLsbD k) (flitsBytes p.payload)

/-- Bytes from the first of a write to the last that it names. -/
def writeExtent (p : Packet) : Nat := (writeCells p 0).foldl (fun m v => max m (v.1 + 1)) 0

/-! ### Host windows (R272, R284) -/

/-- First and last byte of a valid host window. -/
def hwinOf (b : Bridge) (n : Nat) : Option (Nat × Nat) :=
  let lo := tgetD b.hwin (4 * n) 0
  if bitB lo 0 then
    some (fld (tgetD b.hwin (4 * n + 1) 0) 15 0 * 2 ^ 32 + fld lo 31 12 * 4096,
      fld (tgetD b.hwin (4 * n + 3) 0) 15 0 * 2 ^ 32 + fld (tgetD b.hwin (4 * n + 2) 0) 31 12 * 4096 + 4095)
  else none

/-- [a, a + n) lies in one valid host window. -/
def inWindow (b : Bridge) (a n : Nat) : Bool :=
  (List.range 16).any (fun w => match hwinOf b w with
    | some (lo, hi) => lo ≤ a && a + n ≤ hi + 1
    | none => false)

/-- The host address of a host-space request of `n` bytes: through an output window of the active run when it is window-relative
(R284), else as it stands; none when it is refused. The flag says that it counts as output. -/
def State.hostAddr (s : State) (h ha n : Nat) : Option (Nat × Bool) :=
  let b := s.bridge h
  if ha / 2 ^ 44 = 0xF then
    match (s.part h).active with
    | none => none
    | some a =>
      let k := ha / 2 ^ 40 % 16
      let o := ha % 2 ^ 40
      match (a.run.wins.drop a.run.nin)[k]? with
      | some w => if o + n ≤ w.2 ∧ inWindow b (w.1 + o) n then some (w.1 + o, true) else none
      | none => none
  else if inWindow b ha n then some (ha, false) else none

/-! ### RD and RDATA -/

/-- A read of a cell's data storage (R162). -/
def rdCell (s : State) (x y : Nat) (p : Packet) : State :=
  let c := s.cell x y
  let a := fld p.dest 18 0
  let addrs := span a p.bytes
  let s1 := s.setCell x y { c with data := c.data.heal addrs, eccFixed := c.eccFixed + (c.data.weakOf addrs).length }
  match c.data.badWord addrs with
  | some w => s1.memFault x y portL p (cellAddr s.myMod x y (8 * w))
  | none => s1.inject x y [p.answer s.myMod x y portL opRdata (bytesFlits (p.bytes / 32) (c.data.read a p.bytes))]

/-- A read of a tower channel: from a bridge landing at the host visibility point, else through the posted write buffer (R173,
R174). -/
def rdTower (s : State) (x y : Nat) (p : Packet) : Option State :=
  let f := fld p.dest 47 40
  let q := s.field f
  if ! towerUp q then none
  else
    let o := chanOff (fld p.dest 32 0)
    let c := s.cell x y
    let raw := chanWords o.1 o.2 p.bytes
    let dram := if fromBridge p then raw else dramBytes c.pc.pwb o.1 (span o.2 p.bytes)
    let bytes := if fromBridge p then chanRaw q.tower o.1 o.2 p.bytes
      else (span o.2 p.bytes).map (pwbByte q.tower c.pc.pwb o.1)
    let bad := (wordsOf dram).filter (fun w => q.tower.bad.contains w)
    let held := if fromBridge p then [] else (span o.2 p.bytes).filter (pwbBad c.pc.pwb o.1)
    let s1 := (s.setCell x y ((c.pcCount 6 (q.tower.weakOf raw).length).pcCount 7 bad.length)).onField f (fun v =>
      { v with tower := v.tower.heal raw })
    match bad ++ wordsOf (held.map (towerOff o.1)) with
    | w :: _ => some (s1.memFault x y portV p (towerAddr s.myMod f (8 * w)))
    | [] => some (s1.inject x y [p.answer s.myMod x y portV opRdata (bytesFlits (p.bytes / 32) bytes)])

/-- A write that entered the coalescer before is still there with one of these bytes (R188). -/
def Bridge.holds (b : Bridge) (a n : Nat) : Bool := b.egress.any (fun e => e.bytes.any (fun v => decide (a ≤ v.1 ∧ v.1 < a + n)))

/-- A read of host space at its landing: recorded until the host's completion arrives, or refused (R155, R272). It waits for the push of
an earlier write of one of its bytes (R188). -/
def rdHost (s : State) (x y port : Nat) (p : Packet) : Option State :=
  match landingOf x y with
  | none => none
  | some (h, q) =>
    if q ≠ port then none
    else match s.hostAddr h (fld p.dest 47 0) p.bytes with
      | none => some (s.bounce x y p fabFencedTarget 3 false)
      | some (a, _) => if (s.bridge h).holds a p.bytes then none
        else some (s.onBridge h (fun b =>
          { b with hostReads := b.hostReads ++ [{ hostTag := b.nextHostTag, pkt := p }], nextHostTag := b.nextHostTag + 1 }))

/-- RD: answered with RDATA or FAULT. -/
def execRd (x y port : Nat) (s : State) : Res :=
  s.atPort x y port opRd (fun s p =>
    if port = portL then some (rdCell s x y p)
    else if port = portV then rdTower s x y p
    else rdHost s x y port p)

/-- Requests without the one answered. -/
def Cell.dropReq (c : Cell) (tag : Nat) : Cell := { c with reqs := c.reqs.filter (fun r => r.tag ≠ tag) }

/-- A request ends without its answer: the op or transfer that waits for it never completes (R194). -/
def Cell.abandon (c : Cell) (r : Req) : Cell :=
  let c1 := c.dropReq r.tag
  { c1 with ops := c1.ops.filter (fun o => o.id ≠ r.opId || ! o.waiting), dmas := c1.dmas.filter (fun t => t.opId ≠ r.opId) }

/-- Bytes that have arrived, into a transfer's buffer. -/
def Dma.fill (t : Dma) (a : Nat) (bytes : List Byte) : Dma :=
  { t with buf := (cellsAt a bytes).foldl (fun b p => tset b p.1 p.2) t.buf, reads := t.reads - 1 }

/-- Read data for an engine: a DMA's buffer, staging, or a span's history record (R108, R120, R415). What comes for a span that has
closed, a group that was fetched and found dead, is dropped (R123, R124). -/
def rdataTo (m x y : Nat) (c : Cell) (r : Req) (bytes : List Byte) : Cell × List Packet :=
  let c1 := c.dropReq r.tag
  match r.kind with
  | .dmaRead =>
    match takeFirst (fun (t : Dma) => t.opId = r.opId) c1.dmas with
    | none => (c1, [])
    | some (t, rest) =>
      let t1 := t.fill r.dest.toNat bytes
      if t1.reads = 0 then dmaIssue m x y { c1 with dmas := rest } t1
      else ({ c1 with dmas := c1.dmas.map (fun v => if v.opId = t.opId then t1 else v) }, [])
  | .fetch off _ none _ =>
    let d := c1.desc (sOpa (c1.slot r.slot) % 128)
    let l := (List.range bytes.length).map (fun k => (d.base + (off + k) % max d.bound 1, lgetD bytes k 0))
    ({ c1 with data := c1.data.write l }, [])
  | .fetch off _ (some k) g =>
    if c1.gc.spans.all (fun p => p.num ≠ k) then (c1, [])
    else
      let c2 := { c1 with data := c1.data.write (cellsAt off bytes) }
      (c2.onG (fun e => { e with spans := e.spans.map (fun p =>
        if p.num = k then { p with missing := tset p.missing g (tgetD p.missing g 0 - 1) } else p) }), [])
  | .histRead k =>
    match c1.gc.spans.find? (fun p => p.num = k) with
    | none => (c1, [])
    | some p =>
      let a := (c1.gc.histBase.toNat / 16 * 16 + 16 * p.hist) % 64
      planSpan m x y c1 p (BitVec.ofNat 128 (leAt bytes a 16))
  | _ => (c1, [])

/-- The request of a cell that a response answers. -/
def Cell.reqOf (c : Cell) (p : Packet) : Option Req := c.reqs.find? (fun r => r.tag = p.tag)

/-- An uncorrectable word that the last read of a transfer would have its LOCAL writes change in part (R183). -/
def rdataHit (c : Cell) (r : Req) (bytes : List Byte) : Option Nat :=
  match r.kind, takeFirst (fun (t : Dma) => t.opId = r.opId) c.dmas with
  | .dmaRead, some (t, _) =>
    let t1 := t.fill r.dest.toNat bytes
    if t1.reads = 0 then dmaHit c t1 else none
  | _, _ => none

/-- RDATA: read data arrives at the requester. Data for a bridge or the helm is theirs. -/
def execRdata (x y port : Nat) (s : State) : Res :=
  s.atPort x y port opRdata (fun s p =>
    if port = portL then
      let c := s.cell x y
      match c.reqOf p with
      | none => some s
      | some r =>
        match rdataHit c r (flitsBytes p.payload) with
        | some b => some ((s.setCell x y (c.abandon r)).freezeCell x y memUncorrectable r.slot 0 (cellAddr s.myMod x y (8 * b)))
        | none =>
          let t := rdataTo s.myMod x y c r (flitsBytes p.payload)
          some ((s.setCell x y t.1).inject x y t.2)
    else some s)

/-! ### WR and WRACK -/

/-- A write of a cell's data storage (R162, R193). -/
def wrCell (s : State) (x y : Nat) (p : Packet) : State :=
  let c := s.cell x y
  let l := writeCells p (fld p.dest 18 0)
  match partialBad c.data l with
  | some w => s.memFault x y portL p (cellAddr s.myMod x y (8 * w))
  | none => (s.setCell x y { c with data := c.data.write l, eccFixed := c.eccFixed + (c.data.weakPartial l).length }).inject x y
      [p.answer s.myMod x y portL opWrack []]

/-- A write of a tower channel. From a bridge landing: at the host visibility point, once no posted-write entry holds the same
granule, which counts as an acknowledgement there (R174, R178). From any other source: into the posted write buffer, when it has room; acknowledged then in a cell-scope page, at
the host visibility point in a host-scope page (R173, R180). -/
def wrTower (s : State) (x y : Nat) (p : Packet) : Option State :=
  let f := fld p.dest 47 40
  let o := chanOff (fld p.dest 32 0)
  let c := s.cell x y
  let l := writeCells p o.2
  let gs := granules (l.map (·.1))
  if fromBridge p then
    let q := s.field f
    if ! towerUp q || c.pc.pwb.any (fun e => e.chan = o.1 && gs.contains e.granule) then none
    else
      let t := chanCells o.1 l
      match partialBad q.tower t with
      | some w => some ((s.setCell x y (c.pcCount 7 1)).memFault x y portV p (towerAddr s.myMod f (8 * w)))
      | none => some (((s.setCell x y ((c.pcCount 6 (q.tower.weakPartial t).length).pcCount 5 1)).onField f (fun v =>
          { v with tower := v.tower.write t })).inject x y [p.answer s.myMod x y portV opWrack []])
  else if 16 < c.pc.pwb.length + gs.length then none
  else
    let host := hostScope c o.2
    let who := (p.srcMod, p.srcX, p.srcY, p.srcPort, p.tag)
    let s1 := s.setCell x y { c with pc := { c.pc with pwb := c.pc.pwb ++ pwbOf o.1 l (if host then some who else none) none } }
    if host ∧ gs ≠ [] then some s1 else some (s1.inject x y [p.answer s.myMod x y portV opWrack []])

/-- WR: written and acknowledged; host-space writes leave by EGRESS_WRITE. -/
def execWr (x y port : Nat) (s : State) : Res :=
  s.atPort x y port opWr (fun s p =>
    if port = portL then some (wrCell s x y p)
    else if port = portV then wrTower s x y p
    else none)

/-- WRACK: an engine's write is acknowledged (R194); the last of the spill writes lets a waiting drain go on (R129). -/
def execWrack (x y port : Nat) (s : State) : Res :=
  s.atPort x y port opWrack (fun s p =>
    if port = portL then
      let c := s.cell x y
      match c.reqOf p with
      | none => some s
      | some r =>
        let c1 := c.dropReq r.tag
        let s1 := s.setCell x y (if r.kind = .dmaWrite then
          { c1 with dmas := c1.dmas.map (fun t => if t.opId = r.opId then { t with writes := t.writes - 1 } else t) } else c1)
        some (if r.kind = .spill then s1.drainGo x y else s1)
    else some s)

/-! ### FAULT, TRANSFER_TIMEOUT and SYNCRSP -/

/-- FAULT: the requesting cell freezes with the response's code (R55, R194, R226). -/
def execFault (x y port : Nat) (s : State) : Res :=
  s.atPort x y port opFault (fun s p =>
    if port = portL then
      let c := s.cell x y
      match c.reqOf p with
      | none => some s
      | some r =>
        some ((s.setCell x y (c.abandon r)).freezeCell x y p.status r.slot 0 (if p.status = memUncorrectable then r.dest else 0))
    else some s)

/-- The transfer timeout of a field in core cycles: 20 to 1,000 µs (R243). -/
def timeoutOf (w : Word) : Nat := max 20 (min 1000 (fld w 15 0)) * usec

/-- Whether a request is timed: a WAIT_GE is not (R261). -/
def Req.timed (r : Req) : Bool :=
  match r.kind with
  | .sync true _ => false
  | _ => true

/-- TRANSFER_TIMEOUT: the request has had no response for the timeout in unheld time; the requester freezes (R261). -/
def execTransferTimeout (x y tag : Nat) (s : State) : Res :=
  if ! siteOk x y then .fault .noSuchSite
  else
    let c := s.cell x y
    match c.reqs.find? (fun r => r.tag = tag) with
    | none => .next s
    | some r =>
      if r.timed && timeoutOf (s.field (fieldOf x y)).xferTimeout ≤ r.age then
        .next ((s.setCell x y (c.abandon r)).freezeCell x y codeTransferTimeout r.slot 0 0)
      else .next s

/-- Streams that an acquire on a sync index invalidates (R176). In part DEDUCED, log 40. -/
def acquire (c : Cell) (ix : Nat) : Cell :=
  refetch { c with pc := (List.range 8).foldl (fun p n =>
    if strmValid (c.strm n) ∧ strmSync (c.strm n) ∧ strmIx (c.strm n) = ix then p.invalidate n else p) c.pc }

/-- The response item written to the promised places of its op (R48, R206). -/
def syncDone (k : Cls) (c : Cell) (r : Req) (it : Item) : Option Cell :=
  let c1 := c.dropReq r.tag
  match c1.ops.find? (fun o => o.id = r.opId) with
  | none => some c1
  | some o =>
    if o.outs.any (fun p => (c1.queue p.1).lastPut = some c1.pulse) then none
    else
      let c2 := o.outs.foldl (fun c p => c.push k p.1 it) { c1 with ops := c1.ops.filter (fun v => v.id ≠ o.id) }
      match r.kind with
      | .sync true _ => some (if k = .p then acquire c2 (fld r.dest 15 0) else c2)
      | _ => some c2

/-- SYNCRSP: the response item is written, or a PENDING response starts the wait of WAIT_RESEND (R206). -/
def execSyncrsp (x y port : Nat) (s : State) : Res :=
  s.atPort x y port opSyncrsp (fun s p =>
    if port = portL then
      let c := s.cell x y
      let it := lgetD p.payload 0 0
      match c.reqOf p with
      | none => some s
      | some r =>
        if itemByte it 11 ≠ 0 then
          some (s.setCell x y { c with reqs := c.reqs.map (fun q => if q.tag = r.tag then { q with resend := some s.cycle } else q) })
        else (syncDone (clsOf x y) c r it).map (fun c1 => s.setCell x y c1)
    else some s)

/-! ### MWR and MRD (R137, R168, R169) -/

/-- Bytes of a store access that lie in the slot and configuration store of a cell. -/
def inStore (u : Unit_) (off : Nat) : Bool :=
  match u with
  | .site _ _ => off < 0x2000
  | _ => false

/-- MWR at a cell, a router, a base die or the helm's report window. -/
def mwrAt (s : State) (x y port : Nat) (p : Packet) : Option State :=
  let off := fld p.dest 15 0
  let u := unitOf p.dest
  let n := p.payload.length
  let en := fun k => n ≠ 1 || p.arg.getLsbD k
  let ack := p.answer s.myMod x y port opWrack []
  if port = portN ∧ helmLanding x y then
    some ((s.onHelm (fun h => { h with reports := h.reports ++ [(s.cycle, p)] })).inject x y [ack])
  else if port = portL ∧ inStore u off then
    let c := s.cell x y
    let whole := storeWhole off (32 * n) en
    match (storeWords off (32 * n)).find? (fun w => c.storeBad.contains w && ! whole.contains w &&
        (List.range 8).any (fun j => off ≤ 8 * w + j && 8 * w + j < off + 32 * n && en (8 * w + j - off))) with
    | some w => some (s.memFault x y port p (mgmtAddr s.myMod x y 0 (8 * w)))
    | none =>
      some (((s.setCell x y { c with storeBad := c.storeBad.filter (fun w => ! whole.contains w) }).mgmtWrite u off (32 * n) en
        (flitsBytes p.payload)).inject x y [ack])
  else if port = portL then some ((s.cellWrite x y p).inject x y [ack])
  else if port = portR ∨ port = portV then some ((s.mgmtWrite u off (32 * n) en (flitsBytes p.payload)).inject x y [ack])
  else none

def execMwr (x y port : Nat) (s : State) : Res := s.atPort x y port opMwr (fun s p => mwrAt s x y port p)

/-- MRD: the registers as they read, and what reading them does. -/
def mrdAt (s : State) (x y port : Nat) (p : Packet) : Option State :=
  let off := fld p.dest 15 0
  let u := unitOf p.dest
  let n := fld p.arg 2 0 + 1
  if port = portN ∧ helmLanding x y then none
  else
    let bad := if inStore u off then (storeWords off (32 * n)).find? (fun w => (s.cell x y).storeBad.contains w) else none
    match bad with
    | some w => some (s.memFault x y port p (mgmtAddr s.myMod x y 0 (8 * w)))
    | none =>
      let r := (List.range (8 * n)).foldl (fun (a : State × List Byte) k =>
        (a.1.noteUnit u (off + 4 * k), a.2 ++ wordBytes (a.1.readUnit u (off + 4 * k)))) (s, [])
      some (r.1.inject x y [p.answer s.myMod x y port opRdata (bytesFlits n r.2)])

def execMrd (x y port : Nat) (s : State) : Res := s.atPort x y port opMrd (fun s p => mrdAt s x y port p)

/-! ### MC_MISS and MC_DONE (R152, R153) -/

/-- Targets of a tree: routers that deliver locally, in ascending field index, then y, then x (R153). -/
def mcTargets (s : State) (t : Nat) : List (Nat × Nat) :=
  let l := (s.routers.filter (fun v => mtValid (tgetD v.2.mcTree t 0) && mtLocal (tgetD v.2.mcTree t 0))).map (fun v => (v.1 % 576, v.1 / 576))
  sortBy (fun a b => fieldOf a.1 a.2 < fieldOf b.1 b.2 || (fieldOf a.1 a.2 = fieldOf b.1 b.2 && (a.2 < b.2 || (a.2 = b.2 && a.1 ≤ b.1)))) l

/-- Routers of a tree at and below (x, y). -/
def mcBelow (s : State) (t : Nat) : Nat → Nat → Nat → List (Nat × Nat)
  | 0, _, _ => []
  | n + 1, x, y =>
    let w := tgetD (s.router x y).mcTree t 0
    if ! mtValid w then []
    else (x, y) :: ((List.range 4).filter (mtBranch w)).flatMap (fun p => match beyond x y p with
      | some (u, v) => mcBelow s t n u v
      | none => [])

/-- Numbers of the targets missed by dropped branches (R153). -/
def mcMissed (s : State) (t : Nat) (drops : List (Nat × Nat × Nat)) : List Nat :=
  let gone := drops.flatMap (fun d => if d.2.2 = portL then [(d.1, d.2.1)] else match beyond d.1 d.2.1 d.2.2 with
    | some (u, v) => mcBelow s t 331776 u v
    | none => [])
  let ts := mcTargets s t
  (List.range ts.length).filter (fun k => gone.contains (lgetD ts k (0, 0)))

/-- Records of up to three target numbers each (R368 0x0022). -/
def missRecords (t : Nat) : Nat → List Nat → List LogRec
  | 0, _ => []
  | n + 1, l =>
    if l = [] then []
    else { recOf 0x22 .firmware with code := fabMulticastPartial, index := t, detail := (l.take 3).flatMap (leBytes 4) } ::
      missRecords t n (l.drop 3)

/-- The root of a tree: the live helm landing router whose entry names the landing as parent (R258). -/
def State.treeRoot (s : State) (t : Nat) : Option (Nat × Nat) :=
  s.helmLandings.find? (fun v => let w := tgetD (s.router v.1 v.2).mcTree t 0; mtValid w && mtParent w = portN)

/-- No packet is in flight on a tree: the last one has completed (R151). -/
def State.treeFree (s : State) (t : Nat) : Bool :=
  match tget s.helm.mcast t with
  | some v => v.result.isSome && tgetD s.helm.mcWait t [] = []
  | none => true

/-- The helm injects a packet on a tree; without a root there is no tree to send it on. -/
def State.putOnTree (s : State) (t : Nat) (p : Packet) : State :=
  match s.treeRoot t with
  | none => s
  | some v =>
    let q := { p with srcX := v.1, srcY := v.2, srcPort := portN, mc := true, dstX := t, tag := t }
    (s.onHelm (fun h => { h with mcast := tset h.mcast t { pkt := q, done := none, missed := [], result := none, gone := [] } })).inject
      v.1 v.2 [q]

/-- The helm sends a packet on a tree, once the MC_DONE of the one before it there has come (R151). In part DESIGN CHOICE, log 27. -/
def State.sendTree (s : State) (t : Nat) (p : Packet) : State :=
  if s.treeFree t then s.putOnTree t p else s.onHelm (fun h => { h with mcWait := tset h.mcWait t (tgetD h.mcWait t [] ++ [p]) })

/-- The write of CELL_CTRL that run control sends: START is 1, STOP is 2 (R59, R258). -/
def ctrlPkt (m v : Nat) : Packet :=
  { pktOf m 0 0 portN with dest := mgmtAddr m 0 0 0 0, cls := clsMgmt, op := opMwr, arg := 0xF0#64,
                           payload := [itemOf (zeros 4 ++ leBytes 4 v)] }

/-- The live helm landing router of a number modulo their count: X + Y for site (X, Y) of UNIT 0, FIELD for UNIT 1 and 2 (R187). -/
def State.helmVia (s : State) (k : Nat) : Option (Nat × Nat) := s.helmLandings[k % s.helmLandings.length]?

/-- Firmware repairs run control: the packet goes with MC = 0 to each target that missed it, unless another waits for the tree (R258).
In part DESIGN CHOICE, log 27. -/
def State.mcRepair (s : State) (t : Nat) (p : Packet) (gone : List Nat) : State :=
  if t < 8 ∨ 11 < t ∨ tgetD s.helm.mcWait t [] ≠ [] then s
  else
    let ts := mcTargets s t
    gone.foldl (fun s k =>
      let v := lgetD ts k (0, 0)
      match s.helmVia (v.1 + v.2) with
      | some d => s.inject d.1 d.2 [{ p with mc := false, srcX := d.1, srcY := d.2, dstX := 0,
                                             dest := mgmtAddr s.myMod v.1 v.2 0 (fld p.dest 15 0) }]
      | none => s) s

/-- The next packet that waits for a tree. -/
def State.mcNext (s : State) (t : Nat) : State :=
  match tgetD s.helm.mcWait t [] with
  | [] => s
  | p :: rest => (s.onHelm (fun h => { h with mcWait := tset h.mcWait t rest })).putOnTree t p

/-- The sender's multicast completes once MC_DONE has come and as many MC_MISS as it counts (R153). -/
def State.mcSettle (s : State) (t : Nat) (v : McSend) : State :=
  let put := fun (v : McSend) => s.onHelm (fun h => { h with mcast := tset h.mcast t v })
  match v.done with
  | none => put v
  | some n =>
    if n = 0 then (put { v with result := some codeOk }).mcNext t
    else if v.missed.length < n then put v
    else
      let ms := mcMissed s t v.missed
      (((missRecords t ms.length ms).foldl State.fwLog (put { v with result := some fabMulticastPartial, gone := ms })).mcRepair t
        v.pkt ms).mcNext t

/-- MC_MISS: a drop reaches the sender. -/
def execMcMiss (x y port : Nat) (s : State) : Res :=
  s.atPort x y port opMcMiss (fun s p =>
    let t := fld p.arg 15 8
    match tget s.helm.mcast t with
    | none => some s
    | some v => some (s.mcSettle t { v with missed := v.missed ++ [(p.srcX, p.srcY, fld p.arg 2 0)] }))

/-- MC_DONE: a subtree reports to its parent router, or the root to the sender (R152). -/
def execMcDone (x y port : Nat) (s : State) : Res :=
  s.atPort x y port opMcDone (fun s p =>
    let n := fld p.arg 31 0
    if port = portR then
      match (s.router x y).held.find? (fun h => h.pkt.tag = p.tag && h.await.any (fun q => beyond x y q = some (p.srcX, p.srcY))) with
      | none => some s
      | some h =>
        some (s.mcKeep x y { h with drops := h.drops + n, await := h.await.filter (fun q => beyond x y q ≠ some (p.srcX, p.srcY)) })
    else match tget s.helm.mcast p.tag with
      | none => some s
      | some v => some (s.mcSettle p.tag { v with done := some n }))

end Sys2Proof.Machine
end

