-- ==== Sys2Proof/Machine/HostOps.lean ====
section
/-!
DEFINITION. A bridge toward its host: messages and events (R271, R287), gated blocks (R289), posted writes (R195), mailbox slots
(R273, R274), completions and their ring (R264, R280, R281).
-/
namespace Sys2Proof.Machine

/-! ### Posted writes, messages, events -/

/-- In part DESIGN CHOICE, log 49. -/
def Bridge.post (b : Bridge) (addr : Nat) (data : List Byte) : Bridge := { b with posted := b.posted ++ [{ addr := addr, data := data }] }

/-- A vector is masked; the mask bit of vector control is 1 until the host clears it (the PCIe rules of R287). In part PRESUMED, log 14. -/
def vecMasked (b : Bridge) (v : Nat) : Bool := bitB (tgetD b.msixTable (4 * v + 3) 1) 0

/-- The message of a vector: a posted write of the table's data to the table's address. In part DESIGN CHOICE, log 49. -/
def Bridge.send (b : Bridge) (v : Nat) : Bridge :=
  { b.post ((tgetD b.msixTable (4 * v) 0).toNat + (tgetD b.msixTable (4 * v + 1) 0).toNat * 2 ^ 32)
      (wordBytes (tgetD b.msixTable (4 * v + 2) 0)) with msix := b.msix ++ [v] }

/-- MSI-X Enable and Function Mask (R287). In part PRESUMED, log 14. -/
def msixOn (b : Bridge) : Bool := bitB b.msixCtl 15
def msixHeld (b : Bridge) : Bool := bitB b.msixCtl 14

/-- A message: nothing while MSI-X is off; pending while the function or the vector is masked (R287). In part PRESUMED, log 14. -/
def Bridge.message (b : Bridge) (v : Nat) : Bridge :=
  if ! msixOn b then b
  else if msixHeld b || vecMasked b v then { b with msixPending := setBit b.msixPending v true }
  else b.send v

/-- What is pending is sent once nothing masks it (R287). In part PRESUMED, log 14. -/
def Bridge.release (b : Bridge) : Bridge :=
  (List.range 4).foldl (fun b v =>
    if msixOn b && ! msixHeld b && ! vecMasked b v && bitB b.msixPending v then
      ({ b with msixPending := setBit b.msixPending v false } : Bridge).send v
    else b) b

/-- MSI-X Message Control. In part PRESUMED, log 14. -/
def Bridge.writeMsixCtl (b : Bridge) (v : Word) : Bridge := ({ b with msixCtl := v &&& 0x0000C000#32 } : Bridge).release

/-- A bit of BRW_EVT_STATUS becomes set (R271, R287). -/
def Bridge.event (b : Bridge) (k : Nat) : Bridge :=
  if bitB b.evtStatus k then b
  else
    let b1 := { b with evtStatus := setBit b.evtStatus k true }
    if bitB b.evtMask k then b1 else b1.message 1

def evMemUe : Nat := 0
def evCringFull : Nat := 1
def evSlotViolation : Nat := 2
def evLinkDegraded : Nat := 3
def evHdmChanged : Nat := 4
def evCringWindow : Nat := 5

/-! ### Gated blocks (R271, R289): 1 MBX, 2 LOGWIN, 3 IMGWIN, 4 INGRESS, 5 EGRESS, 6 DIGEST -/

def Bridge.clocked (b : Bridge) (k : Nat) : Bool := bitB b.clkEn k

/-- A host access to a gated block is counted and recorded; nothing else happens, and a read returns zeros. -/
def Bridge.gatedHit (b : Bridge) (k : Nat) : Bridge :=
  { b with gatedCount := satInc b.gatedCount, gatedStatus := setBit b.gatedStatus k true }

/-- A command on a host site. -/
def State.onSite (s : State) (h : Nat) (f : State → State) : Res := if 4 ≤ h then .fault .noSuchHostSite else .next (f s)

/-- GATED_ACCESS: a host access to a block whose clock is off. -/
def execGatedAccess (s block : Nat) (write : Bool) (st : State) : Res :=
  if block = 0 ∨ 7 ≤ block then .fault .noSuchPart
  else st.onSite s (fun st => st.onBridge s (fun b =>
    if b.clocked block then b
    else if write then b.gatedHit block else { b.gatedHit block with lastRead := zeros 8 }))

/-- BRW_CTRL.CLR_CNT (R271). -/
def Bridge.clrCnt (b : Bridge) : Bridge := { b with gatedCount := 0, lockedWrites := 0 }

def execBrwClrCnt (s : Nat) (st : State) : Res := st.onSite s (fun st => st.onBridge s Bridge.clrCnt)

/-! ### Mailbox slots (R273) -/

/-- MBX_DOORBELL: the slot is handed to firmware; a doorbell for an owned slot, or with the ring out of use, is a violation. -/
def Bridge.doorbell (b : Bridge) (v : Word) : Bridge :=
  let n := fld v 3 0
  if ! b.clocked 1 then b.gatedHit 1
  else if bitB b.owned n || ! bitB b.cringCfg 31 then b.event evSlotViolation
  else { b with owned := setBit b.owned n true, doorbells := b.doorbells ++ [n] }

def execMbxDoorbell (s : Nat) (v : Word) (st : State) : Res := st.onSite s (fun st => st.onBridge s (fun b => b.doorbell v))

/-- MBX_SLOT_WRITE: bytes of a slot that firmware does not own. -/
def Bridge.slotWrite (b : Bridge) (n off : Nat) (data : List Byte) : Bridge :=
  if ! b.clocked 1 then b.gatedHit 1
  else if bitB b.owned n then b.event evSlotViolation
  else { b with slotBytes := (cellsAt (256 * n + off) data).foldl (fun t p => tset t p.1 p.2) b.slotBytes }

def execMbxSlotWrite (s slot off : Nat) (data : List Byte) (st : State) : Res :=
  if 16 ≤ slot || 256 < off + data.length then .fault .noSuchPart
  else st.onSite s (fun st => st.onBridge s (fun b => b.slotWrite slot off data))

/-! ### Completions (R264, R281) -/

/-- A command's completion (KIND 0). -/
def MbxCmd.completion (c : MbxCmd) (status : Code) (body : List Byte) : Completion :=
  { opcode := c.opcode, version := c.version, kind := 0, tag := c.tag, status := status, orig := 0, slot := c.slot,
    body := padTo 48 body, noIntr := c.flags % 2 = 1 }

/-- The answer to a repeated tag: the kept completion under the repetition's own slot and NO_INTR (R264). -/
def Completion.again (c : Completion) (d : MbxCmd) : Completion :=
  { c with status := mbxDuplicate, orig := c.status, slot := d.slot, noIntr := d.flags % 2 = 1 }

/-- The completion kept for a tag: among the 256 most recent, and less than 1 s old. In part DEDUCED, log 37. -/
def Bridge.keptFor (b : Bridge) (cycle : Nat) (tag : Word) : Option Completion :=
  (b.kept.find? (fun k => k.comp.tag = tag && cycle ≤ k.at_ + 1000 * msec)).map (·.comp)

/-- A command completes: its completion is produced and kept, and repetitions that waited for it are answered. -/
def Bridge.finish (b : Bridge) (cycle : Nat) (c : MbxCmd) (status : Code) (body : List Byte) : Bridge :=
  let k := c.completion status body
  let mine := fun (d : MbxCmd) => d.tag = c.tag
  { b with executing := b.executing.filter (fun d => ! mine d), dups := b.dups.filter (fun d => ! mine d),
           comps := b.comps ++ k :: (b.dups.filter mine).map (fun d => k.again d),
           kept := (({ comp := k, at_ := cycle } : Kept) :: b.kept).take 256 }

def State.completeCmd (s : State) (h : Nat) (c : MbxCmd) (status : Code) (body : List Byte) : State :=
  s.onBridge h (fun b => b.finish s.cycle c status body)

/-- The 64 bytes of a record. -/
def Completion.bytes (c : Completion) (phase : Bool) : List Byte :=
  leBytes 2 c.opcode ++ leBytes 1 c.version ++ leBytes 1 (b2n phase + 2 * c.kind) ++ wordBytes c.tag ++ leBytes 2 c.status.toNat ++
    leBytes 2 c.orig.toNat ++ leBytes 1 c.slot ++ zeros 3 ++ padTo 48 c.body

/-! ### The completion ring (R271, R280) -/

def ringOn (b : Bridge) : Bool := bitB b.cringCfg 31
def ringSize (b : Bridge) : Nat := 2 ^ max 9 (min 16 (fld b.cringCfg 4 0))
def ringEntry (b : Bridge) : Nat := b.cringBase.toNat / 4096 * 4096 + 64 * b.tail

/-- COMPLETION_RECORD_WRITE: the oldest held completion goes to entry TAIL, bytes 4-63 and then bytes 0-3, followed by the message
of vector 0; a full ring or an entry outside the windows holds it. -/
def Bridge.writeComp (b : Bridge) : Bridge :=
  match b.comps with
  | [] => b
  | c :: rest =>
    if ! ringOn b then b
    else if (b.tail + 1) % ringSize b = b.head then b.event evCringFull
    else if ! inWindow b (ringEntry b) 64 then b.event evCringWindow
    else
      let r := c.bytes b.phase
      let t := (b.tail + 1) % ringSize b
      let b1 := (b.post (ringEntry b + 4) (r.drop 4)).post (ringEntry b) (r.take 4)
      let b2 := { b1 with comps := rest, tail := t, phase := if t = 0 then ! b.phase else b.phase }
      if c.noIntr then b2 else b2.message 0

def execCompletionRecordWrite (s : Nat) (st : State) : Res := st.onSite s (fun st => st.onBridge s Bridge.writeComp)

/-- BRW_CRING_HEAD: entries between HEAD and TAIL are freed; a write that would pass TAIL is ignored. -/
def Bridge.setHead (b : Bridge) (v : Word) : Bridge :=
  let n := ringSize b
  let h := fld v 15 0
  if h < n ∧ (h + n - b.head % n) % n ≤ (b.tail + n - b.head % n) % n then { b with head := h } else b

def execCringHeadWrite (s : Nat) (v : Word) (st : State) : Res := st.onSite s (fun st => st.onBridge s (fun b => b.setHead v))

/-- BRW_CRING_CFG: LOG2SIZE is ignored while EN is 1; HEAD, TAIL and the phase start afresh when EN becomes 1. -/
def Bridge.setCring (b : Bridge) (v : Word) : Bridge :=
  let w : Word := setBit (setFld 0#32 4 0 (if ringOn b then fld b.cringCfg 4 0 else fld v 4 0)) 31 (bitB v 31)
  if bitB v 31 && ! ringOn b then { b with cringCfg := w, head := 0, tail := 0, phase := true } else { b with cringCfg := w }

def execCringCfgWrite (s : Nat) (v : Word) (st : State) : Res := st.onSite s (fun st => st.onBridge s (fun b => b.setCring v))

/-! ### Commands in slots (R273-R276) -/

/-- Body bytes that a command defines, as (offset, length), and the body's LENGTH. -/
def bodyDef (op : Nat) (body : List Byte) : Option (Nat × List (Nat × Nat)) :=
  match op with
  | 0x01 => some (4, [(0, 4)])
  | 0x02 => some (20, [(0, 1), (2, 2), (8, 12)])
  | 0x03 => some (24, [(0, 24)])
  | 0x04 => some (88, [(0, 14), (16, 72)])
  | 0x05 => some (1, [(0, 1)])
  | 0x06 => some (48, [(0, 48)])
  | 0x07 => some (2, [(0, 2)])
  | 0x08 =>
    let w := byteAt body 24 + byteAt body 25
    some (32 + 16 * w, (0, 26) :: (List.range w).map (fun k => (32 + 16 * k, 12)))
  | 0x09 => some (8, [(0, 8)])
  | 0x0A => some (36, [(0, 18), (24, 12)])
  | 0x0B => some (1, [(0, 1)])
  | 0x0C => some (28, [(0, 13), (16, 12)])
  | 0x0D => some (76, [(0, 76)])
  | 0x0E => some (36, [(0, 2), (8, 12), (24, 12)])
  | 0x0F => some (28, [(0, 1), (2, 4), (8, 4), (16, 12)])
  | 0x10 => some (20, [(0, 1), (8, 12)])
  | 0x11 => some (12, [(0, 1), (4, 8)])
  | 0x12 => some (0, [])
  | _ => none

/-- Every byte of the body outside the given ranges is zero. -/
def resvZero (body : List Byte) (l : List (Nat × Nat)) : Bool :=
  (List.range body.length).all (fun k => l.any (fun r => r.1 ≤ k && k < r.1 + r.2) || lgetD body k 0 = 0)

/-- Values that each command's definition gives its fields; a value outside them counts as a body that does not match (DEDUCED, log 22). -/
def bodyRange (op : Nat) (b : List Byte) : Bool :=
  match op with
  | 0x02 => decide (byteAt b 0 ≤ 3)
  | 0x04 => decide (byteAt b 13 ≤ 1)
  | 0x06 => decide (byteAt b 3 ≤ 7 ∧ 1 ≤ leAt b 4 4 ∧ leAt b 4 4 ≤ 10000000)
  | 0x08 =>
    let w := byteAt b 24 + byteAt b 25
    decide ((byteAt b 2 ≤ 7 ∨ byteAt b 2 = 0xFF) ∧ byteAt b 3 ≤ 4 ∧ leAt b 4 4 ≤ 10000000 ∧ byteAt b 24 ≤ 6 ∧ byteAt b 25 ≤ 6) &&
      (List.range 4).all (fun k => decide (k < byteAt b 3) || leAt b (8 + 4 * k) 4 = 0) &&
      (List.range w).all (fun k => leAt b (40 + 16 * k) 4 ≠ 0)
  | 0x0A => decide (leAt b 0 18 < 2 ^ 144 ∧ leAt b 0 18 ≠ 0)
  | 0x0B => decide (byteAt b 0 ≤ 1)
  | 0x0C => decide (1 ≤ leAt b 8 4 ∧ leAt b 8 4 ≤ 16384 ∧ byteAt b 12 ≤ 1)
  | 0x0E => decide (byteAt b 0 ≤ 1)
  | 0x0F => decide (byteAt b 0 ≤ 2)
  | 0x10 => decide (byteAt b 0 ≤ 5 ∨ byteAt b 0 = 0xFF)
  | 0x11 =>
    let lull := leAt b 4 4
    let dold := leAt b 8 4
    decide (byteAt b 0 ≤ 6) && decide (lull = 0 ∨ lull = 0xFFFFFFFF ∨ (100 ≤ lull ∧ lull ≤ 10000000)) &&
      decide (dold = 0 ∨ dold = 0xFFFFFFFF ∨ (1000 ≤ dold ∧ dold ≤ 86400000))
  | _ => true

/-- R274: the command's form, then its version. In part DEDUCED, log 22. -/
def formCheck (b : Bridge) (c : MbxCmd) : Code :=
  let ok := match bodyDef c.opcode c.body with
    | some (n, l) => c.length = n && ! c.resv && c.flags < 2 && resvZero c.body l && bodyRange c.opcode c.body
    | none => false
  if ! ok then mbxUnknownCommand
  else if c.opcode = 0x01 then (if c.version = 0 then codeOk else mbxVersion)
  else if b.version = some c.version then codeOk else mbxVersion

/-- The command in a slot. -/
def Bridge.cmdIn (b : Bridge) (n now : Nat) : MbxCmd :=
  let l := (List.range 256).map (fun k => tgetD b.slotBytes (256 * n + k) 0)
  { slot := n, opcode := leAt l 0 2, version := byteAt l 2, flags := byteAt l 3, tag := word (leAt l 4 4), length := leAt l 8 2,
    resv := leAt l 10 6 ≠ 0, body := (l.drop 16).take (min 240 (leAt l 8 2)), arrival := now, accepted := false }

/-- The completion body of a refusal: a RUN shows its arrival (R282). -/
def MbxCmd.refusalBody (c : MbxCmd) : List Byte := if c.opcode = 0x08 then leBytes 8 0 ++ leBytes 8 c.arrival else []

/-- SLOT_TAKE: firmware copies out the slot whose doorbell came first and clears its OWNED bit, when fewer than 64 commands of the
site execute. A repeated tag is answered from the kept completion or held (R264); a command of the wrong form is refused (R274). -/
def Bridge.take (b : Bridge) (cycle now : Nat) : Bridge :=
  match b.doorbells with
  | [] => b
  | n :: rest =>
    if 64 ≤ b.executing.length then b
    else
      let c := b.cmdIn n now
      let b1 := ({ b with doorbells := rest, owned := setBit b.owned n false } : Bridge).message 2
      match b.keptFor cycle c.tag with
      | some k => { b1 with comps := b1.comps ++ [k.again c] }
      | none =>
        if b.executing.any (fun d => d.tag = c.tag) then { b1 with dups := b1.dups ++ [c] }
        else
          let code := formCheck b c
          if code = codeOk then { b1 with executing := b1.executing ++ [c] } else b1.finish cycle c code c.refusalBody

def execSlotTake (s : Nat) (st : State) : Res :=
  st.onSite s (fun st => if st.helm.fw.running then st.onBridge s (fun b => b.take st.cycle st.ticks) else st)

/-! ### Buffers of commands (R272, R274) -/

/-- The checks of a buffer of `len` bytes at `buf` that is to receive `data`. -/
def bufCheck (b : Bridge) (buf len n : Nat) : Code :=
  if ! inWindow b buf len then loadRange
  else if buf % 64 ≠ 0 then loadAlignment
  else if len < n then loadBufferSize
  else codeOk

end Sys2Proof.Machine
end

