-- ==== Sys2Proof/Machine/RunOps.lean ====
section
/-!
DEFINITION. What every run's end shares: the fields a run uses (R189), sync chunks (R165, R166, R210), fix records, chains and
seals (R230-R233), completing and stopping runs (R259, R260).
-/
namespace Sys2Proof.Machine

/-! ### Fields of a partition and of a run (R170, R189) -/

def partExists (q : Partition) : Bool := bitB q.rect 31

/-- Fields of a rectangle, ascending. -/
def rectFields (w : Word) : List Nat := (List.range 144).filter (inRect w)

def between (a b c : Nat) : Bool := (a ≤ b && b ≤ c) || (c ≤ b && b ≤ a)

/-- Field `f` is crossed by an XY route, in either direction, between fields `g` and `d`. -/
def crosses (f g d : Nat) : Bool :=
  let a := f % 12
  let b := f / 12
  let gx := g % 12
  let gy := g / 12
  let dx := d % 12
  let dy := d / 12
  (b = gy && between gx a dx) || (a = dx && between gy b dy) || (b = dy && between gx a dx) || (a = gx && between gy b dy)

/-- Sites outside the rectangle that a run's requests can reach: landing routers of its bridge, lane sites of its peer sources. -/
def State.farSites (s : State) (p : Nat) (g : Program) : List (Nat × Nat) :=
  s.liveLandings p ++ g.peers.filterMap (fun v => laneFor s.helm.pins.topo s.myMod v.2.2 v.1 v.2.1)

/-- A ROUTE entry stands in some detour table. -/
def State.detours (s : State) : Bool :=
  s.around || s.routers.any (fun r => r.2.dtField.any (fun e => fld e.2 31 30 = 1) || r.2.dtSite.any (fun e => bitB e.2 31 && fld e.2 30 29 = 0))

/-- Fields that a header visits on its way. -/
def walkFields (s : State) : Nat → Nat → Nat → Packet → List Nat
  | 0, _, _, _ => []
  | n + 1, x, y, p =>
    match wayOf s x y (s.lookups x y p) p with
    | .send q p' _ => match beyond x y q with
      | some (u, v) => fieldOf u v :: walkFields s n u v p'
      | none => []
    | _ => []

/-- Field `f` lies on a detour route in force between a site of the rectangle and one of those sites or another of the rectangle. -/
def State.onDetour (s : State) (fs : List Nat) (far : List (Nat × Nat)) (f : Nat) : Bool :=
  s.detours && fs.any (fun g => (fieldSites g).any (fun v => (far ++ fs.flatMap fieldSites).any (fun d =>
    let there := { pktOf 0 v.1 v.2 0 with dstX := d.1, dstY := d.2 }
    let back := { pktOf 0 d.1 d.2 0 with dstX := v.1, dstY := v.2 }
    (walkFields s 2400 v.1 v.2 there).contains f || (walkFields s 2400 d.1 d.2 back).contains f)))

/-- Field `f` holds a router of run-control tree 8 + p (R258). -/
def State.onRunTree (s : State) (p f : Nat) : Bool :=
  s.routers.any (fun r => fieldOf (r.1 % 576) (r.1 / 576) = f && mtValid (tgetD r.2.mcTree (8 + p) 0))

/-- R189: a run of program `g` in partition `p` uses field `f`. -/
def State.runUses (s : State) (p : Nat) (g : Option Program) (f : Nat) : Bool :=
  let fs := rectFields (s.part p).rect
  let far := match g with
    | some g => s.farSites p g
    | none => s.liveLandings p
  fs.contains f || fs.any (fun a => (dedup (far.map (fun d => fieldOf d.1 d.2))).any (crosses f a)) || s.onRunTree p f ||
    s.onDetour fs far f

def State.program (s : State) (p k : Nat) : Option Program := (tget (s.part p).programs k).map (·.prog)

/-- The fields of a run. -/
def State.runFields (s : State) (p : Nat) (g : Option Program) : List Nat := (List.range 144).filter (s.runUses p g)

/-! ### Sync chunks (R165, R166, R210) -/

/-- The map entry of a chunk; firmware writes every field's store alike. -/
def State.chunkMap (s : State) (c : Nat) : Word := tgetD (s.field 4).frsSync c 0

/-- Firmware writes a chunk's entry in every store. -/
def State.setChunk (s : State) (c : Nat) (w : Word) : State :=
  (List.range 144).foldl (fun s f => s.onField f (fun q => { q with frsSync := tset q.frsSync c w })) s

/-- The M-cells of a home: field and block row. -/
def homeSites (f row : Nat) : List (Nat × Nat) :=
  (List.range 32).map (fun m => let v := syncSite f row (2 * m); (v.1, v.2.1))

/-- R166: every M-cell of the home has body and router in service. -/
def State.intact (s : State) (f row : Nat) : Bool := (homeSites f row).all (fun v => ! s.bodyOut v.1 v.2)

/-- Both words of each M-cell of a home are cleared where there is something to clear (R210). -/
def State.clearHome (s : State) (f row : Nat) : State :=
  (homeSites f row).foldl (fun s v => [0, 1].foldl (fun s k =>
    let w := (s.cell v.1 v.2).sw k
    if s.bodyOut v.1 v.2 || (w.word = 0 && w.waiters = []) then s else swClear s v.1 v.2 k) s) s

/-- The words of a session's chunk are cleared. -/
def State.clearChunk (s : State) (c : Nat) : State :=
  let w := s.chunkMap c
  if bitB w 31 then s.clearHome (fld w 23 16) (fld w 2 0) else s

/-- Open sessions of a partition. -/
def State.openIn (s : State) (p : Nat) : List (Nat × Session) := s.sessions.filter (fun v => v.2.state = 1 && v.2.part = p)

/-! ### Fix records (R230) -/

def FixRec.bytes (r : FixRec) : List Byte :=
  leBytes 2 1 ++ leBytes 1 r.mode ++ leBytes 1 r.flags ++ leBytes 8 r.seq ++ leBytes 8 r.runId ++ wordBytes r.tag ++
    leBytes 2 r.session ++ leBytes 1 r.part ++ zeros 1 ++ leBytes 2 r.status.toNat ++ leBytes 2 r.aflags.toNat ++
    leBytes 4 (min r.sightWindows (2 ^ 32 - 1)) ++ leBytes 2 (min r.sightSkipped (2 ^ 16 - 1)) ++ leBytes 1 r.sightResult ++
    leBytes 1 r.pairResult ++ leBytes 8 r.time ++ padTo 48 r.program ++ padTo 48 r.input ++ padTo 48 r.output ++ padTo 64 r.prev

/-- PREV of the next record of a chain (R231). -/
def Partition.prev (q : Partition) : List Byte :=
  match q.records with
  | r :: _ => sha512 r.bytes
  | [] => sha512 q.chainId

/-- The record joins the chain; the last 16,384 are kept, newest first (R231). -/
def Partition.chain (q : Partition) (r : FixRec) : Partition :=
  { q with records := ({ r with seq := q.chainSeq, prev := q.prev } :: q.records).take 16384, chainSeq := q.chainSeq + 1 }

/-- The ended chains of a partition once its present chain ends: each keeps its records and its seals (R231). -/
def Partition.endChain (q : Partition) : List EndedChain :=
  if q.records = [] then q.ended else { records := q.records, seals := q.seals } :: q.ended

/-- A new chain (R231). -/
def State.newChain (s : State) (p : Nat) : State :=
  (s.onPart p (fun q => { q with chainOn := true, chainId := leBytes 32 (Config.random256 s.fresh).toNat, chainSeq := 0,
                                 records := [], seals := [], sealAt := s.cycle, sealSeq := 0 })).draw

/-! ### Seals (R233) -/

/-- The attestation public key generated at draw `k` (R375). -/
def attKey (k : Nat) : List Byte := publicKey (keyNumber (Config.attestationKey k))

def Seal.body (v : Seal) : List Byte :=
  leBytes 2 1 ++ leBytes 1 v.part ++ zeros 1 ++ leBytes 8 v.seq ++ leBytes 8 v.time ++ leBytes 8 v.wall ++ zeros 4 ++
    padTo 32 v.chainId ++ padTo 64 v.head ++ sha512 (attKey v.keyDraw)

/-- The signature made at draw `k` with a private number. -/
def signature (key : Nat) (k : Nat) (msg : List Byte) : List Byte := ecdsaSign (keyNumber key) (keyNumber (Config.signNumber k)) msg

/-- A seal is signed with the attestation key over SHA-512 of its first 192 bytes. -/
def Seal.bytes (v : Seal) : List Byte := v.body ++ signature (Config.attestationKey v.keyDraw) v.draw v.body

/-- The helm seals the head of a chain that has advanced; the last 64 seals are kept, newest first. -/
def State.sealHead (s : State) (p : Nat) : State :=
  let q := s.part p
  match q.records with
  | [] => s
  | r :: _ =>
    if ! q.chainOn || q.chainSeq ≤ q.sealSeq then s
    else
      let v : Seal := { part := p, seq := r.seq, time := s.mono, wall := s.helm.log.wall, chainId := q.chainId,
                        head := sha512 r.bytes, keyDraw := s.helm.fw.keyDraw, draw := s.fresh }
      ((s.onPart p (fun q => { q with seals := (v :: q.seals).take 64, sealAt := s.cycle, sealSeq := q.chainSeq })).countPart
        p 0x11 1).draw

/-- FIX_SEAL: 1 ms after the previous seal, or at 1,024 records. -/
def execFixSeal (p : Nat) (s : State) : Res :=
  s.onSite p (fun s =>
    let q := s.part p
    if s.helm.fw.running && (decide (q.sealAt + msec ≤ s.cycle) || decide (q.sealSeq + 1024 ≤ q.chainSeq)) then s.sealHead p else s)

/-! ### The head of the run queue (R256) -/

/-- The run first in the queue starts at once when none is active. -/
def Partition.settle (q : Partition) (cycle : Nat) : Partition :=
  match q.active, q.queue with
  | none, r :: _ =>
    let fresh : Head := { run := r.id, at_ := cycle, slot := q.activeSlot, comb := q.comb, session := q.lastSession }
    { q with headAt := match q.headAt with
        | some h => if h.run = r.id then some h else some fresh
        | none => some fresh }
  | _, _ => { q with headAt := none }

/-! ### Completing a run (R230, R282) -/

/-- Sight counters of a program's C-cells: windows compared, windows not compared. -/
def State.sightSums (s : State) (g : Option Program) : Nat × Nat :=
  match g with
  | some g =>
    let cs := (dedup (g.sights.map (fun e => siteIx e.x e.y))).map (fun i => s.cell (i % 576) (i / 576))
    ((cs.map (fun c => c.sg.winSum)).sum, (cs.map (fun c => c.sg.skipSum)).sum)
  | none => (0, 0)

/-- The digest of no bytes (R232). -/
def noDigest : List Byte := (sha512 []).take 48

/-- Facts of a run at its end that only an active run has. -/
structure RunEnd where
  code    : Code
  aflags  : BitVec 5
  windows : Nat
  skipped : Nat
  input   : List Byte
  output  : Option (List Byte)
  written : Nat
  pair    : Nat
  dead    : Bool
deriving DecidableEq, Repr

/-- A run that never started, or of which nothing was read. -/
def RunEnd.bare (code : Code) (dead : Bool) : RunEnd :=
  { code := code, aflags := 0, windows := 0, skipped := 0, input := noDigest, output := none, written := 0, pair := 0, dead := dead }

/-- SIGHT_RESULT (R230). In part DEDUCED, log 37. -/
def sightResult (g : Option Program) (code : Code) : Nat :=
  match g with
  | some g => if g.sights = [] then 0 else if code = sightMismatch then 2 else 1
  | none => 0

/-- The fix record is chained and the run's completion produced (R230, R282). -/
def State.completeRun (s : State) (p : Nat) (r : Run) (e : RunEnd) : State :=
  let q := s.part p
  let g := s.program p r.progSlot
  let rec_ : FixRec :=
    { mode := (g.map (·.mode)).getD 0,
      flags := b2n (r.nin ≠ 0) + 2 * b2n e.output.isSome + 4 * b2n e.dead, seq := 0, runId := r.id, tag := r.tag,
      session := r.session, part := p, status := e.code, aflags := e.aflags, sightWindows := e.windows, sightSkipped := e.skipped,
      sightResult := sightResult g e.code, pairResult := e.pair, time := s.mono, program := ((g.map (·.measurement)).getD []).take 48,
      input := e.input, output := e.output.getD [], prev := [] }
  let done : Completion :=
    { opcode := 0x08, version := r.version, kind := 1, tag := r.tag, status := e.code, orig := 0, slot := r.slot,
      body := leBytes 8 r.id ++ leBytes 8 q.chainSeq ++ leBytes 2 e.aflags.toNat ++ leBytes 1 (sightResult g e.code) ++
        leBytes 1 e.pair ++ leBytes 4 e.written ++ leBytes 8 s.mono ++ leBytes 8 s.ticks, noIntr := r.noIntr }
  let s1 := (s.onPart p (fun q => q.chain rec_)).countPart p 0x10 1
  s1.onBridge r.site (fun b => { b with comps := b.comps ++ [done] })

/-- Queued runs of a partition that meet a test complete with a code; the others keep their places. -/
def State.dropQueued (s : State) (p : Nat) (test : Run → Bool) (code : Code) (dead : Bool) : State :=
  let q := s.part p
  let e := RunEnd.bare code dead
  let s1 := (q.queue.filter test).foldl (fun s r => s.completeRun p r (match q.inputs with
    | some i => if i.runId = r.id then { e with input := i.digest } else e
    | none => e)) s
  s1.onPart p (fun q =>
    let rest := q.queue.filter (fun r => ! test r)
    let kept := match q.inputs with
      | some i => if rest.any (fun r => r.id = i.runId) then some i else none
      | none => none
    ({ q with queue := rest, inputs := kept } : Partition).settle s.cycle)

/-! ### Stopping a run (R259) -/

/-- A peer lane that a program's requests take (R189, R307). -/
def State.runLanes (s : State) (g : Program) : List (Nat × Nat) :=
  g.peers.filterMap (fun v => (laneFor s.helm.pins.topo s.myMod v.2.2 v.1 v.2.1).bind (fun d => laneNo d.1 d.2))

/-- A cell that firmware's own accesses reach: a live router of a field with its rails up, the body in service, and a helm landing to
reach them from (R26). -/
def State.reachable (s : State) (x y : Nat) : Bool := s.routerUp x y && ! s.bodyOut x y && s.helmLandings ≠ []

/-- STOP to every cell of a partition's program, on its run-control tree (R258, R259). -/
def State.sendStop (s : State) (p : Nat) : State := s.sendTree (8 + p) (ctrlPkt s.myMod 2)

/-- A lane-map entry of a router that leads to a faulted output lane is written again from the program's routing section (R148). -/
def Router.relane (r : Router) (v : RouteCfg) : Router :=
  (v.lanes.filter (fun e => lmValid e.2 && bitB r.laneFault (lmOut e.2))).foldl (fun r e => r.writeLaneMap e.1 e.2) r

/-- Lanes that faulted in a run are in service for the next (R148). -/
def State.relane (s : State) (g : Program) : State :=
  (g.routing.filter (fun v => (s.router v.x v.y).laneFault ≠ 0)).foldl (fun s v => s.onRouter v.x v.y (fun r => r.relane v)) s

/-- The tag epoch of a cell advances: responses to its earlier requests will be discarded, so what waits for them ends (R154). -/
def Cell.newEpoch (c : Cell) : Cell :=
  { c with epoch := c.epoch + 1, reqs := [], dmas := [], ops := c.ops.filter (fun o => ! o.waiting) }

/-- Listed cells of some fields. -/
def State.cellsIn (s : State) (fs : List Nat) : List Nat :=
  (s.cells.map (·.1)).filter (fun i => fs.contains (fieldOf (i % 576) (i / 576)))

/-- The epoch of every cell of a partition advances; link dies and the bridge drop their records of those cells' requests (R155). -/
def State.advanceEpoch (s : State) (p : Nat) : State :=
  let fs := rectFields (s.part p).rect
  let mine := fun (x y : Nat) => fs.contains (fieldOf x y)
  let s1 := (s.cellsIn fs).foldl (fun s i => s.onCell (i % 576) (i / 576) Cell.newEpoch) s
  let s2 := { s1 with lanes := tmap (fun _ (l : Lane) => { l with reqs := l.reqs.filter (fun r => ! mine r.x r.y) }) s1.lanes }
  let drop := fun (b : Bridge) => { b with hostReads := b.hostReads.filter (fun r => ! mine r.pkt.srcX r.pkt.srcY) }
  { s2 with bridges := tmap (fun _ b => drop b) s2.bridges }

/-- What an active run's end shows besides its code. -/
def State.endOf (s : State) (p : Nat) (a : Active) (code : Code) : RunEnd :=
  let t := s.sightSums (s.program p a.run.progSlot)
  { code := code, aflags := a.aflags, windows := t.1 - a.sightBase, skipped := t.2 - a.skipBase, input := a.inDigest,
    output := if code = codeOk then a.outDigest else none, written := a.bytes,
    pair := if code = pairMismatch then 2 else if (s.program p a.run.progSlot).any (fun g => g.mode = 2) && code = codeOk then 1 else 0,
    dead := a.deadReck || s.helm.clocks.drSet }

/-- The active run leaves: its record is chained, its completion produced, faulted lanes are written again, and the run behind it comes
to the head. -/
def State.retireRun (s : State) (p : Nat) (a : Active) (code : Code) : State :=
  let s1 := s.completeRun p a.run (s.endOf p a code)
  let s2 := match s.program p a.run.progSlot with
    | some g => s1.relane g
    | none => s1
  s2.onPart p (fun q => ({ q with active := none, inputs := none } : Partition).settle s.cycle)

/-- R259 steps 1 to 3: STOP on the run-control tree, the session's words cleared, the epoch advanced; no START in the partition for 100
µs. The run completes at RUN_END, 20 µs later at the latest. -/
def State.stopRun (s : State) (p : Nat) (code : Code) : State :=
  match (s.part p).active with
  | none => s
  | some a =>
    if a.stopCode.isSome then s
    else
      let a1 := { a with stopCode := some code, stopAt := some (a.stopAt.getD s.cycle) }
      let s1 := if a.stopAt.isSome then s else s.sendStop p
      ((s1.clearChunk (s.session a.run.session).chunk).advanceEpoch p).onPart p (fun q =>
        { q with active := some a1, nextStart := s.cycle + 100 * usec, epochAt := some s.cycle })

/-- The active runs whose requests take a lane that goes down complete with LINK_DOWN (R260). In part DEDUCED, log 31. -/
def State.failLane (s : State) (k n : Nat) : State :=
  (List.range 4).foldl (fun s p => match (s.part p).active with
    | some a => if (s.program p a.run.progSlot).any (fun g => (s.runLanes g).contains (k, n)) then s.stopRun p codeLinkDown else s
    | none => s) s

/-- Every run that uses a field completes with a code (R260). -/
def State.failField (s : State) (f : Nat) (code : Code) : State :=
  (List.range 4).foldl (fun s p =>
    let s1 := match (s.part p).active with
      | some a => if s.runUses p (s.program p a.run.progSlot) f then s.stopRun p code else s
      | none => s
    s1.dropQueued p (fun r => s1.runUses p (s1.program p r.progSlot) f) code s1.helm.clocks.drSet) s

/-- A field is used by an accepted run. -/
def State.fieldInUse (s : State) (f : Nat) : Bool :=
  (List.range 4).any (fun p =>
    (match (s.part p).active with
      | some a => s.runUses p (s.program p a.run.progSlot) f
      | none => false) ||
    (s.part p).queue.any (fun r => s.runUses p (s.program p r.progSlot) f))

end Sys2Proof.Machine
end

