-- ==== Sys2Proof/Machine/Switch.lean ====
section
/-!
DEFINITION. A program's configuration in the cells and routers of its partition: what a switch saves, loses and writes back (R245,
R381, R382), and the patches before a run (R104, R105, R249, R384-R387). Firmware's own accesses take effect in the step of the
command that makes them (DESIGN CHOICE, log 23).
-/
namespace Sys2Proof.Machine

/-! ### Memory of a partition as its host and its programs see it (R181) -/

/-- Towers of a partition that are not withdrawn, in ascending field index. -/
def State.towersOf (s : State) (p : Nat) : List Nat := (rectFields (s.part p).rect).filter (fun f => ! (s.field f).withdrawn)

/-- The size of the HDM range. -/
def State.hdmSize (s : State) (p : Nat) : Nat := (s.towersOf p).length * 2 ^ 33

/-- The tower and offset of an HDM offset. -/
def State.hdmTower (s : State) (p o : Nat) : Option (Nat × Nat) := ((s.towersOf p)[o / 2 ^ 33]?).map (fun f => (f, o % 2 ^ 33))

/-- Site and bytes of a retained SRAM region (R383 KIND 2). -/
def Buffer.cellRange (b : Buffer) : Nat × Nat × Nat × Nat := (fld b.addr 57 48, fld b.addr 47 38, fld b.addr 18 0, b.size)

/-- Listed bytes of the regions that a program retains in a cell (R245). -/
def retainedOf (g : Program) (x y : Nat) (m : Memory) : List Host.Cell :=
  (g.buffers.filter (fun b => b.kind = 2 && b.cellRange.1 = x && b.cellRange.2.1 = y)).flatMap (fun b =>
    cellsAt b.cellRange.2.2.1 (m.read b.cellRange.2.2.1 b.size))

/-! ### Switch-out -/

/-- What a drain saves of a program's cell (R245 step 2). In part DEDUCED, log 36. -/
def State.saveCell (s : State) (g : Program) (x y : Nat) : CellSave :=
  let c := s.cell x y
  { x := x, y := y, cell := c, stored := retainedOf g x y c.data }

/-- Cells of a program that a drain reaches, in some fields. -/
def State.drain (s : State) (g : Program) (fs : List Nat) : List CellSave :=
  (g.sites.filter (fun v => fs.contains (fieldOf v.x v.y) && s.reachable v.x v.y)).map (fun v => s.saveCell g v.x v.y)

/-- The save area of a program in a tower after a drain: the spec does not state how it is laid out, so its bytes are free (R245). In part
DESIGN CHOICE, log 64. -/
def State.fillSave (s : State) (r : Resident) (fs : List Nat) : State :=
  (fs.filter (fun f => ! (s.field f).withdrawn)).foldl (fun s f => s.onField f (fun q =>
    { q with tower := q.tower.write ((span r.save r.prog.saveSize).map (fun a => (a, Config.freeByte (genOf s.fresh f) a))) })) s

/-- A cell without a program: no configuration, empty queues; accumulators, predicates and storage hold unspecified values (R245).
Sync words, microcode, counters and the tag epoch stay. -/
def Cell.unload (c : Cell) (draw : Nat) : Cell :=
  { c with slots := [], descs := [], storeBad := [], qcfg := [], qext := [], slotEn := 0, slotEnShadow := 0, applyPending := false,
           wdogLimit := Cell.reset.wdogLimit, pred := (Config.freeWord draw 4096).setWidth 8, queues := [], acc := [], accGen := draw,
           data := Memory.lost draw, ops := [],
           pc := { c.pc with strm := [], scope := [], lines := [] },
           gc := { c.gc with cfg := gcCfgReset, histBase := 0, spillBase := 0, spillCap := 0 },
           sg := { c.sg with entry := [], window := [] } }

/-- Router lane maps and wheels without a program. -/
def Router.unroute (r : Router) : Router := { r with laneMap := [], wheel := [], joins := [], laneFault := 0 }

/-- Every cell and router of some fields loses its program; cells that nothing has listed hold unspecified storage from here on. In part DEDUCED, log 36. -/
def State.unloadFields (s : State) (fs : List Nat) : State :=
  let cells := tmap (fun i (c : Cell) => if fs.contains (fieldOf (i % 576) (i / 576)) then c.unload (genOf s.fresh i) else c) s.cells
  let routers := tmap (fun i (r : Router) => if fs.contains (fieldOf (i % 576) (i / 576)) then r.unroute else r) s.routers
  let s1 := { s with cells := cells, routers := routers }
  (fs.foldl (fun s f => s.onField f (fun q => { q with lostGen := s.fresh })) s1).draw

/-! ### Switch-in -/

/-- RWL registers of an engine block taken from 256 bytes of an image (R381). -/
def Cell.engineImage (c : Cell) (k : Cls) (b : List Byte) : Cell :=
  let w := fun o => word (leAt b o 4)
  match k with
  | .g => { c with gc := { c.gc with cfg := w 0x04 &&& 0x001F3F01#32, spillBase := join32 (w 0x14) (w 0x10),
                                     spillCap := w 0x18 &&& 0xFFFF#32 } }
  | .p => { c with pc := { c.pc with strm := tsetAll [] (List.range 8) (fun n => w (0x10 + 4 * n)) } }
  | _ => c

/-- Host-scope page ranges of a tower's buffers, as PC_SCOPE entries (R179). -/
def scopeOf (g : Program) (f : Nat) : Tbl Word :=
  let l := g.buffers.filter (fun b => (b.kind = 0 || b.kind = 1) && b.scope = 1 && fld b.addr 47 40 = f)
  ((List.range 8).zip l).foldl (fun t v =>
    let a := fld v.2.addr 32 18
    tset (tset t (2 * v.1) (word (2 ^ 31 + a))) (2 * v.1 + 1) (word (a + v.2.size / 2 ^ 18 - 1))) []

/-- Sight registers of a C-cell from the image (R386). -/
def sightsOf (g : Program) (x y : Nat) (c : Cell) : Cell :=
  let l := g.sights.filter (fun e => e.x = x && e.y = y)
  { c with sg := { c.sg with entry := l.foldl (fun t e => tset t e.k (e.entry &&& 0xC0003FFF#32)) [],
                             window := l.foldl (fun t e => tset t e.k (e.window &&& 0xFFFF#32)) [] } }

/-- A cell configured from its site entry (R381). -/
def Cell.configure (c : Cell) (g : Program) (v : SiteCfg) : Cell :=
  let k := clsOf v.x v.y
  let c1 := { c with slots := (List.range v.slots.length).zip v.slots, descs := (List.range v.descs.length).zip v.descs,
                     qcfg := tsetAll [] (List.range 8) (fun n => lgetD v.qcfg n 0 &&& 0xF0000000#32),
                     qext := tsetAll [] (List.range 8) (fun n => lgetD v.qext n 0 &&& 0x03FF007F#32),
                     slotEn := v.slotEn, slotEnShadow := v.slotEn, wdogLimit := v.wdog, pred := BitVec.ofNat 8 (fld v.pred 7 0) }
  let c2 := match v.engine with
    | some b => c1.engineImage k b
    | none => c1
  let c3 := if k = .c then sightsOf g v.x v.y c2 else c2
  if k = .p then { c3 with pc := { c3.pc with scope := scopeOf g (fieldOf v.x v.y) } } else c3

/-- A cell written back from its save area: configuration, engine registers, retained storage (R245). -/
def Cell.restore (c : Cell) (v : CellSave) : Cell :=
  let o := v.cell
  { c with slots := o.slots, descs := o.descs, qcfg := o.qcfg, qext := o.qext, slotEn := o.slotEn, slotEnShadow := o.slotEnShadow,
           wdogLimit := o.wdogLimit, data := c.data.write v.stored,
           pc := { c.pc with strm := o.pc.strm, scope := o.pc.scope },
           gc := { c.gc with cfg := o.gc.cfg, histBase := o.gc.histBase, spillBase := o.gc.spillBase, spillCap := o.gc.spillCap },
           sg := { c.sg with entry := o.sg.entry, window := o.sg.window } }

/-- Router lane maps and wheels of a program (R382), in some fields. -/
def State.routeFields (s : State) (g : Program) (fs : List Nat) : State :=
  (g.routing.filter (fun v => fs.contains (fieldOf v.x v.y))).foldl (fun s v => s.onRouter v.x v.y (fun r =>
    { r with laneMap := tsetAllAt v.lanes r.laneMap,
             wheel := tsetAll r.wheel (List.range v.wheel.length) (fun k => (lgetD v.wheel k 0 &&& 0xFFFF#32) ||| 1#32) })) s
where
  tsetAllAt (l : List (Nat × Word)) (t : Tbl Word) : Tbl Word := l.foldl (fun t e => tset t e.1 (lmBits e.2)) t

/-- LOCAL of the run-control tree at exactly the program's cells (R258). -/
def State.setLocal (s : State) (p : Nat) (g : Program) : State :=
  let fs := rectFields (s.part p).rect
  let put := fun (i : Nat) (r : Router) =>
    let w := tgetD r.mcTree (8 + p) 0
    if mtValid w && fs.contains (fieldOf (i % 576) (i / 576)) then
      { r with mcTree := tset r.mcTree (8 + p) (setBit w 30 (g.sites.any (fun v => siteIx v.x v.y = i))) }
    else r
  { s with routers := tmap put s.routers }

/-- Configuration of a program's cells in some fields, from a save or from the image. In part DESIGN CHOICE, log 23; DEDUCED, log 36. -/
def State.loadCells (s : State) (g : Program) (saved : Option (List CellSave)) (fs : List Nat) : State :=
  let here := fun (x y : Nat) => fs.contains (fieldOf x y) && s.reachable x y
  let s1 : State := match saved with
    | some l => (l.filter (fun v => here v.x v.y)).foldl (fun s v => s.onCell v.x v.y (fun c => c.restore v)) s
    | none => (g.sites.filter (fun v => here v.x v.y)).foldl (fun s v => s.onCell v.x v.y (fun c => c.configure g v)) s
  s1.routeFields g fs

/-- Every P-cell of a tower with host-scope buffers gets the entries, placed or not (R179). -/
def State.loadScopes (s : State) (g : Program) (fs : List Nat) : State :=
  (fs.filter (fun f => scopeOf g f ≠ [])).foldl (fun s f => (List.range 64).foldl (fun s ch =>
    let v := pSite f ch
    if s.bodyOut v.1 v.2 then s else s.onCell v.1 v.2 (fun c => { c with pc := { c.pc with scope := scopeOf g f } })) s) s

/-- Link-up of every stream of the program (R33). -/
def State.linkAll (s : State) (g : Program) (fs : List Nat) : State :=
  (g.sites.filter (fun v => fs.contains (fieldOf v.x v.y))).foldl (fun s v => if s.reachable v.x v.y then s.linkUp v.x v.y else s) s

/-- The program switch of R245 to slot `k`: sessions' words cleared, the outgoing program drained, its configuration and everything
not saved gone, the incoming program written in. In part DESIGN CHOICE, log 23; DEDUCED, log 36. -/
def State.switchTo (s : State) (p k : Nat) : State :=
  let q := s.part p
  let fs := rectFields q.rect
  let s1 := (s.openIn p).foldl (fun s v => s.clearChunk v.2.chunk) s
  let s2 := match q.activeSlot with
    | some j => match tget q.programs j with
      | some r =>
        let r1 := { r with saved := some (s1.drain r.prog fs), comb := q.comb }
        (s1.fillSave r fs).onPart p (fun q => { q with programs := tset q.programs j r1 })
      | none => s1
    | none => s1
  let s3 := s2.unloadFields fs
  match tget (s3.part p).programs k with
  | none => s3.onPart p (fun q => { q with activeSlot := none, comb := none, lastSession := none })
  | some r =>
    let s4 := ((s3.loadCells r.prog r.saved fs).loadScopes r.prog fs).setLocal p r.prog
    (s4.linkAll r.prog fs).onPart p (fun q => { q with activeSlot := some k, comb := r.comb, lastSession := none })

/-! ### Buckets and masks (R102-R105) -/

/-- Position of the smallest ladder size that is at least `a`. -/
def ladderPos : List Nat → Nat → Option Nat
  | [], _ => none
  | z :: t, a => if a ≤ z then some 0 else (ladderPos t a).map (· + 1)

/-- The combination's index for the actual sizes (R103, R104); none: ADMIT_NO_BUCKET. -/
def combOf : List (List Nat) → List Nat → Option Nat
  | [], _ => some 0
  | l :: t, sizes => match ladderPos l (sizes.headD 0), combOf t sizes.tail with
    | some p, some r => some (p + l.length * r)
    | _, _ => none

/-- LIVE count and mask of one axis (R104). -/
def maskFor (t n : Nat) (v : Int) : Nat × Nat :=
  if v ≤ 0 then (0, 0)
  else if (n * t : Nat) ≤ v then (n, 2 ^ t - 1)
  else
    let live := (v.toNat + t - 1) / t
    (live, 2 ^ (v.toNat - (live - 1) * t) - 1)

/-- One mask-patch entry on a cell. -/
def Cell.maskPatch (c : Cell) (e : MaskPatch) (size : Nat) : Cell :=
  let w := c.descWord e.desc
  let d := Desc.of w
  let v : Int := (size : Int) - e.origin
  if e.axis = 0 then
    let r := maskFor d.rows d.t1n v
    let c1 := { c with descs := tset c.descs e.desc (setFld w 188 177 r.1) }
    { c1 with descs := tset c1.descs d.msk (setFld (c1.descWord d.msk) 127 0 r.2) }
  else
    let r := maskFor d.cols d.t0n v
    let c1 := { c with descs := tset c.descs e.desc (setFld w 200 189 r.1) }
    { c1 with descs := tset c1.descs d.msk (setFld (c1.descWord d.msk) 255 128 r.2) }

/-- One patch write: the bits of MASK of one 32-bit word (R384). -/
def State.patchWrite (s : State) (w : PatchWrite) : State :=
  let old := s.readSite w.x w.y w.off
  s.writeSite w.x w.y w.off ((old &&& ~~~ w.mask) ||| (w.value &&& w.mask))

/-- The 64-bit tower address of an HDM offset, when the range still reaches it. -/
def State.hdmAddr (s : State) (p o : Nat) : Option Dword := (s.hdmTower p o).map (fun v => towerAddr s.myMod v.1 v.2)

/-- A 64-bit field of UNIT 0: the low word at the lower offset. -/
def State.write64 (s : State) (x y off : Nat) (d : Dword) : State := (s.writeSite x y off (lo32 d)).writeSite x y (off + 4) (hi32 d)

/-- The session patch (R249): region entries, sync indices, history bases. -/
def State.sessionPatch (s : State) (p : Nat) (g : Program) (v : Session) : State :=
  let s1 := g.session.foldl (fun s e => match s.hdmAddr p ((if e.region = 0 then v.kvBase else v.histBase) + e.disp) with
    | some a => s.write64 e.x e.y e.off a
    | none => s) s
  let s2 := g.syncUse.foldl (fun s e =>
    let ix := 64 * v.chunk + e.j
    s.onCell e.x e.y (fun c =>
      if e.target = 0 then { c with slots := tset c.slots e.slot (setFld (c.slot e.slot) 63 48 ix) }
      else { c with pc := { c.pc with strm := tset c.pc.strm e.slot (setFld (c.strm e.slot) 15 0 ix) } })) s1
  g.hist.foldl (fun s e => match s.hdmAddr p (v.histBase + e.2.2) with
    | some a => s.write64 e.1 e.2.1 0x3008 a
    | none => s) s2

/-- The patches before a run: bucket, mask, session (R105, R249). In part DESIGN CHOICE, log 23. -/
def State.patchRun (s : State) (p : Nat) (g : Program) (r : Run) : State :=
  let q := s.part p
  let s1 := if q.comb = some r.comb then s else (lgetD g.patches r.comb []).foldl (fun s w => s.patchWrite w) s
  let s2 := g.masks.foldl (fun s e => s.onCell e.x e.y (fun c => c.maskPatch e (lgetD r.sizes e.dim 0))) s1
  let s3 := if q.lastSession = some r.session then s2 else s2.sessionPatch p g (s.session r.session)
  s3.onPart p (fun q => { q with comb := some r.comb, lastSession := some r.session })

end Sys2Proof.Machine
end

