-- ==== Sys2Proof/Machine/Fences.lean ====
section
/-!
DEFINITION. The defect map (R13-R15), its application to routers, towers and sync homes (R18, R19, R146, R166, R355), and fences
added in service with their Logbook records (R237, R373).
-/
namespace Sys2Proof.Machine

/-! ### The map (R13, R14) -/

/-- A defect-map entry: site, and whether its router is dead. -/
abbrev Defect := Nat × Nat × Bool

/-- A table entry of R373. -/
def fenceEntry (d : Defect) : Word := word (d.1 + d.2.1 * 2 ^ 16 + 2 ^ 30 + b2n d.2.2 * 2 ^ 31)

def defectOf (w : Word) : Defect := (fld w 9 0, fld w 25 16, bitB w 31)

/-- One entry joins a map: one entry for a site, ROUTER when any of them says so. -/
def addDefect (l : List Defect) (d : Defect) : List Defect :=
  if l.any (fun e => e.1 = d.1 && e.2.1 = d.2.1) then
    l.map (fun e => if e.1 = d.1 && e.2.1 = d.2.1 then (e.1, e.2.1, e.2.2 || d.2.2) else e)
  else l ++ [d]

/-- A FENCE record's entry (R368). -/
def LogRec.defect (r : LogRec) : Defect := (fld r.site 9 0, fld r.site 25 16, byteAt r.detail 0 = 1)

/-- The Logbook part: valid table entries and every FENCE record still held in the ring (R373). -/
def Logbook.defects (l : Logbook) : List Defect :=
  (l.fences.filter (fun w => bitB w 30)).map defectOf ++ (l.ring.filter (fun r => r.type = 0x10)).map LogRec.defect

/-- The union of the shipped part and the in-service part (R13). -/
def Helm.map (h : Helm) : List Defect := h.log.defects.foldl addDefect (h.otp.shipped.foldl addDefect [])

/-! ### Usable counts (R2, R5, R15) -/

def classes : List Cls := [.c, .m, .f, .p, .g]

def builtOf : Cls → Nat
  | .c => 258048
  | .m => 36864
  | .f => 18432
  | .p => 9216
  | .g => 9216

/-- Minimum usable counts; P-cells have none. -/
def minimumOf : Cls → Nat
  | .c => 252000
  | .m => 36000
  | .f => 18000
  | .p => 0
  | .g => 9000

def State.usable (s : State) (k : Cls) : Nat := builtOf k - (s.helm.defects.filter (fun d => clsOf d.1 d.2.1 = k)).length

def State.isBelow (s : State) (k : Cls) : Bool := s.usable k < minimumOf k

/-- One BELOW_MINIMUM record for each class of a list that is below its minimum. -/
def State.logBelow (s : State) (ks : List Cls) : State :=
  (ks.filter s.isBelow).foldl (fun s k => s.fwLog { recOf 0x12 .firmware with index := k.code, detail := leBytes 4 (s.usable k) }) s

/-! ### Routers (R146, R150) -/

/-- The pair's P-cell serves a P-site whose own body is out. -/
def State.pairServes (s : State) (x y : Nat) : Bool := decide (clsOf x y = .p) && ! s.bodyOut (pairX x) y

/-- The place of a site's entry in a detour table: its own, else the first free one. -/
def dtPlace (t : Tbl Word) (x y : Nat) : Option Nat :=
  match t.find? (fun e => siteMatch e.2 x y) with
  | some (k, _) => some k
  | none => (List.range 64).find? (fun k => ! bitB (tgetD t k 0) 31)

/-- A site entry of a type. -/
def dtWord (type x y : Nat) : Word := word (2 ^ 31 + type * 2 ^ 29 + x * 2 ^ 15 + y * 2 ^ 5)

/-- A neighbour's port that faces a dead router is set PORT_OFF, and its table refuses or redirects the dead site. -/
def Router.besideDead (r : Router) (p x y : Nat) (redirect : Bool) : Router :=
  let r1 := { r with fence := setBit r.fence (4 + p) true }
  match dtPlace r.dtSite x y with
  | some k => { r1 with dtSite := tset r1.dtSite k (dtWord (if redirect then 3 else 1) x y) }
  | none => r1

/-- The neighbours of a dead router (R146). -/
def State.avoid (s : State) (x y : Nat) : State :=
  (List.range 4).foldl (fun s p => match beyond x y p with
    | some (u, v) => s.onRouter u v (fun r => r.besideDead (opposite p) x y (s.pairServes x y))
    | none => s) s

/-- RTR_FENCE.BODY and RTR_FENCE.PAIR of a site with a BODY entry. -/
def State.fenceBody (s : State) (x y : Nat) : State :=
  s.onRouter x y (fun r => { r with fence := setBit (setBit r.fence 0 true) 2 (s.pairServes x y) })

/-- The routers at and around one site of the map. -/
def State.applySite (s : State) (d : Defect) : State :=
  if d.2.2 then s.avoid d.1 d.2.1 else s.fenceBody d.1 d.2.1

/-- The pair of a P-site, when it is in the map too: its own redirection ends. -/
def State.applyPair (s : State) (x y : Nat) : State :=
  if clsOf x y ≠ .p then s
  else match s.helm.defects.find? (fun e => e.1 = pairX x && e.2.1 = y) with
    | some e => s.applySite e
    | none => s

/-- A dead router's lane is out of service (R22). -/
def State.laneOfDead (s : State) (x y : Nat) : State :=
  match laneNo x y with
  | some (k, n) => s.onLane k n (fun l => { l with out := true, state := if l.state = .up then .training else l.state })
  | none => s

/-! ### Towers (R19, R181, R269) -/

/-- Firmware sets BRW_EVT_STATUS.HDM_CHANGED and then the decoder size of a partition whose range has changed: in size, or in the towers
that it maps. -/
def State.updateHdm (s : State) (p : Nat) (moved : Bool) : State :=
  if (s.bridge p).hdmSize = s.hdmSize p ∧ ! moved then s
  else s.onBridge p (fun b => { b.event evHdmChanged with hdmSize := s.hdmSize p })

/-- FRS_TOWER_OUT in every field resolution store. -/
def State.storeTowerOut (s : State) (f : Nat) : State :=
  (List.range 144).foldl (fun s g => s.onField g (fun q =>
    { q with frsOut := tset q.frsOut (f / 32) (setBit (tgetD q.frsOut (f / 32) 0) (f % 32) true) })) s

/-- A tower leaves service: its record, the stores, the HDM range of its partition. -/
def State.withdraw (s : State) (f : Nat) : State :=
  if (s.field f).withdrawn then s
  else
    let s1 := (s.onField f (fun q => { q with withdrawn := true })).fwLog { recOf 0x36 .firmware with flags := 1, field := f }
    (List.range 4).foldl (fun s p => if partExists (s.part p) then s.updateHdm p false else s) (s1.storeTowerOut f)

/-- Both P-cells of some pair of a tower are out (R19). -/
def State.unserved (s : State) (f : Nat) : Bool := (List.range 64).any (fun c => s.chanOut f c && s.chanOut f (Nat.xor c 1))

/-! ### Sync homes (R166) -/

/-- Homes of a rectangle: field and block row. -/
def homesIn (w : Word) : List (Nat × Nat) := (rectFields w).flatMap (fun f => (List.range 8).map (fun r => (f, r)))

/-- Homes that chunks are mapped to. -/
def State.mappedHomes (s : State) : List (Nat × Nat) :=
  ((s.field 4).frsSync.filter (fun e => bitB e.2 31)).map (fun e => (fld e.2 23 16, fld e.2 2 0))

/-- Intact homes of a partition that no chunk is mapped to. -/
def State.freeHomes (s : State) (p : Nat) : List (Nat × Nat) :=
  (homesIn (s.part p).rect).filter (fun h => s.intact h.1 h.2 && ! s.mappedHomes.contains h)

/-- A home that can be given to a session: firmware keeps at least one intact home of the partition for its own use. -/
def State.spareHome (s : State) (p : Nat) : Option (Nat × Nat) :=
  match s.freeHomes p with
  | h :: _ :: _ => some h
  | _ => none

/-- The entry of a chunk of partition `p` at a home (R170). -/
def chunkWord (p : Nat) (h : Nat × Nat) : Word := word (2 ^ 31 + p * 2 ^ 24 + h.1 * 2 ^ 16 + h.2)

/-- An M-cell of a chunk's home is out: the entry becomes invalid. -/
def State.dropHomes (s : State) : State :=
  ((s.field 4).frsSync.filter (fun e => bitB e.2 31 && ! s.intact (fld e.2 23 16) (fld e.2 2 0))).foldl (fun s e =>
    s.setChunk e.1 (setBit e.2 31 false)) s

/-- At the session's next switch its chunk moves to a spare home, with its words cleared. -/
def State.rehome (s : State) (p chunk : Nat) : State :=
  if bitB (s.chunkMap chunk) 31 then s
  else match s.spareHome p with
    | some h => (s.setChunk chunk (chunkWord p h)).clearHome h.1 h.2
    | none => s

/-- The state of a session context as QUERY_INFO reports it. -/
def State.sessionState (s : State) (v : Session) : Nat :=
  if v.state = 1 && ! bitB (s.chunkMap v.chunk) 31 && (s.spareHome v.part).isNone then 2 else v.state

/-! ### A fence in service (R13, R15, R237, R373) -/

/-- The FENCE record of an entry. -/
def fenceRec (d : Defect) (keep : Bool) : LogRec :=
  { recOf 0x10 .firmware with flags := 2 + 8 * b2n keep, site := siteWord d.1 d.2.1 0, detail := leBytes 1 (b2n d.2.2) }

/-- The Logbook takes a fence: the table first and then the record; a full table keeps the record in the ring instead. -/
def State.logFence (s : State) (d : Defect) : State :=
  if s.helm.log.fences.length < 960 then
    (s.onLog (fun l => { l with fences := l.fences ++ [fenceEntry d] })).fwLog (fenceRec d false)
  else (s.fwLog { recOf 0x11 .firmware with site := siteWord d.1 d.2.1 0 }).fwLog (fenceRec d true)

/-- The map and the Logbook take a fence. -/
def State.mapFence (s : State) (d : Defect) : State :=
  (s.onHelm (fun h => { h with defects := addDefect h.defects d })).logFence d

/-- A site is fenced in service: the Logbook, counts, routers, tower and sync homes. An entry that the map already has changes
nothing. -/
def State.fence (s : State) (d : Defect) : State :=
  let s0 := s.onHelm (fun h => { h with defects := addDefect h.defects d })
  if s0.helm.defects = s.helm.defects then s
  else
    let s1 := (s.mapFence d).countAt d.1 d.2.1 0x0F 1
    let s2 := ((s1.logBelow [clsOf d.1 d.2.1]).applySite d).applyPair d.1 d.2.1
    let s3 := if d.2.2 then s2.laneOfDead d.1 d.2.1 else s2
    let s4 := if s3.unserved (fieldOf d.1 d.2.1) then s3.withdraw (fieldOf d.1 d.2.1) else s3
    if clsOf d.1 d.2.1 = .m then s4.dropHomes else s4

/-- What the routers of a field hold for the map, as they are written again when its wafer side has been lost. -/
def State.fenceField (s : State) (f : Nat) : State :=
  (s.helm.defects.filter (fun d => fieldOf d.1 d.2.1 = f || (List.range 4).any (fun p =>
    (beyond d.1 d.2.1 p).any (fun v => fieldOf v.1 v.2 = f)))).foldl State.applySite s

end Sys2Proof.Machine
end

