-- ==== Sys2Proof/Machine/Peer.lean ====
section
/-!
DEFINITION. Peer lanes (R291-R310): frames, link control, replay, LINK_DOWN and retraining, PEER_HELLO, keep-alive, and packets that
arrive from a peer.
-/
namespace Sys2Proof.Machine

/-- BRW_DEVICE_ID of the module this edition describes: part 0x1152, module stepping A1, wafer stepping A1 (R10). -/
def deviceId : Word := 0x11520101#32

/-- MOD_MAJOR and MOD_MINOR of BRW_DEVICE_ID as one byte (R10, R304). -/
def modStepping : Byte := BitVec.ofNat 8 (fld deviceId 15 8)

/-- The module that R306 puts at a port. -/
def portPeer (topo own k : Nat) : Option Nat :=
  if topo = 1 then some (Nat.xor own 1) else if topo = 2 then some (Nat.xor own (k / 2 + 1)) else none

/-- The link-lane G-site of lane `n` of port `k` (R21, R291). -/
def siteOfLane (k n : Nat) : Nat × Nat := laneSite ((2 * k + n / 48) * 12 + n % 48 / 4) (n % 4)

/-- A command on a lane. -/
def State.onPeer (s : State) (k n : Nat) (f : State → State) : Res := if 6 ≤ k ∨ 96 ≤ n then .fault .noSuchLane else .next (f s)

/-- Counter `j` of a port (R311). -/
def State.portCount (s : State) (k j n : Nat) : State :=
  s.onHelm (fun h => { h with portCnt := tset h.portCnt (8 * k + j) (min (tgetD h.portCnt (8 * k + j) 0 + n)
    (if j ≤ 2 then 2 ^ 32 - 1 else 2 ^ 64 - 1)) })

/-! ### LINK_DOWN (R300, R302, R303) -/

/-- FAULT, STATUS LINK_DOWN, for a recorded request. -/
def linkDownAnswer (m x y : Nat) (r : LaneReq) : Packet :=
  ({ pktOf m r.x r.y r.port with tag := r.tag } : Packet).fault m x y portV codeLinkDown 0

/-- Every request of a lane's table is answered LINK_DOWN. -/
def State.failReqs (s : State) (k n : Nat) : State :=
  let v := siteOfLane k n
  let rs := (s.lane k n).reqs
  let s1 := s.onLane k n (fun l => { l with reqs := [] })
  if rs = [] then s1 else s1.inject v.1 v.2 (rs.map (linkDownAnswer s.myMod v.1 v.2))

/-- What a lane holds when it is out of service: buffers and sequence state gone, its history kept. -/
def Lane.quiet (l : Lane) (st : LaneState) : Lane :=
  { Lane.reset with state := st, out := l.out, ver := l.ver, peer := l.peer, peerStep := l.peerStep, downAt := l.downAt,
                    downTimes := l.downTimes, reqs := l.reqs, synced := l.synced, sentKA := l.sentKA, peerKA := l.peerKA }

/-- INDEX of a lane's record. -/
def laneIndex (k n : Nat) : Nat := 256 * k + n

/-- A lane is out until module reset; firmware records it (R303). -/
def State.laneOut (s : State) (k n : Nat) : State :=
  (s.onLane k n (fun l =>
    { l.quiet (if l.state = .miswired ∨ l.state = .version then l.state else .training) with out := true, downAt := none })).fwLog
    { recOf 0x32 .firmware with flags := 1, index := laneIndex k n }

/-- A lane raises LINK_DOWN; the third within 60 s puts it out. Attempts in dead reckoning do not count (R319). Active runs whose requests
take the lane complete (R260). In part DEDUCED, log 45. -/
def State.laneDown (s : State) (k n : Nat) : State :=
  let l := s.lane k n
  if l.state ≠ .up ∧ l.state ≠ .keepAlive then s
  else
    let dead := s.helm.clocks.drSet
    let times := (s.cycle :: l.downTimes).filter (fun t => s.cycle < t + 60000 * msec)
    let s1 := s.onLane k n (fun l => { l.quiet .training with downAt := some s.cycle, downTimes := if dead then l.downTimes else times })
    let s2 := (((s1.failReqs k n).hwLog { recOf 0x31 .logger with flags := 1, index := laneIndex k n }).portCount k 1 1).failLane k n
    if ! dead && 3 ≤ times.length then s2.laneOut k n else s2

/-- What makes a lane raise LINK_DOWN besides a ninth replay: a replay in progress for 4 µs, or codeword lock lost for 1 µs (R300). -/
def Lane.downDue (l : Lane) (cycle : Nat) : Bool :=
  let past := fun (t : Option Nat) (n : Nat) => t.any (fun t => t + n ≤ cycle)
  past l.replaySince (4 * usec) || past l.recvReplay (4 * usec) || past l.lockLost usec

/-- LINK_DOWN. -/
def execLinkDown (k n : Nat) (s : State) : Res := s.onPeer k n (fun s => if (s.lane k n).downDue s.cycle then s.laneDown k n else s)

/-- A port is in keep-alive: its lowest-numbered lane alone is in service (R310). -/
def State.inKeepAlive (s : State) (k : Nat) : Bool := (List.range 96).any (fun n => (s.lane k n).state = .keepAlive)

/-- LANE_RETRAIN: from 1 ms after it went down a lane trains anew. It returns, with SEQ and credits from zero, once the peer's HELLO has
come and 10 ms have passed since without a failed frame; a lane that fails stays out, and one that the HELLO found wrong stays as it is
(R305). Lanes stay in training throughout dead reckoning, and in keep-alive a port keeps one lane. In part DEDUCED, log 45. -/
def State.retrain (s : State) (k n : Nat) (good : Bool) : State :=
  let l := s.lane k n
  match l.downAt with
  | none => s
  | some t =>
    if l.out || l.state ≠ .training || s.helm.clocks.drSet || decide (s.cycle < t + msec) then s
    else if ! good then s.laneOut k n
    else if ! l.cleanAt.any (fun c => c + 10 * msec ≤ s.cycle) then s
    else
      let st : LaneState := if s.inKeepAlive k then .training else .up
      s.onLane k n (fun l => { l.quiet st with downAt := none, hello := true, synced := true })

def execLaneRetrain (k n : Nat) (good : Bool) (s : State) : Res := s.onPeer k n (fun s => s.retrain k n good)

/-! ### Link control flits (R296, R304) -/

/-- The STATE flit of a lane. -/
def Lane.stateFlit (l : Lane) : Item :=
  itemOf ([1, BitVec.ofNat 8 (b2n l.nakSeq.isSome + 2 * b2n l.replayUntil.isSome)] ++ leBytes 2 ((l.expectSeq + 4095) % 4096) ++
    leBytes 2 (l.nakSeq.getD 0) ++ zeros 2 ++ (List.range 4).flatMap (fun c => leBytes 2 (lgetD l.freed c 0 % 65536)))

/-- All 24 fields of a port's rows are in Doldrums (R310). -/
def State.wantsKA (s : State) (k : Nat) : Bool := (List.range 24).all (fun j => (s.field (24 * k + j)).power = .doldrums)

/-- The HELLO flit. The module stepping is that of BRW_DEVICE_ID. -/
def State.helloFlit (s : State) (k n : Nat) : Item :=
  itemOf ([2, 1, 1, BitVec.ofNat 8 (s.myMod % 4 + 4 * s.helm.pins.topo), BitVec.ofNat 8 k, BitVec.ofNat 8 n] ++ leBytes 2 0x1152 ++
    [modStepping, BitVec.ofNat 8 (b2n (s.wantsKA k))])

/-! ### Frames sent (R295, R298) -/

/-- ACK_SEQ or a CREDIT value differs from the last one sent. -/
def Lane.news (l : Lane) : Bool := decide (l.sentAck ≠ (l.expectSeq + 4095) % 4096) || decide (l.sentFreed ≠ l.freed)

/-- A STATE flit goes into this frame: a NAK at once, anything else in at most one frame in four. -/
def Lane.stateDue (l : Lane) : Bool := l.nakSeq.isSome || (l.news && decide (3 ≤ l.sinceState))

/-- The lane after a frame that held a STATE flit. -/
def Lane.toldState (l : Lane) (told : Bool) : Lane :=
  if told then { l with sinceState := 0, sentAck := (l.expectSeq + 4095) % 4096, sentFreed := l.freed, nakSeq := none }
  else { l with sinceState := l.sinceState + 1 }

def idleFrame (ctl : Option Item) : Frame := { data := false, seq := 0, ctl := ctl, flits := [] }

/-- The message bits of a frame: the header in [19:0], slot s in [20 + 256s + 255 : 20 + 256s] (R295). -/
def Frame.message (f : Frame) : BitVec 5140 :=
  let slots := f.ctl.toList ++ f.flits
  let head : Nat := (if f.data then 0 else 1) * 2 ^ 18 + f.seq % 4096 * 2 ^ 6 + b2n f.ctl.isSome * 2 ^ 5 + f.flits.length % 32
  ((List.range slots.length).zip slots).foldl (fun (w : BitVec 5140) (v : Nat × Item) => w ||| (v.2.setWidth 5140 <<< (20 + 256 * v.1))) (BitVec.ofNat 5140 head)

/-- The frame that message bits hold; none: a failed frame, of a reserved TYPE or with more than 20 slots (R295). -/
def frameOf (w : BitVec 5140) : Option Frame :=
  let ctl := bitB w 5
  let n := fld w 4 0
  let slot := fun (k : Nat) => (w >>> (20 + 256 * k)).setWidth 256
  if 2 ≤ fld w 19 18 ∨ 20 < b2n ctl + n then none
  else some { data := fld w 19 18 = 0, seq := fld w 17 6, ctl := if ctl then some (slot 0) else none,
              flits := (span (b2n ctl) n).map slot }

/-- The frame resent next, and where the resend goes on. -/
def Lane.resend (l : Lane) : Option (Frame × Option Nat) :=
  match l.replayFrom with
  | none => none
  | some q => match l.replayBuf.find? (fun f => f.seq = q) with
    | none => none
    | some f => some (f, if l.replayBuf.any (fun g => g.seq = (q + 1) % 4096) then some ((q + 1) % 4096) else none)

/-- The next frame of a lane in service. A resent frame keeps its contents, so during a resend a NAK, and news that has waited fifteen
frames (R296), goes in an IDLE frame. In part DEDUCED, log 45. -/
def Lane.nextFrame (l : Lane) (cycle : Nat) : Lane :=
  let due := l.stateDue
  let ctl := if due then some l.stateFlit else none
  match l.resend with
  | some (f, rest) =>
    if l.nakSeq.isSome || (l.news && decide (15 ≤ l.sinceState)) then ({ l with lastFrame := some (idleFrame ctl) } : Lane).toldState true
    else ({ l with lastFrame := some f, replayFrom := rest } : Lane).toldState false
  | none =>
    if l.tx = [] || decide (128 ≤ l.replayBuf.length) then ({ l with lastFrame := some (idleFrame ctl) } : Lane).toldState due
    else
      let k := if due then 19 else 20
      let f : Frame := { data := true, seq := l.sendSeq, ctl := ctl, flits := l.tx.take k }
      ({ l with tx := l.tx.drop k, sendSeq := (l.sendSeq + 1) % 4096, replayBuf := l.replayBuf ++ [f], lastFrame := some f,
                ackAt := if l.replayBuf = [] then cycle else l.ackAt } : Lane).toldState due

/-- A HELLO is sent in an IDLE frame. -/
def State.sendHello (s : State) (k n : Nat) : State :=
  s.onLane k n (fun l => { l with lastFrame := some (idleFrame (some (s.helloFlit k n))), sentKA := s.wantsKA k })

/-- A lane that trains sends HELLO until the peer's has come, and IDLE frames from then on (R304). -/
def State.sendTraining (s : State) (k n : Nat) : State :=
  if (s.lane k n).hello then s.onLane k n (fun l => { l with lastFrame := some (idleFrame none) }) else s.sendHello k n

/-- FRAME_SEND: a lane at link-up, in step PEERS, or in retraining exchanges HELLO; one that has raised LINK_DOWN and not begun to retrain
sends nothing. A lane in service sends HELLO again when its KA changes (R310); in keep-alive it carries IDLE frames and link control
only. In part DEDUCED, log 45. -/
def State.sendFrame (s : State) (k n : Nat) : State :=
  let l := s.lane k n
  match l.state with
  | .up => if s.wantsKA k ≠ l.sentKA then s.sendHello k n else s.onLane k n (fun l => l.nextFrame s.cycle)
  | .keepAlive => if s.wantsKA k ≠ l.sentKA then s.sendHello k n else s.onLane k n (fun l => { l with lastFrame := some (idleFrame none) })
  | .training =>
    if l.out || (match l.downAt with
      | some t => decide (s.cycle < t + msec)
      | none => false) then s
    else s.sendTraining k n
  | .unconnected =>
    if l.out || (portPeer s.helm.pins.topo s.myMod k).isNone || ! (s.helm.steps.step = 10 && s.helm.steps.state = 1) then s
    else s.sendTraining k n
  | _ => s

def execFrameSend (k n : Nat) (s : State) : Res := s.onPeer k n (fun s => s.sendFrame k n)

/-! ### Replay (R299, R300) -/

/-- Distance from one sequence number to another. -/
def seqDist (a b : Nat) : Nat := (b + 4096 - a % 4096) % 4096

/-- A replay from a held frame begins; none: a ninth within 4 µs of the first of the eight before it. -/
def Lane.replay (l : Lane) (seq cycle : Nat) : Option Lane :=
  if ! l.replayBuf.any (fun f => f.seq = seq) then some l
  else
    let ts := l.replayTimes.take 8
    if ts.length = 8 ∧ cycle < (ts.getLastD 0) + 4 * usec then none
    else some { l with replayFrom := some seq, replayUntil := some seq, replaySince := some cycle, replayTimes := cycle :: ts.take 7 }

/-- A replay of a lane in service. -/
def State.replay (s : State) (k n seq : Nat) : State :=
  let l := s.lane k n
  if l.state ≠ .up || ! l.replayBuf.any (fun f => f.seq = seq) then s
  else match l.replay seq s.cycle with
    | some l1 => (s.onLane k n (fun _ => l1)).portCount k 0 1
    | none => s.laneDown k n

/-- NAK: the sender resends every held frame from NAK_SEQ. -/
def execNak (k n seq : Nat) (s : State) : Res := s.onPeer k n (fun s => s.replay k n seq)

/-- NAK_REPEAT: 1 µs after the last NAK, while the expected frame has not arrived. -/
def execNakRepeat (k n : Nat) (s : State) : Res :=
  s.onPeer k n (fun s => s.onLane k n (fun l =>
    if l.recvReplay.isSome && decide (l.nakAt + usec ≤ s.cycle) then { l with nakSeq := some l.expectSeq, nakAt := s.cycle } else l))

/-- ACK_TIMEOUT: ACK_SEQ has not advanced for 2 µs while frames are held. -/
def execAckTimeout (k n : Nat) (s : State) : Res :=
  s.onPeer k n (fun s =>
    let l := s.lane k n
    match l.replayBuf with
    | f :: _ =>
      if l.state = .up ∧ l.ackAt + 2 * usec ≤ s.cycle then
        (s.onLane k n (fun l => { l with ackAt := s.cycle })).replay k n f.seq
      else s
    | [] => s)

/-! ### Frames received -/

/-- ACK_SEQ covers frames: they leave the replay buffer; a replay whose first frame is covered is over. In part DEDUCED, log 45. -/
def Lane.acked (l : Lane) (ack cycle : Nat) : Lane :=
  let d := seqDist l.ackSeq ack
  if d = 0 ∨ l.replayBuf.length < d then l
  else
    let gone := l.replayBuf.take d
    let left := l.replayBuf.drop d
    let covered := fun (q : Option Nat) => match q with
      | some q => gone.any (fun f => f.seq = q)
      | none => false
    { l with replayBuf := left, ackSeq := ack, ackAt := cycle,
             replayFrom := if covered l.replayFrom then left.head?.map (·.seq) else l.replayFrom,
             replayUntil := if covered l.replayUntil then none else l.replayUntil,
             replaySince := if covered l.replayUntil then none else l.replaySince }

/-- CREDIT values of a STATE flit: flits freed at the peer since link-up. In part DEDUCED, log 45. -/
def Lane.credited (l : Lane) (it : Item) : Lane :=
  (List.range 4).foldl (fun l c =>
    let v := itemLe it (8 + 2 * c) 2
    let d := (v + 65536 - lgetD l.peerFreed c 0) % 65536
    if lgetD l.credits c 0 + d ≤ 288 then
      { l with credits := lset l.credits c (lgetD l.credits c 0 + d), peerFreed := lset l.peerFreed c v }
    else l) l

/-- Whole packets among the flits received. -/
def splitRx : Nat → List Item → List Packet → List Item × List Packet
  | 0, l, ps => (l, ps)
  | n + 1, l, ps =>
    match l with
    | [] => ([], ps)
    | h :: t =>
      let k := fld h 138 135
      if t.length < k then (l, ps) else splitRx n (t.drop k) (ps ++ [packetOf h (t.take k)])

def Lane.takeFlits (l : Lane) (fl : List Item) : Lane :=
  let all := l.rx ++ fl
  let r := splitRx all.length all []
  { l with rx := r.1, rxPkts := l.rxPkts ++ r.2 }

/-- The expected frame did not come: NAK, and later DATA frames are discarded until it does. -/
def Lane.missed (l : Lane) (cycle : Nat) : Lane :=
  if l.recvReplay.isSome then l else { l with recvReplay := some cycle, nakSeq := some l.expectSeq, nakAt := cycle }

/-- A DATA frame: expected, older (a duplicate), or out of order. -/
def Lane.dataFrame (l : Lane) (f : Frame) (cycle : Nat) : Lane × Bool :=
  let d := seqDist f.seq l.expectSeq
  if d = 0 then
    (({ l with expectSeq := (l.expectSeq + 1) % 4096, recvReplay := none, nakSeq := none } : Lane).takeFlits f.flits, false)
  else if d < 2048 then (l, true)
  else (l.missed cycle, false)

/-- A codeword that needs 13 or more corrections, or that cannot be corrected, or whose header is no frame's, is a failed frame
(R293, R295). -/
def codewordFrame (c : Codeword) : Option Frame :=
  match c.fix with
  | some e => if 12 < e then none else frameOf c.msg
  | none => none

/-- Codeword lock: declared after 64 codewords in a row with a zero syndrome, lost after 16 in a row that cannot be corrected (R293). -/
def Lane.search (l : Lane) (c : Codeword) (cycle : Nat) : Lane :=
  if l.synced then
    let bad := if c.fix = none then l.badRun + 1 else 0
    if 16 ≤ bad then { l with synced := false, lockLost := some cycle, zeroRun := 0, badRun := 0 } else { l with badRun := bad }
  else
    let clean := if c.fix = some 0 then l.zeroRun + 1 else 0
    if 64 ≤ clean then { l with synced := true, lockLost := none, zeroRun := 0, badRun := 0 } else { l with zeroRun := clean }

/-- PEER_HELLO: what the checks of R305 make of a HELLO flit. -/
def helloState (topo own k n : Nat) (it : Item) : LaneState :=
  let id := itemLe it 3 1
  if id / 4 % 4 ≠ topo ∨ portPeer topo own k ≠ some (id % 4) ∨ itemLe it 4 1 ≠ k ∨ itemLe it 5 1 ≠ n ∨ itemLe it 6 2 ≠ 0x1152 then
    .miswired
  else if min (itemLe it 2 1) 1 < max (itemLe it 1 1) 1 then .version
  else .training

/-- A HELLO reaches a lane. In retraining it starts the 10 ms without a failed frame (R303); a lane whose check has failed stays out of
service (R305). In part DEDUCED, log 45. -/
def State.helloIn (s : State) (k n : Nat) (it : Item) : State :=
  let l := s.lane k n
  if itemLe it 0 1 ≠ 2 ∨ l.out = true ∨ (portPeer s.helm.pins.topo s.myMod k).isNone ∨ l.state = .miswired ∨ l.state = .version then s
  else
    match helloState s.helm.pins.topo s.myMod k n it with
    | .training => s.onLane k n (fun l => { l with
        state := if l.state = .up ∨ l.state = .keepAlive then l.state else .training, ver := min (itemLe it 2 1) 1,
        peer := itemLe it 3 1 % 4, peerStep := itemLe it 8 1, hello := true, peerKA := decide (itemLe it 9 1 % 2 = 1),
        cleanAt := match l.downAt, l.cleanAt with
          | some t, none => if t + msec ≤ s.cycle then some s.cycle else none
          | _, c => c })
    | bad => (s.onLane k n (fun l => { l.quiet bad with hello := true })).failReqs k n

def execPeerHello (k n : Nat) (flit : Item) (s : State) : Res := s.onPeer k n (fun s => s.helloIn k n flit)

/-- A control flit reaches a lane. -/
def State.ctlIn (s : State) (k n : Nat) (it : Item) : State :=
  match itemLe it 0 1 with
  | 1 =>
    let s1 := s.onLane k n (fun l =>
      { (l.acked (itemLe it 2 2 % 4096) s.cycle).credited it with peerReplay := decide (itemLe it 1 1 / 2 % 2 = 1) })
    if itemLe it 1 1 % 2 = 1 then s1.replay k n (itemLe it 4 2 % 4096) else s1
  | 2 => s.helloIn k n it
  | _ => s

/-- A failed frame: a lane in service waits for the frame it expects, and a lane that runs to return to service has failed (R299, R303). -/
def State.frameFailed (s : State) (k n : Nat) : State :=
  let l := s.lane k n
  let s1 := s.portCount k 4 1
  if l.state = .up then s1.onLane k n (fun l => l.missed s.cycle)
  else if l.state = .training ∧ l.downAt.isSome ∧ l.cleanAt.isSome then s1.laneOut k n
  else s1

/-- A good frame: its control flit, then its flits. -/
def State.frameIn (s : State) (k n : Nat) (f : Frame) : State :=
  let s1 := match f.ctl with
    | some it => s.ctlIn k n it
    | none => s
  if f.data && decide ((s1.lane k n).state = .up) then
    let r := (s1.lane k n).dataFrame f s.cycle
    let s2 := s1.onLane k n (fun _ => r.1)
    if r.2 then s2.portCount k 2 1 else s2
  else s1

/-- FRAME_RECEIVE: a codeword. Frames are found once the receiver has lock. -/
def State.codewordIn (s : State) (k n : Nat) (c : Codeword) : State :=
  let l := s.lane k n
  let s1 := s.onLane k n (fun l => l.search c s.cycle)
  if ! l.synced then s1
  else
    let s2 := if c.fix.any (fun e => decide (1 ≤ e ∧ e ≤ 12)) then s1.portCount k 3 1 else s1
    match codewordFrame c with
    | none => s2.frameFailed k n
    | some f => s2.frameIn k n f

def execFrameReceive (k n : Nat) (cw : Codeword) (s : State) : Res := s.onPeer k n (fun s => s.codewordIn k n cw)

/-! ### Packets from a peer (R297, R302, R308) -/

/-- A packet leaves the receive buffer: its flits are freed and will be credited back. -/
def Lane.freePkt (l : Lane) (p : Packet) (rest : List Packet) : Lane :=
  { l with rxPkts := rest, freed := lset l.freed p.cls ((lgetD l.freed p.cls 0 + p.size) % 65536) }

/-- A link die's record of the request that a response answers: its source and TAG (R302). -/
def answers (p : Packet) (r : LaneReq) : Bool :=
  r.x = fld p.dest 57 48 && r.y = fld p.dest 47 38 && r.port = fld p.dest 2 0 && r.tag = p.tag

/-- The lane whose table records it: the lane of the request, which need not be that of the response (R307). -/
def State.recorded (s : State) (p : Packet) : Option Nat := (s.lanes.find? (fun e => e.2.reqs.any (answers p))).map (·.1)

/-- The record is cleared. -/
def State.clearReq (s : State) (p : Packet) : State :=
  match s.recorded p with
  | none => s
  | some i => s.onLane (i / 96) (i % 96) (fun l => match takeFirst (answers p) l.reqs with
      | some (_, rest) => { l with reqs := rest }
      | none => l)

/-- PEER_PACKET_ARRIVE: the oldest packet of a class is checked as at ejection, resolved again with the field's partition as its
source, and takes a place in the V port's buffer; or it is refused, discarded, or waits for room. A response without a record, its own
dropped with the epoch of its cell (R155), is discarded. -/
def State.peerIn (s : State) (k n cls : Nat) : State :=
  match takeFirst (fun (p : Packet) => p.cls = cls) (s.lane k n).rxPkts with
  | none => s
  | some (p0, rest) =>
    let v := siteOfLane k n
    let p := { p0 with detour := false, down := false }
    let r := s.router v.1 v.2
    let s1 := s.onLane k n (fun l => l.freePkt p0 rest)
    let drop := s1.onRouter v.1 v.2 (fun r => r.count 8)
    if ! s.routerUp v.1 v.2 then s
    else if p.damaged || ! opKnown p.op then (s1.onRouter v.1 v.2 (fun r => r.count 3)).routerReport v.1 v.2 0 0xFF 0
    else if p.mc then drop
    else if p.cls = clsRsp && (s.recorded p).isNone then drop
    else match destOf s v.1 v.2 portV p with
      | .refused =>
        if p.isReq then (s1.inject v.1 v.2 [p.fault s.myMod v.1 v.2 portV fabFencedTarget 3]).onRouter v.1 v.2 (fun r => r.count 0)
        else drop.clearReq p
      | .to a b q =>
        let link := 6 + portV
        if r.vcRoom portV p && r.linkFree link s.cycle && r.tailOf link = 0 then
          (s1.onRouter v.1 v.2 (fun r => ({ r with bufs := r.bufs ++
            [s.flight v.1 v.2 portV { p with dstX := a, dstY := b, dstPort := q } (s.cycle + 2)] } : Router).useLink link s.cycle
            p.payload.length)).clearReq p
        else s

def execPeerPacketArrive (k n cls : Nat) (s : State) : Res :=
  if 4 ≤ cls then .fault .noSuchPart else s.onPeer k n (fun s => s.peerIn k n cls)

/-! ### Keep-alive (R310) -/

/-- The lanes of a port that are not out and are connected. -/
def State.goodLanes (s : State) (k : Nat) : List Nat :=
  (List.range 96).filter (fun n =>
    let l := s.lane k n
    ! l.out && (l.state = .up || l.state = .keepAlive))

/-- A lane of a port in keep-alive that carries nothing: it waits for the port to retrain. In part DEDUCED, log 45. -/
def Lane.parked (l : Lane) : Bool := ! l.out && l.state = .training && l.downAt.isNone && l.peer ≠ 0xFF

/-- An end of the port sets KA: this one while its fields are in Doldrums, or the peer in the HELLO that came last. -/
def State.eitherKA (s : State) (k : Nat) : Bool := s.wantsKA k || (s.goodLanes k).any (fun n => (s.lane k n).peerKA)

/-- KEEP_ALIVE: while either end sets KA only the lowest-numbered lane stays, in keep-alive; when neither does, every lane of the port
retrains. In part DEDUCED, log 45. -/
def State.keepAlivePort (s : State) (k : Nat) : State :=
  let ls := s.goodLanes k
  if s.eitherKA k then
    if s.inKeepAlive k then s
    else ls.foldl (fun s n =>
      let s1 := (s.failReqs k n).onLane k n (fun l => l.quiet (if ls.head? = some n then .keepAlive else .training))
      s1.failLane k n) s
  else if s.inKeepAlive k || ls.length ≤ 1 then
    (List.range 96).foldl (fun s n =>
      let l := s.lane k n
      if l.parked || (! l.out && l.state = .keepAlive) then
        s.onLane k n (fun l => { l.quiet .training with downAt := some s.cycle })
      else s) s
  else s

def execKeepAlive (k : Nat) (s : State) : Res := if 6 ≤ k then .fault .noSuchLane else .next (s.keepAlivePort k)

end Sys2Proof.Machine
end

