-- ==== Sys2Proof/Machine/Power.lean ====
section
/-!
DEFINITION. Power states, loss and return of fields, reefing, thermal shutdown (R156, R157, R317, R318, R325-R337, R407, R417) and
the module's clocks (R314, R319, R321).
-/
namespace Sys2Proof.Machine

/-! ### The service network (R28) -/

/-- Parent of a base die over the service network; none: the helm. In part DEDUCED, log 32. -/
def State.parentOf (s : State) (f : Nat) : Option Nat :=
  if (s.field f).altParent then some (if f % 12 = 0 then f + 1 else f - 1) else if f < 12 then none else some (f - 12)

/-- A base die's link to the parent it uses is dead: its primary parent has stopped answering, and it uses no other. -/
def State.parentLost (s : State) (f : Nat) : Bool := ! (s.field f).altParent && (s.field f).primaryDead

/-- The helm is reached from a base die over live links, without passing `f`. -/
def State.reachesHelm (s : State) (f : Nat) : Nat → Option Nat → Bool
  | _, none => true
  | 0, some _ => false
  | n + 1, some g => if g = f || s.parentLost g then false else s.reachesHelm f n (s.parentOf g)

/-- The service network reaches the base die of a field (R28); 144 is no field, so nothing need be avoided. -/
def State.svcUp (s : State) (f : Nat) : Bool := s.reachesHelm 144 288 (some f)

/-- The alternate parent of a base die (R28). -/
def altOf (f : Nat) : Nat := if f % 12 = 0 then f + 1 else f - 1

/-- One base die of a column switched to its alternate parent, when its primary does not reach the helm and the alternate does without
passing it: no loop is formed (R28). -/
def State.toAlt (s : State) (f : Nat) : State :=
  if ! (s.field f).altParent && ! s.svcUp f && s.reachesHelm f 288 (some (altOf f)) then
    s.onField f (fun q => { q with altParent := true })
  else s

/-! ### Reasons of a start-up step (R341, R342, R365) -/

def reasonClock : Nat := 1
def reasonLosses : Nat := 5
def reasonHelmPath : Nat := 8

/-- A STEP record of the step in progress (R368). -/
def State.stepLog (s : State) (reason f : Nat) : State :=
  let t := s.helm.steps
  let r := { recOf 0x05 .firmware with index := t.step, field := f, detail := leBytes 1 t.state ++ leBytes 1 reason }
  if t.step ≤ 3 then s.romLog r else s.fwLog r

/-- The STEP record of the step's state. -/
def State.logStep (s : State) : State := s.stepLog s.helm.steps.reason 0xFFFF

/-- A reason that no other record of the step tells, with the field concerned (R341). In part DEDUCED, log 28. -/
def State.logReason (s : State) (reason f : Nat) : State := s.stepLog reason f

/-- A reason arises in the step in progress; the first one is kept. -/
def Steps.arise (t : Steps) (reason : Nat) (code : Code) : Steps :=
  if t.state = 1 ∧ t.reason = 0 then { t with reason := reason, code := code } else t

/-- The step in progress fails; REASON is the first reason that arose in it. -/
def State.failStep (s : State) (reason : Nat) (code : Code) : State :=
  let t := s.helm.steps
  if t.state = 1 then
    let s1 := if t.reason = 0 ∨ t.reason = reason then s else s.logReason reason 0xFFFF
    (s1.onSteps (fun t => { t.arise reason code with state := 4 })).logStep
  else s

/-- A field is lost during steps 5 to 10 (R365). -/
def State.stepLost (s : State) (f : Nat) : State :=
  let t := s.helm.steps
  if t.state = 1 && 5 ≤ t.step && t.step ≤ 10 then
    (if f = 4 then s.failStep reasonHelmPath 0 else s.onSteps (fun t => t.arise reasonLosses 0))
  else s

/-! ### The mesh around a field (R156, R157, R318) -/

/-- PORT_OFF stands at a port: a failed link, a dead router or a field out of service beyond it. -/
def State.wantsOff (s : State) (x y p : Nat) : Bool :=
  match beyond x y p with
  | some (u, v) => s.failedLink x y p || s.routerDead u v || s.helm.lostFields.contains (fieldOf u v)
  | none => false

def State.setPortOff (s : State) (x y p : Nat) : State :=
  let w := s.wantsOff x y p
  if bitB (s.router x y).fence (4 + p) = w then s
  else s.onRouter x y (fun r => { r with fence := setBit r.fence (4 + p) w })

/-- Ports that face a field, on routers of fields with their rails up. -/
def State.facingUp (s : State) (f : Nat) : List (Nat × Nat × Nat) := (facing f).filter (fun v => (s.field (fieldOf v.1 v.2.1)).rails)

/-- A field is out of service: firmware writes its entry in every router outside it, LOST or a way around (R156 step 2, R157 steps 4
and 5); a field that is already lost is not lost again. -/
def State.markLost (s : State) (f : Nat) : State :=
  let s1 := s.onHelm (fun h => { h with lostFields := if h.lostFields.contains f then h.lostFields else h.lostFields ++ [f] })
  { s1 with routers := tmap (fun _ (r : Router) => { r with dtField := tdel r.dtField f }) s1.routers }

/-- R156 steps 1 to 3. -/
def State.fieldLeaves (s : State) (f : Nat) : State :=
  let s1 := (s.setFieldOff f true).markLost f
  (s1.facingUp f).foldl (fun s v => s.setPortOff v.1 v.2.1 v.2.2) s1

/-- A field is in the mesh again: its LOST entries, FIELD_OFF and the PORT_OFF of its neighbours go; its own ports that lead nowhere
are set PORT_OFF. -/
def State.fieldReturns (s : State) (f : Nat) : State :=
  let s1 := ((s.setFieldOff f false).onField f (fun q => { q with lostAt := none })).onHelm (fun h =>
    { h with lostFields := h.lostFields.filter (· ≠ f) })
  let own := (List.range 4).flatMap (fun p => match fieldBeyond f p with
    | some g => (facing g).filter (fun v => fieldOf v.1 v.2.1 = f)
    | none => [])
  (s1.facingUp f ++ own).foldl (fun s v => s.setPortOff v.1 v.2.1 v.2.2) s1

/-- COUPLE is cleared on the far side of each boundary (R318, R336). -/
def State.uncouple (s : State) (f : Nat) : State :=
  (List.range 4).foldl (fun s p => match fieldBeyond f p with
    | some g => s.onField g (fun q => { q with couple := setBit q.couple (opposite p) false })
    | none => s) s

/-- COUPLE is cleared on both sides (R318). -/
def State.cutRose (s : State) (f : Nat) : State := (s.uncouple f).onField f (fun q => { q with couple := 0 })

/-- Couplings toward locked neighbours are enabled on both sides. -/
def State.joinRose (s : State) (f : Nat) : State :=
  (List.range 4).foldl (fun s p => match fieldBeyond f p with
    | some g =>
      if (s.field g).rails && (s.field g).oscEn && (s.field g).locked then
        (s.onField g (fun q => { q with couple := setBit q.couple (opposite p) true })).onField f (fun q =>
          { q with couple := setBit q.couple p true })
      else s
    | none => s) s

/-! ### Off (R325, R335, R336) -/

/-- What the pins and the SMBus show of a field that enters Off (R396, R411). In part DEDUCED, log 44. -/
def Pins.fieldOff (p : Pins) (heat : Bool) : Pins :=
  { p with smbStatus := setBit (if heat then setBit p.smbStatus 7 true else p.smbStatus) 6 true, thermtrip := p.thermtrip || heat }

/-- A power stage trips, by a short, by PWR_CMD or at 110 °C: runs that use the field complete, the field is dark and lost (R157,
R336). In part DEDUCED, log 46. -/
def State.loseField (s : State) (f : Nat) (code : Code) (r : LogRec) (heat : Bool) : State :=
  let q := s.field f
  if q.power = .off ∧ s.helm.lostFields.contains f then s.onField f (fun q => { q with tripped := true })
  else
    let s1 := s.failField f code
    let s2 := if q.tripped then s1 else s1.tripStage f
    let s3 := ((s2.markLost f).uncouple f).onField f (fun q =>
      { q with fieldOff := false, hwThermal := q.hwThermal || heat, coolAt := none,
               lostAt := if s.helm.lostFields.contains f then q.lostAt else some s.cycle })
    ((s3.onPins (fun p => p.fieldOff heat)).hwLog { r with flags := 1, code := code, field := f }).stepLost f

/-- FIELD_POWER_LOST. -/
def State.powerLost (s : State) (f : Nat) : State := s.loseField f fieldPowerLost (recOf 0x34 .logger) false

/-- TRIP: the same trip as on a short. -/
def execTrip (f : Nat) (s : State) : Res := s.onFld f (fun s => s.powerLost f)

/-- POWER_STAGE_TRIP: an overcurrent of a field's core rail, or a trip that PWR_CMD has made. -/
def execPowerStageTrip (f : Nat) (s : State) : Res :=
  s.onFld f (fun s => if (s.field f).rails || ((s.field f).tripped && ! s.helm.lostFields.contains f) then s.powerLost f else s)

/-- A boundary under one name: the field to its west or north, with the port that leads across. -/
def edgeOf (v : Nat × Nat) : Nat × Nat :=
  match v.2 with
  | 0 => (v.1 - 12, 2)
  | 3 => (v.1 - 1, 1)
  | _ => v

/-- The fields of a boundary. -/
def edgeEnds (v : Nat × Nat) : List Nat := v.1 :: (fieldBeyond v.1 v.2).toList

/-- A coupled boundary. -/
def State.joined (s : State) (v : Nat × Nat) : Bool := (fieldBeyond v.1 v.2).isSome && bitB (BitVec.ofNat 4 (s.coupled v.1)) v.2

/-- The field that has lost lock, of the two of a boundary: the one that is beyond bound toward more than one neighbour, else the one with
the higher index (R317). In part DEDUCED, log 46. -/
def slipLoser (all : List (Nat × Nat)) (v : Nat × Nat) : Nat :=
  let many := (edgeEnds v).filter (fun f => decide (2 ≤ (all.filter (fun w => (edgeEnds w).contains f)).length))
  if many.length = 1 then many.headD 0 else (edgeEnds v).foldl max 0

/-- SLIP at both fields of a boundary, and DOWN at both ends of every link across it (R317). -/
def State.slipAt (s : State) (v : Nat × Nat) : State :=
  match fieldBeyond v.1 v.2 with
  | none => s
  | some g =>
    let s1 := s.onField v.1 (fun q => { q with slip := setBit q.slip v.2 true })
    let s2 := s1.onField g (fun q => { q with slip := setBit q.slip (opposite v.2) true })
    let down := fun (a b : Nat) (s : State) => ((facing a).filter (fun u => fieldOf u.1 u.2.1 = b)).foldl (fun s u =>
      s.onRouter u.1 u.2.1 (fun r => { r with linkDown := setBit r.linkDown u.2.2 true })) s
    down v.1 g (down g v.1 s2)

/-- The report of a field that has lost lock, with its SLIP bits, and its trip (R317). -/
def State.slipLost (s : State) (f : Nat) : State :=
  (s.hwLog { recOf 0x33 .logger with flags := 1, field := f, detail := leBytes 1 (s.field f).slip.toNat }).powerLost f

/-- ROSE_SLIP: offsets beyond bound at the boundaries given, each by a field and its port; only coupled ones can slip. In part DEDUCED,
log 46. -/
def State.slips (s : State) (bounds : List (Nat × Nat)) : State :=
  let all := dedup ((bounds.filter s.joined).map edgeOf)
  (dedup (all.map (slipLoser all))).foldl State.slipLost (all.foldl State.slipAt s)

def execRoseSlip (bounds : List (Nat × Nat)) (s : State) : Res :=
  if bounds.any (fun v => decide (144 ≤ v.1)) then .fault .noSuchField
  else if bounds.any (fun v => decide (4 ≤ v.2)) then .fault .noSuchPart
  else .next (s.slips bounds)

/-! ### Idle time (R326, R330, R417) -/

/-- Fields of the towers that hold a stretch of a partition's HDM range. -/
def State.hdmFields (s : State) (p base size : Nat) : List Nat :=
  if size = 0 then []
  else (List.range ((base + size - 1) / 2 ^ 33 + 1 - base / 2 ^ 33)).filterMap (fun k => (s.hdmTower p ((base / 2 ^ 33 + k) * 2 ^ 33)).map (·.1))

/-- The field of a chunk's home. -/
def State.chunkField (s : State) (c : Nat) : List Nat := if bitB (s.chunkMap c) 31 then [fld (s.chunkMap c) 23 16] else []

/-- Fields of a 144-bit mask. -/
def maskFields (m : Nat) : List Nat := (List.range 144).filter (fun f => m.testBit f)

/-- The fields that a command in execution works in. -/
def State.cmdFields (s : State) (h : Nat) (c : MbxCmd) : List Nat :=
  let b := c.body
  match c.opcode with
  | 0x06 =>
    let n := leAt b 0 2
    s.hdmFields h (leAt b 24 8) (leAt b 32 8) ++
      (if (s.session n).state = 1 then s.chunkField (s.session n).chunk else (s.spareHome h).toList.map (·.1))
  | 0x07 => s.chunkField (s.session (leAt b 0 2)).chunk
  | 0x0A => maskFields (leAt b 0 18)
  | 0x0E => if byteAt b 0 = 1 then [byteAt b 1] else []
  | 0x12 => rectFields (s.part h).rect
  | _ => []

/-- A command works in a field. -/
def State.working (s : State) (f : Nat) : Bool :=
  s.bridges.any (fun b => b.2.executing.any (fun c => (s.cmdFields b.1 c).contains f))

def State.inUse (s : State) (f : Nat) : Bool := s.fieldInUse f || s.working f

/-- The idle time of a field in core cycles. -/
def State.idleTime (s : State) (f : Nat) : Nat :=
  let q := s.field f
  match q.idleSince with
  | none => 0
  | some t =>
    let from_ := match q.cxlLast with
      | some c => max t (c + msec)
      | none => t
    if s.inUse f then 0 else s.cycle - from_

/-- LULL_IDLE and DOLDRUMS_IDLE in core cycles; none: never. -/
def State.idleLimits (s : State) (f : Nat) : Option Nat × Option Nat :=
  let q := match s.partOfField f with
    | some p => s.part p
    | none => Partition.reset
  let lull := if q.lullIdle = 0xFFFFFFFF then none else some (q.lullIdle * usec)
  let dold := if q.doldIdle = 0xFFFFFFFF then none else some (q.doldIdle * msec)
  (lull, match lull, dold with
    | some a, some b => some (max a b)
    | _, d => d)

/-- Firmware is in service. -/
def State.serving (s : State) : Bool := s.helm.fw.running && s.helm.service

/-- LULL_IDLE_EXPIRY: the first attempt, and again each time a further LULL_IDLE has passed since a refused one (R327). -/
def State.tryLull (s : State) (f : Nat) : State :=
  let q := s.field f
  match (s.idleLimits f).1 with
  | none => s
  | some n =>
    if s.serving && s.svcUp f && q.power = .underway && decide (n ≤ s.idleTime f) && (match q.lullTry with
      | some t => decide (t + n ≤ s.cycle)
      | none => true) then s.toLull f
    else s

def execLullIdleExpiry (f : Nat) (s : State) : Res := s.onFld f (fun s => s.tryLull f)

/-! ### Doldrums (R328-R331) -/

/-- Sync words of the mapped chunks whose homes lie in a field. -/
def State.syncOf (s : State) (f : Nat) : List (Nat × Nat × Nat × Dword) :=
  ((s.field 4).frsSync.filter (fun e => bitB e.2 31 && fld e.2 23 16 = f)).flatMap (fun e =>
    (homeSites f (fld e.2 2 0)).flatMap (fun v => [0, 1].map (fun k => (v.1, v.2, k, ((s.cell v.1 v.2).sw k).word))))

/-- The active program of the partition that holds a field. -/
def State.activeIn (s : State) (f : Nat) : Option (Nat × Program) :=
  match s.partOfField f with
  | none => none
  | some p => match (s.part p).activeSlot with
    | none => none
    | some k => (s.program p k).map (fun g => (p, g))

/-- Steps 1 to 3 of the entry; SR_ENTER and RAILS_OFF complete it. In part DEDUCED, log 36. -/
def State.enterDoldrums (s : State) (f : Nat) : State :=
  let saved := match s.activeIn f with
    | some (_, g) => s.drain g [f]
    | none => []
  let routers := s.routers.filter (fun r => fieldOf (r.1 % 576) (r.1 / 576) = f)
  let s0 := match (s.partOfField f).bind (fun p => (s.part p).activeSlot.bind (fun k => tget (s.part p).programs k)) with
    | some r => (s.fillSave r [f]).draw
    | none => s
  let s1 := s0.onField f (fun q => { q with savedCells := saved, savedSync := s.syncOf f, savedRouters := routers, entry := some s.cycle })
  (s1.fieldLeaves f).cutRose f

/-- DOLDRUMS_IDLE_EXPIRY: from Lull, except for field (4, 0). -/
def State.tryDoldrums (s : State) (f : Nat) : State :=
  let q := s.field f
  match (s.idleLimits f).2 with
  | none => s
  | some n =>
    if s.serving && s.svcUp f && decide (f ≠ 4) && q.power = .lull && q.entry.isNone && ! q.shutting && decide (n ≤ s.idleTime f) then s.enterDoldrums f
    else s

def execDoldrumsIdleExpiry (f : Nat) (s : State) : Res := s.onFld f (fun s => s.tryDoldrums f)

/-- What an entry has taken is given back: tables, couplings, self-refresh (R331). -/
def State.reverseEntry (s : State) (f : Nat) : State :=
  ((s.fieldReturns f).joinRose f).onField f (fun q =>
    { q with entry := none, sr := false, savedCells := [], savedSync := [], savedRouters := [] })

/-- A wake request (R327, R330, R331); its commands reach the base die over the service network (R28). -/
def State.wake (s : State) (f : Nat) : State :=
  let q := s.field f
  match q.power with
  | .underway => s.onField f (fun q => { q with idleSince := some s.cycle })
  | .lull =>
    if q.shutting || ! s.svcUp f then s
    else
      let s1 := if q.entry.isSome then s.reverseEntry f else s
      s1.onField f (fun q => q.ungate s.cycle)
  | .doldrums => s.onField f (fun q => { q with waking := if q.waking.isNone && s.svcUp f then some s.cycle else q.waking })
  | .off => s

def execWakeRequest (f : Nat) (s : State) : Res := s.onFld f (fun s => s.wake f)

/-- Chunks of a class image, padded (R351). -/
def mcChunks : Nat → List Byte → List (List Byte)
  | 0, _ => []
  | n + 1, l => if l = [] then [] else padTo 224 (l.take 224) :: mcChunks n (l.drop 224)

/-- The microcode store of a cell that holds its whole class image. -/
def mcFull (image : List Byte) : Microcode :=
  let ch := mcChunks 160 image
  let c := dword (crc64 ch.flatten)
  { complete := true, crcFail := false, count := ch.length, chunks := (List.range ch.length).zip ch, badCrc := 0, crc := c, expect := c }

/-- Microcode complete in every cell of a field. In part DESIGN CHOICE, log 43. -/
def State.mcAll (s : State) (f : Nat) : State :=
  let base := (List.range 5).map (fun k => (k, mcFull (lgetD s.helm.fw.microcode k [])))
  let s1 := s.onField f (fun q => { q with mcBase := base })
  { s1 with cells := tmap (fun i (c : Cell) => if fieldOf (i % 576) (i / 576) = f then { c with mc := none } else c) s1.cells }

/-- Router registers of a field as they stood before its sleep, without entries of fields lost since; wheels and lane maps are those of
the active program. In part DEDUCED, log 36. -/
def State.restoreRouters (s : State) (f : Nat) : State :=
  let on := (s.activeIn f).isSome
  (s.field f).savedRouters.foldl (fun s v => s.onRouter (v.1 % 576) (v.1 / 576) (fun _ =>
    { Router.reset with fence := v.2.fence, updown := v.2.updown, mcHold := v.2.mcHold, wheel := if on then v.2.wheel else [], laneMap := if on then v.2.laneMap else [],
                        dtField := v.2.dtField.filter (fun e => ! s.helm.lostFields.contains e.1), dtSite := v.2.dtSite,
                        mcTree := v.2.mcTree })) s

/-- FRS_PART of a field (R170). -/
def State.frsPartOf (s : State) (f : Nat) : Word :=
  match s.partOfField f with
  | some p => word (2 ^ 31 + p)
  | none => 0

/-- The resolution store as the stores of the other fields stand. -/
def State.copyStore (s : State) (f : Nat) : State :=
  let o := s.field 4
  s.onField f (fun q => { q with frsPart := s.frsPartOf f, frsRect := o.frsRect, frsOut := o.frsOut, frsModules := o.frsModules,
                                 frsSync := o.frsSync })

/-- Cells of the active program and sync words as they were saved. -/
def State.restoreCells (s : State) (f : Nat) : State :=
  let q := s.field f
  let s1 := match s.activeIn f with
    | some (p, g) => (((s.loadCells g (some q.savedCells) [f]).loadScopes g [f]).setLocal p g).linkAll g (rectFields (s.part p).rect)
    | none => s
  q.savedSync.foldl (fun s v => if s.bodyOut v.1 v.2.1 then s else
    s.onCell v.1 v.2.1 (fun c => c.setSw v.2.2.1 { c.sw v.2.2.1 with word := v.2.2.2 })) s1

/-- Steps 2 to 8 of a wake. -/
def State.rise (s : State) (f : Nat) : State :=
  let s1 := (s.railsUp f).onField f (fun q => { q with sr := false, oscEn := true, locked := true, lockSince := none })
  let s2 := (((s1.joinRose f).restoreRouters f).copyStore f).fieldReturns f
  let s3 := ((s2.fenceField f).mcAll f).restoreCells f
  (s3.onField f (fun q => { q with power := .underway, idleSince := some s.cycle, waking := none, savedCells := [], savedSync := [],
                                   savedRouters := [] })).fwLog (powerRec f 0)

/-- DOLDRUMS_WAKE_DONE: the field is Underway, or it failed to lock or to take its microcode and its stage is tripped. -/
def execDoldrumsWakeDone (f : Nat) (good : Bool) (s : State) : Res :=
  s.onFld f (fun s =>
    let q := s.field f
    if q.power ≠ .doldrums ∨ q.waking.isNone then s
    else if good then s.rise f else s.powerLost f)

/-! ### Reefing (R332-R334) -/

def State.floorOf (s : State) (f : Nat) : Nat :=
  match s.partOfField f with
  | some p => (s.part p).floor
  | none => 15

/-- Firmware sets a reef level; a level above the floor is recorded (R338). -/
def State.setReef (s : State) (f n : Nat) : State :=
  let s1 := s.onField f (fun q => { q with reefReg := BitVec.ofNat 4 n })
  if s.floorOf f < n then s1.fwLog { recOf 0x43 .firmware with field := f, detail := leBytes 1 (n - s.floorOf f) } else s1

/-- T_J of a field from its sensors' readings (R333). In part DEDUCED, log 46. -/
def State.readTemp (s : State) (f sensor : Nat) (t : Int) : State :=
  s.onField f (fun q => { q with tj := t + (Config.calibration f).val, sensor := sensor })

/-- The highest reading of each field named; the first of equals. -/
def hottest (l : List (Nat × Nat × Int)) (f : Nat) : Option (Nat × Int) :=
  ((l.filter (fun v => v.1 = f)).map (·.2)).foldl (fun a v => match a with
    | some b => if b.2 < v.2 then some v else a
    | none => some v) none

def State.readTemps (s : State) (l : List (Nat × Nat × Int)) : State :=
  ((List.range 144).filter s.svcUp).foldl (fun s f => match hottest l f with
    | some v => s.readTemp f v.1 v.2
    | none => s) s

/-- Underway or Lull. -/
def Field.awake (q : Field) : Bool := q.power = .underway || q.power = .lull

/-- The routers of a field hold no packet and no static flit (R156 step 4). -/
def State.fieldEmpty (s : State) (f : Nat) : Bool :=
  s.routers.all (fun r => fieldOf (r.1 % 576) (r.1 / 576) ≠ f || (r.2.vcEmpty && r.2.staticEmpty))

/-- A field enters Off at the end of a thermal shutdown (R335 steps 4 to 6). -/
def State.goOff (s : State) (f : Nat) : State :=
  let s1 := s.cutRose f
  let s2 := if (s1.field f).rails then s1.darken f .off else s1
  (s2.onField f (fun q => { q with power := .off, sr := true, shutting := false, coolAt := none, entry := none, waking := none,
                                   past := none, savedCells := [], savedSync := [], savedRouters := [] })).onPins (fun p => p.fieldOff true)

/-- The rest of a thermal shutdown: R156 steps 1 to 3, then, once the field's routers are empty or 200 µs have passed, the rails drop.
A field whose rails are down is Off at once (R337). -/
def State.coolOff (s : State) (f : Nat) : State :=
  match (s.field f).coolAt with
  | none =>
    let s1 := s.fieldLeaves f
    if (s1.field f).rails then s1.onField f (fun q => { q with coolAt := some s.cycle }) else s1.goOff f
  | some t => if s.fieldEmpty f || decide (t + 200 * usec ≤ s.cycle) then s.goOff f else s

/-- The field's cells are stopped. -/
def State.stopField (s : State) (f : Nat) : State :=
  { s with cells := tmap (fun i (c : Cell) => if fieldOf (i % 576) (i / 576) = f then c.stop else c) s.cells }

/-- Thermal shutdown is decided: R335 steps 1 and 2. In Doldrums the field is Off at once (R337). -/
def State.beginShutdown (s : State) (f : Nat) (temp : Int) : State :=
  let q := s.field f
  if q.power = .off ∨ q.shutting = true then s
  else
    let s1 := if q.reefReg = 15 then s else s.setReef f 15
    let s2 := ((s1.failField f thermalCritical).stopField f).hwLog
      { recOf 0x35 .logger with flags := 1, code := thermalCritical, field := f, detail := leBytes 2 (twos 16 temp) }
    let s3 := (s2.onField f (fun q => { q with shutting := true, entry := none, waking := none, past := none })).stepLost f
    if q.power = .doldrums then s3.coolOff f else s3

/-- THERMAL_SHUTDOWN: the next part of the shutdown. -/
def execThermalShutdown (f : Nat) (s : State) : Res := s.onFld f (fun s => if (s.field f).shutting then s.coolOff f else s)

/-- Firmware steps reef levels from step 5 onward (R345). -/
def State.reefing (s : State) : Bool := s.helm.fw.running && 5 ≤ s.helm.steps.step

/-- The first of a list for which no other is strictly better. -/
def bestOf (better : Nat → Nat → Bool) : List Nat → Option Nat
  | [] => none
  | f :: t => match bestOf better t with
    | none => some f
    | some g => if better g f then some g else some f

/-- Shutdowns and past-floor marks at the head of a reef step. -/
def State.reefCheck (s : State) : State :=
  (List.range 144).foldl (fun s f =>
    let q := s.field f
    if ! q.awake || q.shutting then s
    else if 420 ≤ q.tj then s.beginShutdown f q.tj
    else if s.floorOf f < q.reefReg.toNat then
      (match q.past with
        | some t => if t + msec ≤ s.cycle then s.beginShutdown f q.tj else s
        | none => s)
    else if q.past.isSome then s.onField f (fun q => { q with past := none })
    else s) s

/-- One level of one field. -/
def State.reefMove (s : State) : State :=
  let live := (List.range 144).filter (fun f => (s.field f).awake && ! (s.field f).shutting && s.svcUp f)
  let hot := live.filter (fun f => decide (360 ≤ (s.field f).tj) && decide ((s.field f).reefReg.toNat < 15))
  match bestOf (fun a b => (s.field b).tj < (s.field a).tj) hot with
  | some f =>
    let n := (s.field f).reefReg.toNat + 1
    let s1 := s.setReef f n
    if s.floorOf f < n ∧ (s.field f).past.isNone then s1.onField f (fun q => { q with past := some s.cycle }) else s1
  | none =>
    let cool := live.filter (fun f => decide ((s.field f).tj ≤ 348) && decide (0 < (s.field f).reefReg.toNat))
    match bestOf (fun a b => (s.field b).reefReg.toNat < (s.field a).reefReg.toNat ||
        ((s.field a).reefReg = (s.field b).reefReg && (s.field a).tj < (s.field b).tj)) cool with
    | some f => s.setReef f ((s.field f).reefReg.toNat - 1)
    | none => s

/-- REEF_STEP: every 100 µs, over the sensors' latest readings in units of 0.25 °C. -/
def execReefStep (temps : List (Nat × Nat × Int)) (s : State) : Res :=
  if s.reefing && decide (s.helm.reefAt + 100 * usec ≤ s.cycle) then
    .next (((s.readTemps temps).reefCheck.reefMove).onHelm (fun h => { h with reefAt := s.cycle }))
  else .next s

/-- REEF_PAST_FLOOR_EXPIRY: 1 ms past the floor. -/
def execReefPastFloorExpiry (f : Nat) (s : State) : Res :=
  s.onFld f (fun s =>
    let q := s.field f
    match q.past with
    | some t => if s.reefing && q.awake && decide (t + msec ≤ s.cycle) && decide (s.floorOf f < q.reefReg.toNat) then s.beginShutdown f q.tj else s
    | none => s)

/-! ### Heat reports (R333, R407) -/

/-- TJ_HOT_REPORT: 105 °C or more. -/
def execTjHotReport (f : Nat) (tj : Int) (s : State) : Res :=
  s.onFld f (fun s => if tj < 420 then s else
    let s1 := s.onField f (fun q => { q with tj := tj })
    if s.reefing then s1.beginShutdown f tj else s1)

/-- DRAM_HOT_REPORT: 95 °C or more in a DRAM die. -/
def execDramHotReport (f : Nat) (td : Int) (s : State) : Res :=
  s.onFld f (fun s => if td < 380 then s else
    let s1 := (s.onField f (fun q => { q with td := td })).onPins (fun p => { p with smbStatus := setBit p.smbStatus 5 true })
    if s.reefing then s1.beginShutdown f td else s1)

/-- HW_THERMAL_TRIP: at 110 °C the base die trips the stage itself. -/
def execHwThermalTrip (f : Nat) (tj : Int) (s : State) : Res :=
  s.onFld f (fun s => if tj < 440 ∨ (s.field f).power = .off then s else
    (s.onField f (fun q => { q with tj := tj })).loseField f thermalCritical
      { recOf 0x35 .logger with detail := leBytes 2 (twos 16 tj) } true)

/-! ### Clocks (R314, R319, R321) -/

/-- A CRYSTAL record: crystal, and 0 failed, 1 good again, 2 failover. -/
def crystalRec (isB : Bool) (what : Nat) : LogRec := { recOf 0x40 .firmware with detail := leBytes 1 (b2n isB) ++ leBytes 1 what }

/-- A crystal's monitor and its loop. -/
def Clocks.setGood (c : Clocks) (isB good lock : Bool) : Clocks :=
  if isB then { c with okB := good, lockB := lock } else { c with okA := good, lockA := lock }

def Clocks.good (c : Clocks) (isB : Bool) : Bool := if isB then c.okB else c.okA

def Clocks.fail (c : Clocks) (isB : Bool) (cycle : Nat) : Clocks :=
  let c1 := c.setGood isB false false
  if isB then { c1 with failB := true, failAtB := some cycle } else { c1 with failA := true, failAtA := some cycle }

/-- A failed crystal counts as good again. -/
def Clocks.goodAgain (c : Clocks) (isB : Bool) : Clocks :=
  let c1 := c.setGood isB true (! c.drSet)
  if isB then { c1 with failAtB := none } else { c1 with failAtA := none }

/-- Write of CLK_STATUS: XTAL_A_FAIL and XTAL_B_FAIL are W1C (R322). -/
def Clocks.clearFail (c : Clocks) (v : Word) : Clocks := { c with failA := c.failA && ! bitB v 0, failB := c.failB && ! bitB v 1 }

/-- CLK_STATUS and CLK_DEAD_RECKONING as they read (R322). -/
def Clocks.status (c : Clocks) : Word :=
  word (b2n c.failA + 2 * b2n c.failB + 4 * b2n c.okA + 8 * b2n c.okB + 16 * b2n c.lockA + 32 * b2n c.lockB + 64 * b2n c.sel +
    128 * b2n c.helmSrc)
def Clocks.deadReckoning (c : Clocks) : Word := word (b2n c.drSet + c.drEntries * 2 ^ 16)

/-- CRYSTAL_FAIL: failover to the other loop when its crystal is good; before READY the loss of both fails the step in progress
(R365). -/
def State.crystalFail (s : State) (isB : Bool) : State :=
  let c := s.helm.clocks
  if ! c.good isB then s
  else
    let s1 := (s.onClocks (fun c => c.fail isB s.cycle)).fwLog (crystalRec isB 0)
    if c.sel ≠ isB then (if ! c.good (! isB) && ! s.helm.service then s1.failStep reasonClock 0 else s1)
    else if c.good (! isB) then (s1.onClocks (fun c => { c with sel := ! isB })).fwLog (crystalRec isB 2)
    else if ! s.helm.service then s1.failStep reasonClock 0
    else s1

def execCrystalFail (isB : Bool) (s : State) : Res := .next (s.crystalFail isB)

/-- CRYSTAL_GOOD_AGAIN: a failed crystal good for 1 s; the selection does not move back. -/
def execCrystalGoodAgain (isB : Bool) (s : State) : Res :=
  let c := s.helm.clocks
  if (if isB then c.failAtB else c.failAtA).any (fun t => t + 1000 * msec ≤ s.cycle) then
    .next ((s.onClocks (fun c => c.goodAgain isB)).fwLog (crystalRec isB 1))
  else .next s

/-- Less than 64 GB/s of payload outside the Doldrums keep-alive: less than 68 GB/s raw (R266). -/
def Bridge.slow (b : Bridge) : Bool := ! b.keepAlive && decide (b.up.length * b.width * b.rate < 544)

/-- The bridge says that its link is degraded (R266). -/
def Bridge.checkRate (b : Bridge) : Bridge := if b.slow then b.event evLinkDegraded else b

/-- A host link outside the keep-alive retrains at the highest rate in force (R319, R321). -/
def Bridge.recap (b : Bridge) (cap : Nat) : Bridge :=
  if b.linkUp && ! b.keepAlive then ({ b with rate := min cap b.fullRate } : Bridge).checkRate else b

/-- DEAD_RECKONING_ENTRY: both crystals have failed in service: runs complete, peer lanes go down, host links run at 16 GT/s at most. -/
def State.enterDead (s : State) : State :=
  let s1 := (s.onClocks (fun c => { c with drSet := true, drEntries := min (c.drEntries + 1) 0xFFFF })).fwLog
    { recOf 0x41 .firmware with detail := [1] }
  let s2 := (List.range 4).foldl (fun s p => (s.stopRun p clockDeadReckoning).dropQueued p (fun _ => true) clockDeadReckoning true) s1
  let s3 := (s2.lanes.map (·.1)).foldl (fun s i => s.laneDown (i / 96) (i % 96)) s2
  { s3 with bridges := tmap (fun _ b => b.recap 16) s3.bridges }

def execDeadReckoningEntry (s : State) : Res :=
  let c := s.helm.clocks
  if s.helm.service && ! c.okA && ! c.okB && ! c.drSet then .next s.enterDead else .next s

/-- The loop of every good crystal is locked to it (R314), and the given one is selected. -/
def Clocks.relock (c : Clocks) (isB : Bool) : Clocks := { c with lockA := c.okA, lockB := c.okB, sel := isB }

/-- DEAD_RECKONING_EXIT: a crystal has been good for 1 s; fields that are not LOCKED after the slew are tripped (R317); host links return
to their full rate. In part DEDUCED, log 46. -/
def execDeadReckoningExit (isB : Bool) (unlocked : List Nat) (s : State) : Res :=
  if unlocked.any (fun f => 144 ≤ f) then .fault .noSuchField
  else if s.helm.clocks.drSet && s.helm.clocks.good isB then
    let s1 := s.onClocks (fun c => c.relock isB)
    let s2 := unlocked.foldl (fun s f => if (s.field f).awake then s.powerLost f else s) s1
    let s3 : State := { s2 with bridges := tmap (fun _ b => b.recap 32) s2.bridges }
    .next ((s3.onClocks (fun c => { c with drSet := false })).fwLog { recOf 0x41 .firmware with detail := [0] })
  else .next s

end Sys2Proof.Machine
end

