-- ==== Sys2Proof/Machine/Pilot.lean ====
section
/-!
DEFINITION. The Pilot: the bound of a run (R251-R254), projection and admission (R255-R257, R266, R276), and the RUN command (R250,
R278, R279, R282).
-/
namespace Sys2Proof.Machine

/-! ### The bound, exactly -/

/-- Parts of a core cycle in which bounds are counted: every term of R254 is a whole number of them. -/
def partsPerCycle : Nat := 10240 * 240240

/-- R_max: the largest retained set of a program in one field (R245). -/
def Program.rMax (g : Program) : Nat :=
  let fs := dedup (g.sites.map (fun v => fieldOf v.x v.y))
  (fs.map (fun f =>
    ((g.buffers.filter (fun b => b.kind = 2 && fieldOf b.cellRange.1 b.cellRange.2.1 = f)).map (·.size)).sum +
      8448 * (g.sites.filter (fun v => fieldOf v.x v.y = f)).length)).foldl max 0

/-- A channel of the partition is in paired service (R18). -/
def State.pairedIn (s : State) (p : Nat) : Bool :=
  (rectFields (s.part p).rect).any (fun f => (List.range 64).any (fun c => s.chanOut f c && ! s.chanOut f (Nat.xor c 1)))

/-- K of T_reef. -/
def reefK (floor : Nat) : Nat := min 10 (15 - floor)

/-- What the cells hold before a run: active program, session of the run before, and for each program the combination its
configuration is patched for. -/
structure Chain where
  slot    : Option Nat
  session : Option Nat
  combs   : Tbl (Option Nat)
deriving DecidableEq, Repr

/-- Input bytes of a run. -/
def Run.inBytes (r : Run) : Nat := ((r.wins.take r.nin).map (·.2)).sum

/-- Management writes of T_patch. -/
def patchWrites (e : Bound) (r : Run) (c : Chain) : Nat :=
  e.maskWrites + (if tgetD c.combs r.progSlot none = some r.comb then 0 else e.bucketWrites) +
    (if c.session = some r.session then 0 else e.sessionWrites)

/-- The bound of R254 in parts of a cycle, for a run that starts at `start`. -/
def State.bound (s : State) (p : Nat) (g : Program) (r : Run) (c : Chain) (start : Nat) : Nat :=
  match g.bounds[r.comb]? with
  | none => 0
  | some e =>
    let floor := (s.part p).floor
    let k := reefK floor
    let cycles :=
      (r.wake - (start - r.admitted)) +
      (if c.slot = some r.progSlot then 0 else 1200 * usec) +
      2 * usec + 4 * patchWrites e r c + 3 * usec + usec +
      lgetD e.cycles floor 0 + (if s.pairedIn p then e.pairExtra else 0) + e.peerXfers * (4 * usec) + 3 * usec + 120 * usec
    let rmax := if c.slot = some r.progSlot then 0 else g.rMax * (19 * 240240)
    let bytes := (r.inBytes + (if g.mode = 2 then 2 else 1) * e.outMax) * (19 * 16 * 240240)
    let reef := 100 * usec * (k * (k + 1) / 2) * (10240 * (240240 / (16 - floor)))
    cycles * partsPerCycle + rmax + bytes + reef

/-- Time units of projections: 10,000 in a part, so that 1.0001 times a bound is whole (R251). -/
def unitsPerCycle : Nat := 10000 * partsPerCycle

/-- The chain after a run. -/
def Chain.after (c : Chain) (r : Run) : Chain :=
  { slot := some r.progSlot, session := some r.session, combs := tset c.combs r.progSlot (some r.comb) }

/-- Combinations of the resident programs; the active one's is that of the cells. -/
def Partition.combs (q : Partition) (slot comb : Option Nat) : Tbl (Option Nat) :=
  let t := q.programs.map (fun e => (e.1, e.2.comb))
  match slot with
  | some k => tset t k comb
  | none => t

/-- The end of a run that starts at `start` (in units). -/
def State.endAfter (s : State) (p : Nat) (r : Run) (c : Chain) (start : Nat) : Nat :=
  match s.program p r.progSlot with
  | some g => start + 10001 * s.bound p g r c (start / unitsPerCycle)
  | none => start

/-- The chain and the time from which queued runs are projected, with the runs that are projected: behind the active run, or behind
the run that has come to the head. -/
def State.chainHead (s : State) (p : Nat) : Chain × Nat × List Run :=
  let q := s.part p
  let before : Chain := { slot := q.activeSlot, session := q.lastSession, combs := q.combs q.activeSlot q.comb }
  match q.active, q.queue, q.headAt with
  | some a, rest, _ => (before.after a.run, s.cycleOf a.run.projEnd * unitsPerCycle, rest)
  | none, r :: rest, some h =>
    let c : Chain := { slot := h.slot, session := h.session, combs := q.combs h.slot h.comb }
    (c.after r, s.endAfter p r c (h.at_ * unitsPerCycle), rest)
  | none, rest, _ => (before, s.cycle * unitsPerCycle, rest)

/-- The wake time of some fields from now: 20 µs from Lull, 200 ms from Doldrums, less what a wake in progress has taken. In part DEDUCED, log 37. -/
def State.wakeTime (s : State) (fs : List Nat) : Nat :=
  (fs.map (fun f =>
    let q := s.field f
    match q.power with
    | .lull => 20 * usec
    | .doldrums => 200 * msec - (match q.waking with
      | some t => s.cycle - t
      | none => 0)
    | _ => 0)).foldl max 0

/-- Projected ends of a list of runs, each in units; none when one would end after its deadline. In part DEDUCED, log 37. -/
def State.project (s : State) (p : Nat) : Chain → Nat → List Run → Option (List Nat)
  | _, _, [] => some []
  | c, t, r :: rest =>
    let w := s.wakeTime (s.runFields p (s.program p r.progSlot))
    let start := max t ((s.cycle + w) * unitsPerCycle)
    let e := s.endAfter p r c start
    if s.cycleOf r.deadline * unitsPerCycle < e then none
    else (s.project p (c.after r) e rest).map (fun l => e :: l)

/-- The Pilot tick of a time in units, rounded up. -/
def State.ticksUp (s : State) (u : Nat) : Nat :=
  (((u : Int) + s.helm.clocks.drift * unitsPerCycle).toNat + 38 * unitsPerCycle - 1) / (38 * unitsPerCycle)

/-- A run takes its place before the first of a larger priority number (R257). -/
def placeRun (r : Run) : List Run → List Run
  | [] => [r]
  | x :: t => if r.priority < x.priority then r :: x :: t else x :: placeRun r t

/-! ### The RUN body (R278) -/

def runWins (b : List Byte) : List (Nat × Nat) :=
  (List.range (byteAt b 24 + byteAt b 25)).map (fun w => (leAt b (32 + 16 * w) 8, leAt b (40 + 16 * w) 4))

def runSizes (b : List Byte) : List Nat := (List.range (byteAt b 3)).map (fun k => leAt b (8 + 4 * k) 4)

/-- Two windows share a byte. -/
def winsMeet (a b : Nat × Nat) : Bool := decide (a.1 < b.1 + b.2) && decide (b.1 < a.1 + a.2)

def anyOverlap : List (Nat × Nat) → Bool
  | [] => false
  | a :: t => t.any (winsMeet a) || anyOverlap t

/-- The size of the input buffer of an index: that of the first copy (R283). -/
def Program.inputBuf (g : Program) (i : Nat) : Option Buffer := g.buffers.find? (fun b => b.kind = 1 && b.index = i)

/-- The checks of R279. In part DEDUCED, log 37. -/
def runCheck (b : Bridge) (g : Program) (body : List Byte) (comb : Option Nat) : Code :=
  let wins := runWins body
  let nin := byteAt body 24
  let out := wins.drop nin
  let total : Nat := (out.map (·.2)).sum
  let outMax : Nat := match comb with
    | some k => ((g.bounds[k]?).map (·.outMax)).getD 0
    | none => 0
  if byteAt body 3 ≠ g.ndim ∨ nin ≠ g.nin ∨ byteAt body 25 ≠ g.nout then loadCount
  else if wins.any (fun w => ! inWindow b w.1 w.2) || anyOverlap out then loadRange
  else if (List.range nin).any (fun i => ((g.inputBuf i).map (·.size)).getD 0 < (lgetD wins i (0, 0)).2) then loadBufferSize
  else if total < outMax ∨ 64 * 2 ^ 20 < total then loadBufferSize
  else codeOk

/-! ### Admission (R256) -/

/-- Commands of site `g` in execution that came before a command of site `h`. -/
def State.earlier (s : State) (h : Nat) (c : MbxCmd) (g : Nat) : List MbxCmd :=
  if g = h then (s.bridge g).executing.takeWhile (fun d => d.tag ≠ c.tag)
  else (s.bridge g).executing.filter (fun d => d.arrival < c.arrival || (d.arrival = c.arrival && decide (g < h)))

/-- A state-changing command that came before a RUN still executes and concerns its session or program slot (R276). -/
def State.concerned (s : State) (h : Nat) (r : MbxCmd) (session slot : Nat) : Bool :=
  s.bridges.any (fun b => (s.earlier h r b.1).any (fun c => match c.opcode with
    | 0x03 => true
    | 0x04 => decide (b.1 = h) && decide (byteAt c.body 12 = slot)
    | 0x05 => decide (b.1 = h) && decide (byteAt c.body 0 = slot)
    | 0x06 => decide (b.1 = h) && decide (leAt c.body 0 2 = session)
    | 0x07 => decide (b.1 = h) && decide (leAt c.body 0 2 = session)
    | 0x12 => decide (b.1 = h)
    | _ => false))

/-- A field is held by a partition reset or a sounding. -/
def State.heldField (s : State) (f : Nat) : Bool :=
  (List.range 4).any (fun p => (s.part p).sounding.contains f || ((s.part p).resetAt.isSome && inRect (s.part p).rect f))

/-- Everything of R256 before the projection. A module whose helm landings are all dead can serve no runs (R26): ADMIT_BUSY (DESIGN CHOICE,
log 56). -/
def State.admitCheck (s : State) (h : Nat) (c : MbxCmd) (v : Session) (g : Option Program) (comb : Option Nat) (fs : List Nat) : Code :=
  let q := s.part h
  let waiting := q.queue.length - (if q.active.isNone ∧ q.headAt.isSome then 1 else 0)
  if s.helm.clocks.drSet || fs.any (fun f => (s.field f).power = .off || (s.field f).shutting) then admitClock
  else if s.concerned h c (leAt c.body 0 2) v.program then admitBusy
  else if g.isNone then loadRange
  else if 256 ≤ waiting || fs.any s.heldField || q.resetAt.isSome || (s.bridge h).slow || ! s.serving || s.helmLandings = [] then admitBusy
  else if comb.isNone then admitNoBucket
  else codeOk

/-- The completion of a refused RUN. -/
def State.refuseRun (s : State) (h : Nat) (c : MbxCmd) (code : Code) : State :=
  s.completeCmd h c code c.refusalBody

/-- The run that a RUN command asks for. -/
def State.runOf (s : State) (h : Nat) (c : MbxCmd) (v : Session) (comb wake : Nat) : Run :=
  let b := c.body
  { id := s.helm.nextRunId + 1, site := h, tag := c.tag, version := c.version, slot := c.slot, noIntr := c.flags % 2 = 1,
    session := leAt b 0 2, progSlot := v.program, priority := if byteAt b 2 = 0xFF then v.priority else byteAt b 2,
    arrival := c.arrival, deadline := c.arrival + 50 * (if leAt b 4 4 = 0 then v.deadline else leAt b 4 4), comb := comb,
    sizes := runSizes b, wins := runWins b, nin := byteAt b 24, projEnd := 0, wake := wake, admitted := s.cycle }

/-- The run is accepted: queued, its fields woken, its session advanced, its completion produced. In part DEDUCED, log 25. -/
def State.acceptRun (s : State) (h : Nat) (c : MbxCmd) (r : Run) (q : List Run) (fs : List Nat) : State :=
  let mine := ((q.find? (fun x => x.id = r.id)).map (·.projEnd)).getD 0
  let s1 := s.onPart h (fun p => { p with queue := (match p.active, p.headAt, p.queue with
    | none, some _, x :: _ => x :: q
    | _, _, _ => q) })
  let s2 := (s1.onPart h (fun p => p.settle s.cycle)).onHelm (fun t => { t with nextRunId := r.id })
  let s3 := s2.onSession r.session (fun v => { v with runs := min (v.runs + 1) (2 ^ 32 - 1), lastRun := r.id })
  (fs.foldl (fun s f => s.wake f) s3).completeCmd h c codeOk
    (leBytes 8 r.id ++ leBytes 8 r.arrival ++ leBytes 8 r.deadline ++ leBytes 8 mine)

/-- The Pilot's decision on a RUN; windows are aligned to 64 B before any other check (R274, R278). -/
def State.decideRun (s : State) (h : Nat) (c : MbxCmd) : State :=
  let v := s.session (leAt c.body 0 2)
  let isOpen := s.sessionState v = 1 && decide (v.part = h)
  let g := if isOpen then s.program h v.program else none
  let comb := match g with
    | some g => combOf g.ladders (runSizes c.body)
    | none => none
  let first := match g with
    | some g => runCheck (s.bridge h) g c.body comb
    | none => codeOk
  if (runWins c.body).any (fun w => w.1 % 64 ≠ 0) then s.refuseRun h c loadAlignment
  else if first ≠ codeOk then s.refuseRun h c first
  else
    let fs := if partExists (s.part h) then s.runFields h g else []
    let code := s.admitCheck h c v g comb fs
    if code ≠ codeOk then s.refuseRun h c code
    else
      let r := s.runOf h c v (comb.getD 0) (s.wakeTime fs)
      let t := s.chainHead h
      let q := placeRun r t.2.2
      match s.project h t.1 t.2.1 q with
      | none => s.refuseRun h c admitDeadline
      | some ends => s.acceptRun h c r ((q.zip ends).map (fun e => { e.1 with projEnd := s.ticksUp e.2 })) fs

end Sys2Proof.Machine
end

