-- ==== Sys2Proof/Machine/Runs.lean ====
section
/-!
DEFINITION. Runs from the head of the queue to their end (R226, R227, R245, R246, R258, R259), the end of a partition reset (R154) and
sounding (R235-R237).
-/
namespace Sys2Proof.Machine

/-- A command on a partition. -/
def State.onPartition (s : State) (p : Nat) (f : State → State) : Res := s.onSite p f

/-! ### The run at the head (R245, R258) -/

/-- The run at the head of a partition's queue, with no run active, and its program. -/
def State.headRun (s : State) (p : Nat) : Option (Head × Run × Program) :=
  let q := s.part p
  match q.active, q.headAt, q.queue with
  | none, some h, r :: _ => (s.program p r.progSlot).map (fun g => (h, r, g))
  | _, _, _ => none

/-- Every field that a run uses is Underway. -/
def State.allUp (s : State) (p : Nat) (g : Program) : Bool :=
  (s.runFields p (some g)).all (fun f => (s.field f).power = .underway)

/-- PROGRAM_SWITCH: the run at the head is of a program that is not active. LOCAL of its tree is written while no packet is in flight there
(R151). -/
def State.trySwitch (s : State) (p : Nat) : State :=
  match s.headRun p with
  | none => s
  | some (_, r, g) =>
    if (s.part p).activeSlot = some r.progSlot ∨ s.allUp p g = false ∨ (s.part p).resetAt.isSome ∨ s.helm.fw.running = false ∨
        s.treeFree (8 + p) = false ∨ s.helmLandings = [] then s
    else s.switchTo p r.progSlot

def execProgramSwitch (p : Nat) (s : State) : Res := s.onPartition p (fun s => s.trySwitch p)

/-- DRAIN_FAIL: a cell of the outgoing program cannot be reached; its site is lost and runs that need the switch complete (R246). In part DEDUCED, log 38. -/
def State.drainFail (s : State) (p x y : Nat) : State :=
  let q := s.part p
  match s.headRun p, q.activeSlot with
  | some (_, r, _), some j =>
    if j = r.progSlot then s
    else match s.program p j with
      | none => s
      | some g =>
        if ! g.sites.any (fun v => v.x = x && v.y = y) then s
        else
          let s1 := (s.fence (x, y, true)).fwLog { recOf 0x45 .firmware with site := siteWord x y 0 }
          s1.dropQueued p (fun r => some r.progSlot ≠ q.activeSlot) codeTransferTimeout s1.helm.clocks.drSet
  | _, _ => s

def execDrainFail (p x y : Nat) (s : State) : Res :=
  if ! siteOk x y then .fault .noSuchSite else s.onPartition p (fun s => s.drainFail p x y)

/-- INGRESS, EGRESS and DIGEST are on before a run starts (R289), and the stores of its output are empty. -/
def Bridge.open_ (b : Bridge) : Bridge :=
  { b with clkEn := setBit (setBit (setBit b.clkEn 4 true) 5 true) 6 true, outWritten := [], outStore := [], lineStoreA := [],
           lineStoreB := [] }

/-- START to every cell of the program, on the run-control tree (R258). -/
def State.sendStart (s : State) (p : Nat) : State := s.sendTree (8 + p) (ctrlPkt s.myMod 1)

/-- R258 step 3 for the run at the head, once, with the gates of R289. -/
def State.patchHead (s : State) (p : Nat) (g : Program) (r : Run) : State :=
  let q := s.part p
  if q.patched = some r.id then s
  else
    let s1 := if q.lastSession = some r.session then s else s.rehome p (s.session r.session).chunk
    ((s1.patchRun p g r).onBridge p Bridge.open_).onPart p (fun q => { q with patched := some r.id })

/-- The cycle in which a run's guard expires: start + B - T_end (R259). -/
def guardOf (start bound : Nat) : Nat := start + (bound + partsPerCycle - 1) / partsPerCycle - 120 * usec

/-- The chain that stood before the run at the head. -/
def Partition.headChain (q : Partition) (h : Head) : Chain := { slot := h.slot, session := h.session, combs := q.combs h.slot h.comb }

/-- The run at the head becomes active: patches where INPUT_READ has not made them, START, guard. A peer lane that is down when the run
starts is a degraded condition in force (R259, R260). -/
def State.begin_ (s : State) (p : Nat) (h : Head) (r : Run) (g : Program) : State :=
  let q := s.part p
  let b := s.bound p g r (q.headChain h) h.at_
  let r1 := { r with projEnd := s.ticksUp (h.at_ * unitsPerCycle + 10001 * b) }
  let sums := s.sightSums (some g)
  let s2 := (s.patchHead p g r).sendStart p
  let a : Active :=
    { run := r1, startedAt := h.at_, guardAt := guardOf h.at_ b, stopAt := none, stopCode := none,
      startedCells := g.sites.map (fun v => (v.x, v.y)), retired := [], lastRetired := s.cycle, faultCode := 0,
      degraded := if (s.runLanes g).any (fun v => (s.lane v.1 v.2).state ≠ .up) then codeLinkDown else 0, discard := false,
      aflags := 0, bytes := 0, outDigest := none,
      inDigest := (match q.inputs with
        | some i => if i.runId = r.id then i.digest else noDigest
        | none => noDigest),
      sightBase := sums.1, skipBase := sums.2, pairA := 0, pairB := 0, deadReck := s.helm.clocks.drSet }
  s2.onPart p (fun q => { q with active := some a, queue := q.queue.drop 1, headAt := none })

/-- The run at the head can go on to its inputs and its start: program in, fields awake, a helm landing alive (R26), the 100 µs since the
last epoch advance past. -/
def State.headReady (s : State) (p : Nat) (r : Run) (g : Program) : Bool :=
  let q := s.part p
  s.helm.fw.running && s.allUp p g && decide (q.activeSlot = some r.progSlot) && decide (q.nextStart ≤ s.cycle) && q.resetAt.isNone &&
    decide (s.helmLandings ≠ [])

/-- RUN_START. -/
def State.startRun (s : State) (p : Nat) : State :=
  match s.headRun p with
  | none => s
  | some (h, r, g) =>
    if s.headReady p r g && (decide (r.nin = 0) || (s.part p).inputs.any (fun i => i.runId = r.id)) then s.begin_ p h r g else s

def execRunStart (p : Nat) (s : State) : Res := s.onPartition p (fun s => s.startRun p)

/-! ### Reports (R226, R227, R416) -/

/-- A report as the helm reads it. -/
structure Report where
  kind   : Nat
  code   : Code
  x      : Nat
  y      : Nat
  index  : Nat
  aflags : Nat
  modul  : Nat
  detail : Nat
  addr   : Dword
deriving DecidableEq, Repr

def reportOf (it : Item) : Report :=
  { kind := itemLe it 0 1, code := BitVec.ofNat 16 (itemLe it 2 2), x := itemLe it 4 2 % 1024, y := itemLe it 6 2 % 1024,
    index := itemLe it 8 1, aflags := itemLe it 9 1, modul := itemLe it 10 1 % 4, detail := itemLe it 12 4,
    addr := dword (itemLe it 16 8) }

/-- A KIND 1 report of a posted-write drop: the word's tower address and no slot (R173). -/
def Report.drop (r : Report) : Bool := r.kind = 1 && r.code = memUncorrectable && r.index = 0xFF && fld r.addr 61 58 = 1

/-- The Logbook record of a report. -/
def State.logReport (s : State) (r : Report) (port : Nat) : State :=
  if r.kind = 3 then s.fwLog { recOf 0x21 .firmware with code := r.code, site := siteWord r.x r.y port, index := r.index }
  else if r.drop then s.fwLog { recOf 0x23 .firmware with code := r.code, site := siteWord r.x r.y port, addr := r.addr }
  else s.fwLog { recOf 0x20 .firmware with
    code := r.code, site := siteWord r.x r.y port, index := r.index, addr := r.addr,
    detail := leBytes 4 r.detail ++ leBytes 1 r.aflags }

/-- Counters of a report (R238). In part DEDUCED, log 37. -/
def State.countReport (s : State) (r : Report) : State :=
  if r.kind = 2 then (if r.detail = 0 then s else s.countAt r.x r.y 1 r.detail)
  else if r.code = memUncorrectable then s.countAt r.x r.y 3 1
  else if r.code = sightMismatch then s.countAt r.x r.y 9 1
  else if r.code = functionMismatch then s.countAt r.x r.y 0xA 1
  else if r.code = reduceMismatch then s.countAt r.x r.y 0xB 1
  else s

/-- The active run of a partition changes. -/
def State.onActive (s : State) (p : Nat) (f : Active → Active) : State :=
  s.onPart p (fun q => { q with active := q.active.map f })

/-- The site belongs to the partition's active run: a cell in its rectangle, or a router of a field that the run uses. -/
def State.usedBy (s : State) (p : Nat) (r : Report) : Bool :=
  match (s.part p).active with
  | none => false
  | some a =>
    if r.kind = 3 then s.runUses p (s.program p a.run.progSlot) (fieldOf r.x r.y)
    else inRect (s.part p).rect (fieldOf r.x r.y) && (r.kind ≠ 4 || r.modul = s.myMod)

/-- The report stops the active run of a partition (R227). -/
def State.stops (s : State) (p : Nat) (r : Report) : Bool :=
  s.usedBy p r && (r.kind = 1 || r.kind = 4 || (r.kind = 3 && r.code ≠ 0))

/-- The lowest code among a report and those of the same helm cycle that stop the run too (R227). In part DEDUCED, log 35. -/
def State.lowestCode (s : State) (p : Nat) (r : Report) (same : List Report) : Code :=
  (same.filter (s.stops p)).foldl (fun c o => if o.code.toNat < c.toNat then o.code else c) r.code

/-- What a report does to the active run of a partition; `same` are the reports that arrived in the same cycle. -/
def State.reportTo (s : State) (r : Report) (same : List Report) (p : Nat) : State :=
  if ! s.usedBy p r then s
  else if r.kind = 3 ∧ r.code = 0 then s.onActive p (fun a => { a with discard := true })
  else if s.stops p r then s.stopRun p (s.lowestCode p r same)
  else if r.kind = 2 then s.onActive p (fun a =>
    if a.startedCells.contains (r.x, r.y) then { a with aflags := a.aflags ||| BitVec.ofNat 5 r.aflags } else a)
  else if r.kind = 5 then s.onActive p (fun a =>
    if a.startedCells.contains (r.x, r.y) ∧ ¬ a.retired.contains (r.x, r.y) then
      { a with retired := (r.x, r.y) :: a.retired, lastRetired := s.cycle } else a)
  else s

/-- HELM_REPORT: the oldest report is recorded, counted, and turned into its completion. -/
def execHelmReport (s : State) : Res :=
  match s.helm.reports with
  | [] => .next s
  | (t, p) :: rest =>
    if ! s.helm.fw.running then .next s
    else
      let r := reportOf (lgetD p.payload 0 0)
      let same := (rest.filter (fun v => v.1 = t)).map (fun v => reportOf (lgetD v.2.payload 0 0))
      let s1 := ((s.onHelm (fun h => { h with reports := rest })).logReport r p.srcPort).countReport r
      .next ((List.range 4).foldl (fun s p => s.reportTo r same p) s1)

/-! ### The end of a run (R258) -/

/-- A report on its way to the helm. -/
def reportOnWay (p : Packet) : Bool := p.op = 0x10 && fld p.dest 61 58 = 4 && fld p.dest 37 36 = 3

def State.reportsOnWay (s : State) : Bool :=
  s.helm.reports ≠ [] || s.routers.any (fun r => r.2.inject.any reportOnWay || r.2.bufs.any (fun f => reportOnWay f.pkt) ||
    r.2.arrived.any (fun v => reportOnWay v.2))

/-- Every cell of a run has left ACTIVE and no report is on its way, or 20 µs have passed since STOP (R254 T_end). -/
def State.settled (s : State) (a : Active) (stop : Nat) : Bool :=
  (a.startedCells.all (fun v => (s.cell v.1 v.2).state ≠ .active) && ! s.reportsOnWay) || decide (stop + 20 * usec ≤ s.cycle)

/-- The four conditions of R258. -/
def State.runOver (s : State) (p : Nat) (a : Active) : Bool :=
  a.startedCells.all a.retired.contains && decide (a.lastRetired + 1024 ≤ s.cycle) && a.outDigest.isSome && (s.bridge p).egress = []

/-- The code of a run that has ended: the pair digests of a paired run are compared (R224). -/
def pairCode (g : Program) (a : Active) : Code := if g.mode = 2 ∧ a.pairA ≠ a.pairB then pairMismatch else codeOk

/-- The completion of an ended run; no START in the partition for 100 µs. -/
def State.closeRun (s : State) (p : Nat) (a : Active) (g : Program) : State :=
  let code := pairCode g a
  let s1 := if g.mode = 2 then s.countPart p 0xC 1 else s
  let s2 := if code = pairMismatch then s1.countPart p 0xD 1 else s1
  (s2.retireRun p a code).onPart p (fun q => { q with nextStart := max q.nextStart (s.cycle + 100 * usec) })

/-- A run whose STOP has been sent completes, with the code it was stopped with if it was (R258, R259). -/
def State.finishRun (s : State) (p : Nat) (a : Active) (g : Option Program) : State :=
  match a.stopCode, g with
  | some code, _ => s.retireRun p a code
  | none, some g => s.closeRun p a g
  | none, none => s

/-- RUN_END: STOP when the conditions hold; the completion once the cells are idle, or 20 µs after STOP. In part DEDUCED, log 37. -/
def State.endRun (s : State) (p : Nat) : State :=
  match (s.part p).active with
  | none => s
  | some a =>
    match a.stopAt with
    | some t => if s.settled a t then s.finishRun p a (s.program p a.run.progSlot) else s
    | none =>
      if ! s.helm.fw.running || ! s.runOver p a then s
      else
        let a1 := { a with stopAt := some s.cycle }
        (s.sendStop p).onPart p (fun q => { q with active := some a1 })

/-- 20 µs after STOP the run completes, whatever its cells do (R254). -/
def State.endOverdue (s : State) (p : Nat) : State :=
  if (s.part p).active.any (fun a => a.stopAt.any (fun t => t + 20 * usec ≤ s.cycle)) then s.endRun p else s

def execRunEnd (p : Nat) (s : State) : Res := s.onPartition p (fun s => s.endRun p)

/-! ### The guard (R259) -/

def guardRec (p id : Nat) : LogRec := { recOf 0x44 .firmware with index := p, detail := leBytes 8 id }

/-- The code of a run whose guard expires. -/
def Active.guardCode (a : Active) : Code :=
  if a.faultCode ≠ 0 then a.faultCode else if a.degraded ≠ 0 then a.degraded else if a.discard then codeTransferTimeout
  else runCancelled

/-- GUARD_EXPIRY: the active run, or the run at the head when its start has not come. In part DEDUCED, log 37. -/
def State.guardRun (s : State) (p : Nat) : State :=
  match (s.part p).active with
  | some a =>
    if s.cycle < a.guardAt ∨ a.stopAt.isSome = true then s
    else
      let code := a.guardCode
      (if code = runCancelled then s.fwLog (guardRec p a.run.id) else s).stopRun p code
  | none =>
    match s.headRun p with
    | none => s
    | some (h, r, g) =>
      if s.cycle < guardOf h.at_ (s.bound p g r ((s.part p).headChain h) h.at_) then s
      else (s.fwLog (guardRec p r.id)).dropQueued p (fun x => x.id = r.id) runCancelled s.helm.clocks.drSet

def execGuardExpiry (p : Nat) (s : State) : Res := s.onPartition p (fun s => s.guardRun p)

/-! ### Partition reset (R154, R263) -/

/-- A cell of a partition under reset: stopped, its queue contents discarded, its PC_SCOPE entries invalid (R154, R179). -/
def Cell.resetStop (c : Cell) : Cell :=
  { c.stop with queues := tmap (fun _ (q : Queue) => { q with hw := [], ring := [] }) c.queues, ops := [], pc := { c.stop.pc with scope := [] } }

/-- A router of a partition under reset: static flits, lane-map entries, lane faults and wheels. -/
def Router.resetStatic (r : Router) : Router :=
  { r.flushStatic with laneMap := [], laneFault := 0, wheel := [], joins := [] }

/-- R154 steps 1 to 3, with the sync words of the partition's sessions cleared. -/
def State.resetPartition (s : State) (p : Nat) : State :=
  let fs := rectFields (s.part p).rect
  let here := fun (i : Nat) => fs.contains (fieldOf (i % 576) (i / 576))
  let s1 := fs.foldl (fun s f => s.setPreset f true) s
  let s2 := { s1 with cells := tmap (fun i (c : Cell) => if here i then c.resetStop else c) s1.cells,
                      routers := tmap (fun i (r : Router) => if here i then r.resetStatic else r) s1.routers }
  ((s2.openIn p).foldl (fun s v => s.clearChunk v.2.chunk) s2).onPart p (fun q =>
    { q with activeSlot := none, comb := none, lastSession := none, resetAt := some s.cycle })

/-- The command of a host site in execution with an opcode and a tag. -/
def State.cmdOf (s : State) (h op : Nat) (tag : Word) : Option MbxCmd :=
  (s.bridge h).executing.find? (fun c => c.opcode = op && c.tag = tag)

/-- PARTITION_RESET_FINISH: at least 100 µs after PRESET, and after the last advance of the epoch; no run starts for 100 µs, so that its
stop advances the epoch no sooner (R155). -/
def State.finishReset (s : State) (p : Nat) : State :=
  let q := s.part p
  match q.resetAt with
  | none => s
  | some t =>
    if s.cycle < t + 100 * usec ∨ (match q.epochAt with
      | some e => decide (s.cycle < e + 100 * usec)
      | none => false) = true then s
    else
      let s1 := (s.advanceEpoch p).onPart p (fun q =>
        { q with resetAt := none, resetTag := none, epochAt := some s.cycle, nextStart := max q.nextStart (s.cycle + 100 * usec) })
      let s2 := (rectFields q.rect).foldl (fun s f => s.setPreset f false) s1
      match q.resetTag with
      | none => s2
      | some tag => match s2.cmdOf p 0x12 tag with
        | some c => s2.completeCmd p c codeOk []
        | none => s2

def execPartitionResetFinish (p : Nat) (s : State) : Res := s.onPartition p (fun s => s.finishReset p)

/-! ### Sounding (R235-R237) -/

/-- A program places a cell on a fenced site or routes a static stream through it (R237). -/
def Program.names (g : Program) (d : Defect) : Bool :=
  g.sites.any (fun v => v.x = d.1 && v.y = d.2.1) ||
    g.routing.any (fun v => v.x = d.1 && v.y = d.2.1 && v.lanes.any (fun e => lmValid e.2))

/-- A resident program leaves its slot; its queued runs complete with RUN_CANCELLED (R237, R244). -/
def State.dropProgram (s : State) (p k : Nat) : State :=
  let s1 := s.dropQueued p (fun r => r.progSlot = k) runCancelled s.helm.clocks.drSet
  let active := (s1.part p).activeSlot = some k
  let s2 := s1.onPart p (fun q => { q with programs := tdel q.programs k,
                                           activeSlot := if active then none else q.activeSlot,
                                           comb := if active then none else q.comb,
                                           lastSession := if active then none else q.lastSession })
  if active then s2.unloadFields (rectFields (s2.part p).rect) else s2

/-- An entry that SOUND writes for a new fence. -/
def soundEntry (d : Defect) : List Byte := leBytes 4 (d.1 + d.2.1 * 2 ^ 16 + b2n d.2.2 * 2 ^ 31)

/-- The fields of a sounding are drained and written back as at a program switch. -/
def State.drainBack (s : State) (p : Nat) (fs : List Nat) : State :=
  match (s.part p).activeSlot with
  | none => s.unloadFields fs
  | some k => match s.program p k with
    | none => s.unloadFields fs
    | some g =>
      let saved := s.drain g fs
      (((s.unloadFields fs).loadCells g (some saved) fs).loadScopes g fs).linkAll g (rectFields (s.part p).rect)

/-- SOUNDING: the whole sequence, once no accepted run uses the named fields and every one is Underway. -/
def State.sounded (s : State) (p : Nat) (failing : List Defect) : State :=
  let q := s.part p
  match (s.bridge p).executing.find? (fun c => c.opcode = 0x0A && c.accepted) with
  | none => s
  | some c =>
    if q.sounding = [] || q.sounding.any (fun f => s.fieldInUse f || (s.field f).power ≠ .underway) then s
    else
      let bad := failing.filter (fun d => q.sounding.contains (fieldOf d.1 d.2.1))
      let fresh := bad.filter (fun d => ! s.helm.defects.any (fun e => e.1 = d.1 && e.2.1 = d.2.1 && (e.2.2 || ! d.2.2)))
      let s1 := fresh.foldl (fun s d => s.fence d) (s.drainBack p q.sounding)
      let gone := (s1.part p).programs.filter (fun e => fresh.any (fun d => e.2.prog.names d))
      let s2 := gone.foldl (fun s e => s.dropProgram p e.1) s1
      let s3 := (s2.countPart p 0xE q.sounding.length).onPart p (fun q => { q with sounding := [] })
      let data := fresh.flatMap soundEntry
      let code := bufCheck (s3.bridge p) (leAt c.body 24 8) (leAt c.body 32 4) data.length
      if code = codeOk then
        (s3.onBridge p (fun b => if data = [] then b else b.post (leAt c.body 24 8) data)).completeCmd p c codeOk (leBytes 4 data.length)
      else s3.completeCmd p c code []

def execSounding (p : Nat) (failing : List (Nat × Nat × Bool)) (s : State) : Res :=
  if failing.any (fun d => ! siteOk d.1 d.2.1) then .fault .noSuchSite else s.onPartition p (fun s => s.sounded p failing)

end Sys2Proof.Machine
end

