-- ==== Sys2Proof/Machine/HostData.lean ====
section
/-!
DEFINITION. The host's data: CXL.mem accesses (R174, R181, R183, R269, R288), host reads of cells (R155), run inputs and outputs
(R224, R232, R283-R286), patrol scrub and refresh (R184, R185).
-/
namespace Sys2Proof.Machine

/-! ### Towers at the host visibility point (R174, R183) -/

/-- The P-cell that serves the channel of a tower offset. -/
def State.serverOf (s : State) (f o : Nat) : Nat × Nat := s.server f (chanOff o).1

/-- A posted-write entry holds a granule among the bytes [o, o + n) of a tower; writes from a bridge wait for it. -/
def State.postedIn (s : State) (f o n : Nat) : Bool :=
  s.cells.any (fun c => decide (fieldOf (c.1 % 576) (c.1 / 576) = f) && c.2.pc.pwb.any (fun e =>
    decide (o < towerOff e.chan (64 * e.granule) + 64) && decide (towerOff e.chan (64 * e.granule) < o + n)))

/-- Words that the channel controllers of a tower have read for a merge: corrected ones, uncorrectable ones (R178). -/
def State.countWords (s : State) (f k : Nat) (ws : List Nat) : State :=
  ws.foldl (fun s w => s.onCell (s.serverOf f (8 * w)).1 (s.serverOf f (8 * w)).2 (fun c => c.pcCount k 1)) s

/-- Acknowledgements at the host visibility point for the writes that carry these bytes (R174, R178). -/
def State.hostAcks (s : State) (f : Nat) (l : List Host.Cell) : State :=
  (writeRuns l).foldl (fun s r => s.onCell (s.serverOf f (64 * r.1)).1 (s.serverOf f (64 * r.1)).2 (fun c => c.pcCount 5 1)) s

/-- Bytes that a bridge writes into a tower, granule by granule: a granule whose write covers an uncorrectable word in part is
refused and recorded; the other writes are acknowledged at the host visibility point. In part DEDUCED, log 39. -/
def State.bridgeWrite (s : State) (f : Nat) (l : List Host.Cell) : State :=
  let t := (s.field f).tower
  let of_ := fun (g : Nat) => l.filter (fun p => p.1 / 64 = g)
  let bad := (granules (l.map (·.1))).filterMap (fun g => partialBad t (of_ g))
  let keep := l.filter (fun p => (partialBad t (of_ (p.1 / 64))).isNone)
  let s1 := (s.onField f (fun q => { q with tower := q.tower.write keep })).hostAcks f keep
  bad.foldl (fun s w => s.memUe (towerAddr s.myMod f (8 * w))) ((s1.countWords f 6 (t.weakPartial keep)).countWords f 7 bad)

/-! ### CXL.mem -/

/-- Fields on a bridge's path to a field, the field included. -/
def State.cxlPath (s : State) (h f : Nat) : List Nat :=
  f :: (List.range 144).filter (fun a => a ≠ f && (dedup ((s.liveLandings h).map (fun d => fieldOf d.1 d.2))).any (crosses a f))

/-- The access arrives: it wakes what lies on its way and restarts the idle time; the line's tower and offset once everything is
awake. -/
def State.cxlArrive (s : State) (h f : Nat) : State :=
  (s.cxlPath h f).foldl (fun s g => s.wake g) (s.onField f (fun q => { q with cxlLast := some s.cycle }))

def State.cxlAwake (s : State) (h f : Nat) : Bool := (s.cxlPath h f).all (fun g => (s.field g).power ≠ .doldrums)

/-- MEM_UE at a bridge: the HDM offset of the first line since the bit was clear (R271, R288). -/
def Bridge.memUe (b : Bridge) (line : Nat) : Bridge :=
  (if bitB b.evtStatus evMemUe then b else { b with evtAddr := dword line }).event evMemUe

/-- A line that cannot be delivered: 0xFF bytes, the event, and a record. -/
def State.cxlBad (s : State) (h line f o : Nat) : State :=
  (s.onBridge h (fun b => { b.memUe line with lastRead := copies 64 0xFF })).memUe (towerAddr s.myMod f o)

/-- A line read at the host visibility point. -/
def State.cxlServe (s : State) (h line f o : Nat) : State :=
  let t := (s.field f).tower
  let addrs := span o 64
  let v := s.serverOf f o
  let n := (t.weakOf addrs).length
  let bad := (wordsOf addrs).filter (fun w => t.bad.contains w)
  let s1 := (if n = 0 then s else s.onCell v.1 v.2 (fun c => c.pcCount 6 n)).onField f (fun q => { q with tower := q.tower.heal addrs })
  match bad with
  | w :: _ => (s1.onCell v.1 v.2 (fun c => c.pcCount 7 bad.length)).cxlBad h line f (8 * w)
  | [] => s1.onBridge h (fun b => { b with lastRead := t.read o 64 })

/-- CXL_MEM_READ: one 64-byte line of the HDM range. In part DESIGN CHOICE, log 10. -/
def execCxlMemRead (s hdm : Nat) (st : State) : Res :=
  st.onSite s (fun st =>
    let line := hdm / 64 * 64
    if ! (st.bridge s).hdmCommitted then st
    else match st.hdmTower s line with
      | none => st
      | some (f, o) =>
        let s1 := st.cxlArrive s f
        if (s1.field f).power = .off then s1.cxlBad s line f o
        else if s1.cxlAwake s f && towerUp (s1.field f) then s1.cxlServe s line f o
        else s1)

/-- CXL_MEM_WRITE: the enabled bytes of one line, once no posted-write entry holds its granule. -/
def execCxlMemWrite (s hdm : Nat) (data : List Byte) (enables : BitVec 64) (st : State) : Res :=
  st.onSite s (fun st =>
    let line := hdm / 64 * 64
    if ! (st.bridge s).hdmCommitted then st
    else match st.hdmTower s line with
      | none => st
      | some (f, o) =>
        let s1 := st.cxlArrive s f
        if s1.cxlAwake s f && towerUp (s1.field f) && ! s1.postedIn f o 64 then
          s1.bridgeWrite f (cellsUnder o (fun k => enables.getLsbD k) (padTo 64 data))
        else s1)

/-! ### Host reads of cells (R155) -/

/-- HOST_READ_COMPLETION: returned as RDATA, or discarded when its record has been dropped. -/
def execHostReadCompletion (s hostTag : Nat) (data : List Byte) (st : State) : Res :=
  st.onSite s (fun st =>
    match takeFirst (fun (r : HostRead) => r.hostTag = hostTag) (st.bridge s).hostReads with
    | none => st
    | some (r, rest) =>
      let p := r.pkt
      (st.onBridge s (fun b => { b with hostReads := rest })).inject p.dstX p.dstY
        [p.answer st.myMod p.dstX p.dstY p.dstPort opRdata (bytesFlits (p.bytes / 32) (padTo p.bytes data))])

/-! ### Inputs (R283) -/

/-- Tower places of an input index: its buffer, and in a paired program the other copy's. -/
def Program.inputPlaces (g : Program) (i : Nat) : List (Nat × Nat) :=
  match g.inputBuf i with
  | none => []
  | some b =>
    let f := fld b.addr 47 40
    let o := fld b.addr 32 0
    if g.mode = 2 then [(f, o), (((f : Int) + g.dfx + 12 * g.dfy).toNat, o)] else [(f, o)]

/-- Each input window with its host bytes. -/
def Run.inputs (r : Run) (data : List (List Byte)) : List (Nat × Nat × List Byte) :=
  (List.range r.nin).map (fun i => let w := lgetD r.wins i (0, 0); (i, w.1, padTo w.2 (lgetD data i [])))

/-- INPUT_READ: the run at the head, its program in the cells and its fields Underway; its patches are written first, with INGRESS, EGRESS
and DIGEST enabled (R258, R289). A gate that the host has cleared since holds the inputs back. -/
def State.readInputs (s : State) (p : Nat) (data : List (List Byte)) : State :=
  match s.headRun p with
  | none => s
  | some (_, r, g) =>
    if ! s.headReady p r g || (s.part p).inputs.any (fun i => i.runId = r.id) then s
    else
      let t := s.patchHead p g r
      let wins := r.inputs data
      let places := wins.flatMap (fun w => (g.inputPlaces w.1).map (fun v => (v.1, v.2, w.2.2)))
      let ready := (t.bridge p).clocked 4 && (t.bridge p).clocked 6 && wins.all (fun w => inWindow (t.bridge p) w.2.1 w.2.2.length) &&
        places.all (fun v => towerUp (t.field v.1) && ! t.postedIn v.1 v.2.1 v.2.2.length)
      if ! ready then t
      else
        let digest := (sha512 (wins.flatMap (fun w => w.2.2))).take 48
        (places.foldl (fun s v => s.bridgeWrite v.1 (cellsAt v.2.1 v.2.2)) t).onPart p (fun q =>
          { q with inputs := some { runId := r.id, digest := digest } })

/-- In part DESIGN CHOICE, log 49. -/
def execInputRead (s : Nat) (windows : List (List Byte)) (st : State) : Res := st.onSite s (fun st => st.readInputs s windows)

/-! ### The egress coalescer (R285) -/

/-- Contiguous runs of bytes in ascending address. -/
def byteRuns : List Host.Cell → List (Nat × List Byte)
  | [] => []
  | (a, b) :: t =>
    match byteRuns t with
    | (c, l) :: r => if c = a + 1 then (a, b :: l) :: r else (a, [b]) :: (c, l) :: r
    | [] => [(a, [b])]

/-- SLACK in core cycles: units of 100 ns, at most 20. -/
def slackOf (b : Bridge) : Nat := 190 * min 20 (fld b.egressCfg 4 0)

/-- A line all of whose 256 bytes are written. -/
def Egress.isFull (e : Egress) : Bool := decide (256 ≤ e.bytes.length)

/-- The oldest entry is pushed: its posted writes, and the acknowledgement of every write merged into it. -/
def State.pushEgress (s : State) (h : Nat) : State :=
  match (s.bridge h).egress with
  | [] => s
  | e :: rest =>
    let s1 := s.onBridge h (fun b => (byteRuns e.bytes).foldl (fun b r => b.post r.1 r.2) { b with egress := rest })
    e.acks.foldl (fun s p => s.inject p.dstX p.dstY [p.answer s.myMod p.dstX p.dstY p.dstPort opWrack []]) s1

/-- Entries are pushed while the oldest has a younger one behind it, is full, or SLACK is 0. -/
def State.pushReady (s : State) (h : Nat) : Nat → State
  | 0 => s
  | n + 1 =>
    let b := s.bridge h
    match b.egress with
    | [] => s
    | e :: rest => if rest ≠ [] ∨ e.isFull ∨ slackOf b = 0 then (s.pushEgress h).pushReady h n else s

/-- Bytes merge into the youngest entry when they fall in its line, else they open one. -/
def mergeEgress (l : List Egress) (line cycle : Nat) (bytes : List Host.Cell) (acks : List Packet) : List Egress :=
  let fresh : Egress := { line := line, bytes := bytes, opened := cycle, acks := acks }
  match l.reverse with
  | [] => [fresh]
  | e :: rest =>
    if e.line = line then
      (({ e with bytes := bytes.foldl (fun t p => tset t p.1 p.2) e.bytes, acks := e.acks ++ acks } : Egress) :: rest).reverse
    else l ++ [fresh]

/-- Lines of a write, in ascending address; its acknowledgement hangs on the last one. -/
def linesOf (a n : Nat) : List Nat := (List.range ((a + n - 1) / 256 + 1 - a / 256)).map (fun k => a / 256 + k)

/-- A write of listed bytes of [a, a + n) enters the queue. In part DEDUCED, log 41. -/
def Bridge.enterEgress (b : Bridge) (cycle a n : Nat) (l : List Host.Cell) (p : Packet) : Bridge :=
  let ls := linesOf a n
  { b with egress := ls.foldl (fun q k =>
      mergeEgress q k cycle (l.filter (fun c => c.1 / 256 = k)) (if k = (a + n - 1) / 256 then [p] else [])) b.egress }

/-! ### Output of a run (R224, R232, R284, R286) -/

/-- The program places a cell or a router entry at a site. -/
def Program.places (g : Program) (x y : Int) : Bool :=
  g.sites.any (fun e => (e.x : Int) = x && (e.y : Int) = y) || g.routing.any (fun e => (e.x : Int) = x && (e.y : Int) = y)

/-- The site belongs to copy B of a paired program: along the translation the copies alternate, copy A first (R222). -/
def Program.copyB (g : Program) : Nat → Int → Int → Bool
  | 0, _, _ => false
  | n + 1, x, y =>
    let u := x - 48 * g.dfx
    let v := y - 48 * g.dfy
    if g.places u v then ! g.copyB n u v else false

/-- The active run's program. -/
def State.activeProgram (s : State) (p : Nat) : Option Program :=
  (s.part p).active.bind (fun a => s.program p a.run.progSlot)

/-- A write of host bytes is noted: output in the written-byte map and the output store, and in a paired run every write in the digest
store of its copy. In part DEDUCED, log 41. -/
def Bridge.noteOutput (b : Bridge) (out paired isB : Bool) (l : List Host.Cell) : Bridge :=
  let put := fun (t : List Host.Cell) => l.foldl (fun t p => tset t p.1 p.2) t
  let gs := (granules (l.map (·.1))).filter (fun g => ! b.outWritten.contains g)
  let b1 := if isB || ! out then b else { b with outWritten := b.outWritten ++ gs, outStore := put b.outStore }
  if ! paired then b1
  else if isB then { b1 with lineStoreB := put b1.lineStoreB }
  else { b1 with lineStoreA := put b1.lineStoreA }

/-- A host-space write at its landing: refused outside the windows; what copy B writes goes to its digest store only; the rest enters the
coalescer. A write that names no byte is acknowledged at once. None while it waits. In part DEDUCED, log 41. -/
def State.egressIn (s : State) (h x y : Nat) (p : Packet) : Option State :=
  let b := s.bridge h
  let n := writeExtent p
  if ! b.clocked 5 || decide (64 ≤ b.egress.length) then none
  else match s.hostAddr h (fld p.dest 47 0) n with
    | none => some (s.bounce x y p fabFencedTarget 3 false)
    | some (a, out) =>
      let l := writeCells p a
      let g := s.activeProgram h
      let paired := g.any (fun g => g.mode = 2)
      let isB := paired && g.any (fun g => g.copyB 144 p.srcX p.srcY)
      let s1 := s.onBridge h (fun b => b.noteOutput out paired isB l)
      let s2 := if out then s1.onActive h (fun a => { a with bytes := (s1.bridge h).outStore.length }) else s1
      if isB || n = 0 then some (s2.inject x y [p.answer s.myMod x y p.dstPort opWrack []])
      else some ((s2.onBridge h (fun b => b.enterEgress s.cycle a n l p)).pushReady h 64)

/-- EGRESS_WRITE: the oldest host-space write at a landing router of the bridge. -/
def execEgressWrite (s x y : Nat) (st : State) : Res :=
  if 4 ≤ s then .fault .noSuchHostSite
  else if ! siteOk x y then .fault .noSuchSite
  else match landingOf x y with
    | none => .next st
    | some (h, q) => if h ≠ s then .next st else st.atPort x y q opWr (fun st p => st.egressIn s x y p)

/-- SLACK_TIMEOUT. -/
def execSlackTimeout (s : Nat) (st : State) : Res :=
  st.onSite s (fun st =>
    let b := st.bridge s
    match b.egress with
    | [] => st
    | e :: _ => if b.clocked 5 && decide (e.opened + slackOf b ≤ st.cycle) then st.pushEgress s else st)

/-- Output windows of a run. -/
def Run.outs (r : Run) : List (Nat × Nat) := r.wins.drop r.nin

/-- Bytes of a window that the run did not write, in contiguous stretches of host bytes: granules without any write, and the rest of
granules written in part (R232, R286). In part DEDUCED, log 41. -/
def unwritten (b : Bridge) (w : Nat × Nat) : List (Nat × Nat) :=
  (byteRuns (((span w.1 w.2).filter (fun a => (tget b.outStore a).isNone)).map (fun a => (a, (0 : Byte))))).map (fun r => (r.1, r.2.length))

/-- A pair digest (R224): over every 256-byte line that the copy wrote. -/
def pairDigest (l : List Host.Cell) : Dword :=
  dword (((dedup (l.map (fun p => p.1 / 256))).map (fun k =>
    leNat ((sha512 (leBytes 8 (256 * k) ++ (span (256 * k) 256).map (fun a => (tget l a).getD 0))).take 8))).sum)

/-- The bytes that OUTPUT covers: the output store, or the windows as read back when they total more than 1 MiB. In part DEDUCED, log 41. -/
def outputBytes (b : Bridge) (outs : List (Nat × Nat)) (back : List (List Byte)) : List Byte :=
  if ((outs.map (·.2)).sum : Nat) ≤ 2 ^ 20 then outs.flatMap (fun w => (span w.1 w.2).map (fun a => (tget b.outStore a).getD 0))
  else (outs.zip back).flatMap (fun v => padTo v.1.2 v.2)

/-- OUTPUT_FINALISE: every cell of the run has reported its slots retired and every write is acknowledged. -/
def State.finaliseOutput (s : State) (p : Nat) (back : List (List Byte)) : State :=
  match (s.part p).active with
  | none => s
  | some a =>
    let b := s.bridge p
    let outs := a.run.outs
    let zero := outs.flatMap (unwritten b)
    let ready := a.outDigest.isNone && a.startedCells.all a.retired.contains && b.egress = [] && b.clocked 5 && b.clocked 6 &&
      outs.all (fun w => inWindow b w.1 w.2)
    if ! ready then s
    else
      let digest := (sha512 (outputBytes b outs back)).take 48
      let s1 := s.onBridge p (fun b => zero.foldl (fun b z => b.post z.1 (zeros z.2)) b)
      s1.onActive p (fun a => { a with outDigest := some digest, pairA := pairDigest b.lineStoreA, pairB := pairDigest b.lineStoreB })

def execOutputFinalise (s : Nat) (readBack : List (List Byte)) (st : State) : Res := st.onSite s (fun st => st.finaliseOutput s readBack)

/-! ### Patrol scrub and refresh (R184, R185) -/

/-- A SCRUB_UE record, counted (R238). -/
def State.scrubUe (s : State) (f : Nat) (site : Word) (addr : Dword) : State :=
  let s1 := s.fwLog { recOf 0x24 .firmware with code := memScrubUncorrectable, site := site, addr := addr }
  match s.partOfField f with
  | some p => s1.countPart p 4 1
  | none => s1.count 4 1

/-- Scrubbing of a field goes on: Underway or Lull. -/
def State.scrubbing (s : State) (f : Nat) : Bool := (s.field f).awake

/-- What a scrub of one word of data storage finds: an earlier error, or the one the check reports now. -/
def Cell.scrubData (c : Cell) (w : Nat) (e : Ecc) : Cell × Bool :=
  if e = .uncorrectable ∨ c.data.bad.contains w then
    ({ c with data := { c.data with bad := if c.data.bad.contains w then c.data.bad else w :: c.data.bad } }, true)
  else if e = .corrected ∨ c.data.weak.contains w then
    ({ c with data := { c.data with weak := c.data.weak.filter (fun v => v ≠ w) }, eccFixed := c.eccFixed + 1 }, false)
  else (c, false)

/-- The same of a word of the slot and configuration store. -/
def Cell.scrubStore (c : Cell) (w : Nat) (e : Ecc) : Cell × Bool :=
  if e = .uncorrectable ∨ c.storeBad.contains w then
    ({ c with storeBad := if c.storeBad.contains w then c.storeBad else w :: c.storeBad }, true)
  else if e = .corrected then ({ c with eccFixed := c.eccFixed + 1 }, false)
  else (c, false)

/-- The same of an entry of a queue, hardware entries first. -/
def Cell.scrubQueue (c : Cell) (q i : Nat) (e : Ecc) : Cell × Bool :=
  let v := c.queue q
  let spoil := fun (l : List QItem) (k : Nat) => match l[k]? with
    | some t => (lset l k { t with bad := true }, true)
    | none => (l, false)
  let was := ((v.hw ++ v.ring)[i]?).any (fun t => t.bad)
  if e = .uncorrectable ∨ was then
    let h := spoil v.hw i
    let r := if i < v.hw.length then (v.ring, false) else spoil v.ring (i - v.hw.length)
    ({ c with queues := tset c.queues q { v with hw := h.1, ring := r.1 } }, h.2 || r.2)
  else if e = .corrected then ({ c with eccFixed := c.eccFixed + 1 }, false)
  else (c, false)

/-- A list of bad words after a scrub has read one of them. -/
def scrubList (l : List Nat) (w : Nat) (e : Ecc) : List Nat := if e = .uncorrectable && ! l.contains w then w :: l else l

/-- A scrub of a word of a store that keeps the list `l` of its bad words: the cell with the list, and whether the word is bad. -/
def Cell.scrubIn (c : Cell) (l : List Nat) (w : Nat) (e : Ecc) (put : Cell → List Nat → Cell) : Cell × Bool :=
  let v := scrubList l w e
  if v.contains w then (put c v, true)
  else (if e = .corrected then { c with eccFixed := c.eccFixed + 1 } else c, false)

/-- A scrub of a word of a stream-buffer line or of a posted-write entry. -/
def Cell.scrubLine (c : Cell) (i w : Nat) (e : Ecc) : Cell × Bool :=
  match c.pc.lines[i]? with
  | none => (c, false)
  | some v => c.scrubIn v.bad (32 * v.addr + w) e (fun c b => { c with pc := { c.pc with lines := lset c.pc.lines i { v with bad := b } } })

def Cell.scrubPwb (c : Cell) (i w : Nat) (e : Ecc) : Cell × Bool :=
  match c.pc.pwb[i]? with
  | none => (c, false)
  | some v => c.scrubIn v.bad w e (fun c b => { c with pc := { c.pc with pwb := lset c.pc.pwb i { v with bad := b } } })

/-- SRAM_SCRUB: one access of a cell's stores; one of the data storage takes its bank for the pulse. In part DEDUCED, log 50. -/
def execSramScrub (x y : Nat) (t : ScrubTarget) (ecc : Ecc) (s : State) : Res :=
  if ! siteOk x y then .fault .noSuchSite
  else
    let k := clsOf x y
    let ok := match t with
      | .data w => decide (8 * w < storeSize k)
      | .store w => decide (w < 1024)
      | .queue q _ => decide (q < 8)
      | .acc w => k = .c && decide (w < 2048)
      | .hash w => k = .g && decide (w < 8192)
      | .line i w => k = .p && decide (i < 256 ∧ w < 32)
      | .pwb i w => k = .p && decide (i < 16 ∧ w < 8)
      | .hidden => true
    if ! ok then .fault .noSuchPart
    else if ! s.scrubbing (fieldOf x y) || s.bodyOut x y then .next s
    else
      let c := s.cell x y
      let r := match t with
        | .data w => (({ c with bankUse := bankAt k (8 * w) :: c.bankUse } : Cell).scrubData w ecc, cellAddr s.myMod x y (8 * w))
        | .store w => (c.scrubStore w ecc, mgmtAddr s.myMod x y 0 (8 * w))
        | .queue q i => (c.scrubQueue q i ecc, 0)
        | .acc w => (c.scrubIn c.accBad w ecc (fun c l => { c with accBad := l }), 0)
        | .hash w => (c.scrubIn c.gc.hashBad w ecc (fun c l => c.onG (fun g => { g with hashBad := l })), 0)
        | .line i w => (c.scrubLine i w ecc, 0)
        | .pwb i w => (c.scrubPwb i w ecc, 0)
        | .hidden => ((if ecc = Ecc.corrected then { c with eccFixed := c.eccFixed + 1 } else c, decide (ecc = Ecc.uncorrectable)), 0)
      let s1 := s.setCell x y r.1.1
      .next (if r.1.2 then s1.scrubUe (fieldOf x y) (siteWord x y portL) r.2 else s1)

/-- DRAM_SCRUB: the next granule of a channel; what the check finds lies in its first word. In part DEDUCED, log 50. -/
def State.scrubDram (s : State) (f ch : Nat) (e : Ecc) : State :=
  let q := s.field f
  if ! s.scrubbing f || ! towerUp q then s
  else
    let g := tgetD q.scrubAt ch 0
    let o := towerOff ch (64 * g)
    let w := o / 8
    let words := wordsOf (span o 64)
    let t := if e = .uncorrectable ∧ ¬ q.tower.bad.contains w then { q.tower with bad := w :: q.tower.bad } else q.tower
    let n := (t.weakOf (span o 64)).length + (if e = .corrected then 1 else 0)
    let v := s.server f ch
    let bad := words.filter t.bad.contains
    let s1 := if n = 0 ∧ bad = [] then s else s.onCell v.1 v.2 (fun c => (c.pcCount 6 n).pcCount 7 bad.length)
    let s2 := s1.onField f (fun q => { q with tower := t.heal (span o 64), scrubAt := tset q.scrubAt ch ((g + 1) % 2 ^ 21) })
    bad.foldl (fun s w => s.scrubUe f 0xFFFFFFFF#32 (towerAddr s.myMod f (8 * w))) s2

def execDramScrub (f ch : Nat) (ecc : Ecc) (s : State) : Res := if 64 ≤ ch then .fault .noSuchPart else s.onFld f (fun s => s.scrubDram f ch ecc)

/-- DRAM_REFRESH: no byte changes; the cycle of a bank's last refresh is kept. A tower in self-refresh refreshes itself. In part DEDUCED, log 50. -/
def execDramRefresh (f ch bank : Nat) (s : State) : Res :=
  if 64 ≤ ch then .fault .noSuchPart
  else s.onFld f (fun s =>
    if (s.field f).trained && ! (s.field f).sr then s.onField f (fun q => { q with refreshed := tset q.refreshed (64 * bank + ch) s.cycle })
    else s)

end Sys2Proof.Machine
end

