-- ==== Sys2Proof/Machine/Image.lean ====
section
/-!
DEFINITION. Images as bytes (R377, R378) and the sections of a program image (R379-R387): what check 1 of R107 covers.
-/
namespace Sys2Proof.Machine

/-! ### The header and the section table (R377) -/

/-- Bytes [o, o + n) are zero. -/
def zeroAt (l : List Byte) (o n : Nat) : Bool := allZero ((l.drop o).take n)

/-- The header of a well-formed image: flags, security version, version, measurement, signature offset, sections in table order. -/
structure ImageHead where
  kind   : Nat
  flags  : Nat
  svn    : Nat
  major  : Nat
  minor  : Nat
  measurement : List Byte
  sigOff : Nat
  secs   : List (Nat × List Byte)
deriving DecidableEq, Repr

/-- Entries of the section table: type, offset, length. -/
def secEntries (l : List Byte) : List (Nat × Nat × Nat) :=
  (List.range (leAt l 12 4)).map (fun i => (leAt l (256 + 16 * i) 2, leAt l (260 + 16 * i) 4, leAt l (264 + 16 * i) 4))

/-- No two sections overlap. -/
def secApart : List (Nat × Nat × Nat) → Bool
  | [] => true
  | e :: t => t.all (fun f => decide (e.2.1 + e.2.2 ≤ f.2.1) || decide (f.2.1 + f.2.2 ≤ e.2.1)) && secApart t

/-- The rules of the header, its reserved bytes and the table. -/
def headOk (l : List Byte) : Bool :=
  let n := leAt l 12 4
  let sig := leAt l 96 4
  decide (256 ≤ l.length) && leAt l 0 4 = 0x53424C52 && leAt l 4 2 = 1 && decide (byteAt l 7 < 8) && leAt l 8 4 = l.length &&
    decide (1 ≤ n ∧ n ≤ 4096) && zeroAt l 22 10 && zeroAt l 100 156 && decide (leAt l 16 2 ≤ 255) &&
    decide (256 + 16 * n ≤ sig) && decide (sig ≤ l.length) && (byteAt l 7 % 2 = 1 || sig = l.length) &&
    (List.range n).all (fun i => zeroAt l (258 + 16 * i) 2 && zeroAt l (268 + 16 * i) 4) &&
    (secEntries l).all (fun e => e.2.1 % 64 = 0 && decide (256 + 16 * n ≤ e.2.1) && decide (e.2.1 + e.2.2 ≤ sig)) && secApart (secEntries l)

def imageHead (l : List Byte) : Option ImageHead :=
  if headOk l then
    some { kind := byteAt l 6, flags := byteAt l 7, svn := leAt l 16 2, major := leAt l 18 2, minor := leAt l 20 2,
           measurement := (l.drop 32).take 64, sigOff := leAt l 96 4,
           secs := (secEntries l).map (fun e => (e.1, (l.drop e.2.1).take e.2.2)) }
  else none

/-- MEASUREMENT as it is recomputed. -/
def measureOf (l : List Byte) (sigOff : Nat) : List Byte := sha512 (l.take 32 ++ (l.drop 256).take (sigOff - 256))

/-- How many sections of a type there are. -/
def ImageHead.times (h : ImageHead) (t : Nat) : Nat := (h.secs.filter (fun s => s.1 = t)).length

/-- Section counts of R378. -/
def ImageHead.programSecs (h : ImageHead) : Bool :=
  h.secs.all (fun s => decide (0x0101 ≤ s.1 ∧ s.1 ≤ 0x0108)) && (List.range 5).all (fun k => h.times (0x0101 + k) = 1) &&
    (List.range 3).all (fun k => decide (h.times (0x0106 + k) ≤ 1))

def ImageHead.firmwareSecs (h : ImageHead) : Bool :=
  h.secs.all (fun s => s.1 = 1 || s.1 = 2) && h.times 1 = 1 && h.times 2 = 5

/-- A section; an absent one of types 0x0106-0x0108 stands for empty lists. -/
def ImageHead.sec (h : ImageHead) (t : Nat) : List Byte :=
  match h.secs.find? (fun s => s.1 = t) with
  | some s => s.2
  | none => zeros 16

/-! ### The signature block (R388, R391) -/

/-- The block's form, and the signature over header bytes 0-95. -/
def sigOk (l : List Byte) (sigOff slot chain : Nat) : Bool :=
  let b := l.drop sigOff
  b.length = 276 + chain && leAt b 0 2 = 1 && byteAt b 2 = slot && byteAt b 3 = 0 && zeroAt b 137 3 && leAt b 272 4 = chain &&
    ecdsaVerify ((b.drop 4).take 133) (l.take 96) ((b.drop 140).take 66) ((b.drop 206).take 66)

/-- R391: the chain to the root, then the signature. -/
def programSig (l : List Byte) (sigOff : Nat) : Bool :=
  let b := l.drop sigOff
  let chain := leAt b 272 4
  Config.chainToRoot ((b.drop 276).take chain) ((b.drop 4).take 133) && sigOk l sigOff 0 chain

/-! ### Lists of a program image (R379) -/

/-- Ascending field index, then y, then x. -/
def siteKey (x y : Nat) : Nat := (fieldOf x y * 1024 + y) * 1024 + x

def ascending : List Nat → Bool
  | [] => true
  | [_] => true
  | a :: b :: t => decide (a < b) && ascending (b :: t)

/-- Records of a fixed size after a section's 16-byte header, from offset `o`. -/
def records (l : List Byte) (o size n : Nat) : List (List Byte) := (List.range n).map (fun i => (l.drop (o + size * i)).take size)

/-- A site of the mesh in the program's rectangle. In part DEDUCED, log 26. -/
def placeOk (rect : Word) (x y : Nat) : Bool := siteOk x y && inRect (setBit rect 31 true) (fieldOf x y)

/-! ### 0x0101 (R380) -/

def descOk (b : List Byte) : Bool :=
  b.length = 128 && leAt b 0 2 = 1 && decide (byteAt b 2 ≤ 3) && decide (byteAt b 3 ≤ 2) && leAt b 6 2 = 0 && decide (byteAt b 9 ≤ 6) &&
    decide (byteAt b 10 ≤ 6) && decide (byteAt b 11 ≤ 1) && leAt b 16 8 % 4096 = 0 && zeroAt b 40 88 &&
    decide (leAt b 4 4 / 2 ^ 12 % 16 ≤ leAt b 4 4 / 2 ^ 4 % 16) && decide (leAt b 4 4 / 2 ^ 8 % 16 ≤ leAt b 4 4 % 16)

/-! ### 0x0102 (R381) -/

/-- Offsets of the configuration store that the loader writes. -/
def cfgOffset (o : Nat) : Bool := (0x00C ≤ o && o < 0x01C) || (0x020 ≤ o && o < 0x060)

/-- RWL registers of an engine block that an image holds. -/
def engOffset (k : Cls) (o : Nat) : Bool :=
  match k with
  | .g => o / 4 = 1 || (0x10 ≤ o && o < 0x1C)
  | .p => 0x10 ≤ o && o < 0x30
  | _ => false

/-- Reserved bits of the registers in the configuration bytes are zero (R8). -/
def cfgResv (b : List Byte) : Bool :=
  leAt b 0x18 4 < 256 && (List.range 8).all (fun q => leAt b (0x20 + 4 * q) 4 % 2 ^ 28 = 0 &&
    (word (leAt b (0x40 + 4 * q) 4) &&& 0xFC00FF80#32) = 0)

def engResv (k : Cls) (b : List Byte) : Bool :=
  match k with
  | .g => (word (leAt b 0x04 4) &&& 0xFFE0C0FE#32) = 0 && leAt b 0x18 4 < 2 ^ 16
  | _ => true

def siteLen (l : List Byte) : Nat := 144 + 16 * byteAt l 5 + 32 * byteAt l 6 + 256 * byteAt l 7

/-- One site entry is well formed. -/
def siteEntryOk (l : List Byte) : Bool :=
  let x := leAt l 0 2
  let y := leAt l 2 2
  let cfg := (l.drop 16).take 128
  let eng := (l.drop (siteLen l - 256)).take 256
  decide (siteLen l ≤ l.length) && siteOk x y && byteAt l 4 = (clsOf x y).code && decide (byteAt l 5 ≤ 64) && decide (byteAt l 6 ≤ 128) &&
    decide (byteAt l 7 ≤ 1) && leAt l 8 4 = siteLen l && zeroAt l 12 4 &&
    (List.range 128).all (fun o => cfgOffset o || byteAt cfg o = 0) && cfgResv cfg &&
    (byteAt l 7 = 0 || ((List.range 256).all (fun o => engOffset (clsOf x y) o || byteAt eng o = 0) && engResv (clsOf x y) eng))

def siteEntry (l : List Byte) : SiteCfg :=
  let ns := byteAt l 5
  let nd := byteAt l 6
  { x := leAt l 0 2, y := leAt l 2 2, cls := byteAt l 4, wdog := word (leAt l 0x1C 4),
    slotEn := BitVec.ofNat 64 (leAt l 0x20 8), pred := word (leAt l 0x28 4),
    qcfg := (List.range 8).map (fun q => word (leAt l (0x30 + 4 * q) 4)), qext := (List.range 8).map (fun q => word (leAt l (0x50 + 4 * q) 4)),
    slots := (List.range ns).map (fun n => BitVec.ofNat 128 (leAt l (144 + 16 * n) 16)),
    descs := (List.range nd).map (fun n => BitVec.ofNat 256 (leAt l (144 + 16 * ns + 32 * n) 32)),
    engine := if byteAt l 7 = 1 then some ((l.drop (siteLen l - 256)).take 256) else none }

def siteEntries : Nat → List Byte → Option (List SiteCfg)
  | 0, l => if l = [] then some [] else none
  | n + 1, l => if siteEntryOk l then (siteEntries n (l.drop (siteLen l))).map (fun t => siteEntry l :: t) else none

/-! ### 0x0103 (R382) -/

def routeLen (l : List Byte) : Nat := (32 + 8 * byteAt l 4 + 15) / 16 * 16

def routeLanes (l : List Byte) : List (Nat × Word) :=
  (List.range (byteAt l 4)).map (fun m => (byteAt l (32 + 8 * m), word (leAt l (36 + 8 * m) 4)))

/-- Each number at most once. -/
def distinct : List Nat → Bool
  | [] => true
  | a :: t => ! t.contains a && distinct t

def routeEntryOk (l : List Byte) : Bool :=
  let n := byteAt l 4
  decide (routeLen l ≤ l.length) && siteOk (leAt l 0 2) (leAt l 2 2) && decide (n ≤ 20) && zeroAt l 5 3 && zeroAt l 28 4 &&
    (List.range 5).all (fun p => decide (leAt l (8 + 4 * p) 4 < 2 ^ 16)) &&
    (routeLanes l).all (fun e => decide (e.1 ≤ 19) && decide (e.2.toNat % 2 ^ 25 = 0)) && distinct ((routeLanes l).map (·.1)) &&
    (List.range n).all (fun m => zeroAt l (33 + 8 * m) 3) && zeroAt l (32 + 8 * n) (routeLen l - (32 + 8 * n))

def routeEntry (l : List Byte) : RouteCfg :=
  { x := leAt l 0 2, y := leAt l 2 2, wheel := (List.range 5).map (fun p => word (leAt l (8 + 4 * p) 4)), lanes := routeLanes l }

def routeEntries : Nat → List Byte → Option (List RouteCfg)
  | 0, l => if l = [] then some [] else none
  | n + 1, l => if routeEntryOk l then (routeEntries n (l.drop (routeLen l))).map (fun t => routeEntry l :: t) else none

/-! ### 0x0104 (R383, R179) -/

def bufferOf (b : List Byte) : Buffer :=
  { kind := byteAt b 0, scope := byteAt b 1, index := byteAt b 2, addr := dword (leAt b 8 8), size := leAt b 16 8 }

/-- A tower-space address; field and offset. -/
def towerPlace (a : Dword) : Option (Nat × Nat) :=
  if fld a 61 58 = 1 ∧ fld a 57 48 = 0 ∧ fld a 39 33 = 0 ∧ fld a 47 40 < 144 then some (fld a 47 40, fld a 32 0) else none

def bufferOk (rect : Word) (b : List Byte) : Bool :=
  let v := bufferOf b
  decide (v.kind ≤ 3) && decide (v.scope ≤ if v.kind < 2 then 1 else 0) && (v.kind % 2 = 1 || v.index = 0) && zeroAt b 3 5 && zeroAt b 24 8 &&
    (v.kind ≠ 3 || v.addr = 0) &&
    (v.kind ≠ 2 || (fld v.addr 61 58 = 0 && fld v.addr 37 19 = 0 && placeOk rect (fld v.addr 57 48) (fld v.addr 47 38) &&
      decide (fld v.addr 18 0 + v.size ≤ storeSize (clsOf (fld v.addr 57 48) (fld v.addr 47 38))))) &&
    (v.scope = 0 || (match towerPlace v.addr with
      | some (_, o) => o % 2 ^ 18 = 0 && v.size % 2 ^ 18 = 0 && decide (o + v.size ≤ 2 ^ 33)
      | none => false))

/-- At most eight host-scope buffers in a tower. -/
def scopesOk (l : List Buffer) : Bool :=
  let fs := (l.filter (fun b => b.scope = 1)).map (fun b => fld b.addr 47 40)
  fs.all (fun f => decide ((fs.filter (fun g => g = f)).length ≤ 8))

/-- Each index below the count in exactly one entry of a kind, and no other. -/
def indicesOk (l : List Buffer) (kind n : Nat) : Bool :=
  let ix := (l.filter (fun b => b.kind = kind)).map (·.index)
  distinct ix && ix.all (fun i => decide (i < n)) && ix.length = n

/-! ### 0x0105 (R384, R252) -/

def ladderLen (b : List Byte) (k : Nat) : Nat := byteAt b (1 + k)

/-- Sizes of ladder `k`, as far as the table reaches. -/
def ladderOf (b : List Byte) (k : Nat) : List Nat := (List.range (min 16 (ladderLen b k))).map (fun i => leAt b (16 + 64 * k + 4 * i) 4)

def combProduct (b : List Byte) : Nat := (List.range 4).foldl (fun a k => a * max 1 (ladderLen b k)) 1

def boundOf (b : List Byte) : Bound :=
  { cycles := (List.range 7).map (fun k => leAt b (4 * k) 4), pairExtra := leAt b 28 4, bucketWrites := leAt b 32 4, maskWrites := leAt b 36 4,
    sessionWrites := leAt b 40 4, peerXfers := leAt b 44 2, outMax := leAt b 48 4, hostRate := leAt b 52 4 }

def patchOf (b : List Byte) : PatchWrite :=
  { x := leAt b 0 2, y := leAt b 2 2, off := leAt b 4 4, value := word (leAt b 8 4), mask := word (leAt b 12 4) }

/-- Place and number of writes of each combination's patch. -/
def patchDir (b : List Byte) (ncomb : Nat) : List (Nat × Nat) :=
  (records b (272 + 64 * ncomb) 16 ncomb).map (fun d => (leAt d 0 8, leAt d 8 4))

def patchesOf (b : List Byte) (ncomb : Nat) : List (List PatchWrite) :=
  (patchDir b ncomb).map (fun d => (records b d.1 16 d.2).map patchOf)

def patchListOk (rect : Word) (l : List PatchWrite) : Bool :=
  l.all (fun w => placeOk rect w.x w.y && w.off % 4 = 0 && decide (w.off ≤ 0x30FF)) &&
    ascending (l.map (fun w => siteKey w.x w.y * 2 ^ 14 + w.off))

/-- The form of the section, apart from the counts of check 5. -/
def bucketOk (rect : Word) (ndim : Nat) (b : List Byte) : Bool :=
  let n := leAt b 8 4
  decide (272 + 80 * n ≤ b.length) && byteAt b 0 = ndim && zeroAt b 5 3 && zeroAt b 12 4 &&
    (List.range 4).all (fun k => zeroAt b (16 + 64 * k + 4 * min 16 (ladderLen b k)) (64 - 4 * min 16 (ladderLen b k))) &&
    (records b 272 64 n).all (fun e => zeroAt e 46 2 && zeroAt e 56 8) && (records b (272 + 64 * n) 16 n).all (fun d => zeroAt d 12 4) &&
    (patchDir b n).all (fun d => decide (272 + 80 * n ≤ d.1) && decide (d.1 + 16 * d.2 ≤ b.length)) &&
    (patchDir b n).map (·.2) = (records b 272 64 n).map (fun e => leAt e 32 4) && (patchesOf b n).all (patchListOk rect)

/-- Check 5 of R107, as far as the ladders go (R102). -/
def countOk (ndim : Nat) (b : List Byte) : Bool :=
  decide (ndim ≤ 4) && leAt b 8 4 = combProduct b && decide (combProduct b ≤ 256) &&
    (List.range 4).all (fun k => if k < ndim then decide (1 ≤ ladderLen b k ∧ ladderLen b k ≤ 16) && ascending (ladderOf b k) &&
      (ladderOf b k).all (fun z => decide (1 ≤ z ∧ z ≤ 2 ^ 24)) else ladderLen b k = 0)

/-! ### 0x0106 (R385) -/

def maskOfBytes (b : List Byte) : MaskPatch :=
  { x := leAt b 0 2, y := leAt b 2 2, desc := byteAt b 4, axis := byteAt b 5, dim := byteAt b 6, origin := leAt b 8 4 }

def sessionOf (b : List Byte) : SessionPatch :=
  { x := leAt b 0 2, y := leAt b 2 2, off := leAt b 4 4, region := byteAt b 8, disp := leAt b 16 8, extent := leAt b 24 8 }

def patchSecOk (rect : Word) (placed : Nat → Nat → Bool) (b : List Byte) : Bool :=
  let nm := leAt b 0 4
  let ns := leAt b 4 4
  let nh := leAt b 8 4
  let ms := records b 16 16 nm
  let ss := records b (16 + 16 * nm) 32 ns
  let hs := records b (16 + 16 * nm + 32 * ns) 16 nh
  b.length = 16 + 16 * nm + 32 * ns + 16 * nh && zeroAt b 12 4 &&
    ms.all (fun e => placed (leAt e 0 2) (leAt e 2 2) && decide (byteAt e 5 ≤ 1) && byteAt e 7 = 0 && zeroAt e 12 4) &&
    ss.all (fun e => placeOk rect (leAt e 0 2) (leAt e 2 2) && leAt e 4 4 % 8 = 0 && decide (leAt e 4 4 ≤ 0x30F8) && decide (byteAt e 8 ≤ 1) &&
      zeroAt e 9 7) &&
    hs.all (fun e => placed (leAt e 0 2) (leAt e 2 2) && decide (clsOf (leAt e 0 2) (leAt e 2 2) = .g) && zeroAt e 4 4) &&
    ascending (ms.map (fun e => siteKey (leAt e 0 2) (leAt e 2 2) * 2 ^ 16 + byteAt e 4 * 256 + byteAt e 5)) &&
    ascending (ss.map (fun e => siteKey (leAt e 0 2) (leAt e 2 2) * 2 ^ 14 + leAt e 4 4)) &&
    ascending (hs.map (fun e => siteKey (leAt e 0 2) (leAt e 2 2)))

/-! ### 0x0107 (R386) and 0x0108 (R387) -/

def sightOf (b : List Byte) : SightCfg :=
  { x := leAt b 0 2, y := leAt b 2 2, k := byteAt b 4, entry := word (leAt b 8 4), window := word (leAt b 12 4) }

def sightSecOk (mode : Nat) (placed : Nat → Nat → Bool) (b : List Byte) : Bool :=
  let n := leAt b 0 4
  let es := records b 16 16 n
  b.length = 16 + 16 * n && zeroAt b 7 9 && byteAt b 6 = (if mode = 2 then 1 else 0) && (mode ≠ 0 || n = 0) &&
    (mode = 2 || zeroAt b 4 2) &&
    es.all (fun e => placed (leAt e 0 2) (leAt e 2 2) && decide (clsOf (leAt e 0 2) (leAt e 2 2) = .c) && decide (byteAt e 4 ≤ 3) &&
      zeroAt e 5 3 && (word (leAt e 8 4) &&& 0x3FFFC000#32) = 0 && zeroAt e 14 2) &&
    ascending (es.map (fun e => siteKey (leAt e 0 2) (leAt e 2 2) * 4 + byteAt e 4))

def syncOfBytes (b : List Byte) : SyncUse := { x := leAt b 0 2, y := leAt b 2 2, target := byteAt b 4, slot := byteAt b 5, j := byteAt b 6 }

/-- The field that a sync-use entry names: a SYNC slot, or a stream of a P-cell. -/
def syncNames (sites : List SiteCfg) (e : SyncUse) : Bool :=
  match sites.find? (fun v => v.x = e.x && v.y = e.y) with
  | none => false
  | some v => if e.target = 0 then decide (e.slot < 64) && sOp (lgetD v.slots e.slot 0) = 0x38
    else decide (e.slot < 8) && decide (clsOf e.x e.y = .p)

def syncSecOk (rect : Word) (sites : List SiteCfg) (b : List Byte) : Bool :=
  let n := leAt b 0 4
  let m := leAt b 4 4
  let es := records b 16 16 n
  let ps := records b (16 + 16 * n) 16 m
  b.length = 16 + 16 * (n + m) && zeroAt b 8 8 &&
    es.all (fun e => decide (byteAt e 4 ≤ 1) && decide (byteAt e 6 ≤ 63) && zeroAt e 7 9 && syncNames sites (syncOfBytes e)) &&
    ps.all (fun e => placeOk rect (leAt e 0 2) (leAt e 2 2) && decide (byteAt e 4 ≤ 3) && zeroAt e 5 11) &&
    ascending (es.map (fun e => siteKey (leAt e 0 2) (leAt e 2 2) * 2 ^ 16 + byteAt e 4 * 256 + byteAt e 5)) &&
    ascending (ps.map (fun e => siteKey (leAt e 0 2) (leAt e 2 2) * 4 + byteAt e 4))

/-! ### The whole image -/

/-- A program image that passes check 1, with whether its counts pass check 5. -/
structure Parsed where
  prog  : Program
  count : Bool
deriving DecidableEq, Repr

/-- Sections after sites and routing have been read. -/
def sectionsOk (h : ImageHead) (sites : List SiteCfg) : Bool :=
  let d := h.sec 0x0101
  let rect := word (leAt d 4 4)
  let b := h.sec 0x0104
  let bufs := (records b 16 32 (leAt b 0 4)).map bufferOf
  let placed := fun (x y : Nat) => sites.any (fun v => v.x = x && v.y = y)
  b.length = 16 + 32 * leAt b 0 4 && zeroAt b 4 12 && (records b 16 32 (leAt b 0 4)).all (bufferOk rect) && scopesOk bufs &&
    indicesOk bufs 1 (byteAt d 9) && indicesOk bufs 3 (byteAt d 10) && bucketOk rect (byteAt d 8) (h.sec 0x0105) &&
    patchSecOk rect placed (h.sec 0x0106) && sightSecOk (byteAt d 3) placed (h.sec 0x0107) && syncSecOk rect sites (h.sec 0x0108)

/-- The program of sections that are well formed. -/
def programOf (l : List Byte) (h : ImageHead) (sites : List SiteCfg) (routing : List RouteCfg) : Program :=
  let d := h.sec 0x0101
  let b := h.sec 0x0104
  let k := h.sec 0x0105
  let m := h.sec 0x0106
  let g := h.sec 0x0107
  let y := h.sec 0x0108
  let nm := leAt m 0 4
  let ns := leAt m 4 4
  { measurement := (l.drop 32).take 64, signed := h.flags % 2 = 1, module := byteAt d 2, mode := byteAt d 3, rect := word (leAt d 4 4),
    ndim := byteAt d 8, nin := byteAt d 9, nout := byteAt d 10, fullCoverage := byteAt d 11 = 1, kSkew := leAt d 12 4,
    saveSize := leAt d 16 8, kvMin := leAt d 24 8, histMin := leAt d 32 8, sites := sites, routing := routing,
    buffers := (records b 16 32 (leAt b 0 4)).map bufferOf, ladders := (List.range (min 4 (byteAt d 8))).map (ladderOf k),
    bounds := (records k 272 64 (leAt k 8 4)).map boundOf, patches := patchesOf k (leAt k 8 4),
    masks := (records m 16 16 nm).map maskOfBytes, session := (records m (16 + 16 * nm) 32 ns).map sessionOf,
    hist := (records m (16 + 16 * nm + 32 * ns) 16 (leAt m 8 4)).map (fun e => (leAt e 0 2, leAt e 2 2, leAt e 8 8)),
    sights := (records g 16 16 (leAt g 0 4)).map sightOf, dfx := sext 8 (byteAt g 4), dfy := sext 8 (byteAt g 5),
    syncUse := (records y 16 16 (leAt y 0 4)).map syncOfBytes,
    peers := (records y (16 + 16 * leAt y 0 4) 16 (leAt y 4 4)).map (fun e => (leAt e 0 2, leAt e 2 2, byteAt e 4)) }

/-- Check 1 of R107 with KIND 1 (R391); none: LOAD_FORMAT. -/
def parseProgram (l : List Byte) : Option Parsed :=
  match imageHead l with
  | none => none
  | some h =>
    let d := h.sec 0x0101
    let s := h.sec 0x0102
    let r := h.sec 0x0103
    if ! (h.kind = 1 && h.svn = 0 && h.programSecs && descOk d && zeroAt s 4 12 && zeroAt r 4 12) then none
    else match siteEntries (leAt s 0 4) (s.drop 16), routeEntries (leAt r 0 4) (r.drop 16) with
      | some sites, some routing =>
        if ascending (sites.map (fun v => siteKey v.x v.y)) && ascending (routing.map (fun v => siteKey v.x v.y)) && sectionsOk h sites then
          some { prog := programOf l h sites routing, count := countOk (byteAt d 8) (h.sec 0x0105) }
        else none
      | _, _ => none

end Sys2Proof.Machine
end

