-- ==== Sys2Proof/Machine/Loader.lean ====
section
/-!
DEFINITION. The loader (R106, R107): checks 2 to 11 over an image that passes check 1, the checks of checked and paired programs
(R216, R222, R223, R225), of signatures (R391) and of the save area (R244).
-/
namespace Sys2Proof.Machine

/-- A failed check: the code, and the combination, site and index of the failing item (R106). -/
structure LoadErr where
  code  : Code
  comb  : Nat
  x     : Nat
  y     : Nat
  index : Nat
deriving DecidableEq, Repr

/-- A failure that names no item. -/
def LoadErr.bare (code : Code) : LoadErr := { code := code, comb := 0, x := 0, y := 0, index := 0 }

/-- The first index from 0 that fails. -/
def firstBad (n : Nat) (ok : Nat → Bool) : Option Nat := (List.range n).find? (fun i => ! ok i)

/-- A whole condition. -/
def must (ok : Bool) (code : Code) : Option LoadErr := if ok then none else some (LoadErr.bare code)

/-- The first failing site of a list. -/
def mustAt {α : Type} (l : List α) (place : α → Nat × Nat) (ok : α → Bool) (code : Code) : Option LoadErr :=
  (l.find? (fun a => ! ok a)).map (fun a => { code := code, comb := 0, x := (place a).1, y := (place a).2, index := 0 })

/-- The first failing entry of a list. -/
def mustEach {α : Type} (l : List α) (place : α → Nat × Nat) (ok : α → Bool) (code : Code) : Option LoadErr :=
  ((l.zip (List.range l.length)).find? (fun a => ! ok a.1)).map (fun a =>
    { code := code, comb := 0, x := (place a.1).1, y := (place a.1).2, index := a.2 })

/-- The first failing entry of the things of a list, each at its site. -/
def mustIn {α : Type} (l : List α) (place : α → Nat × Nat) (bad : α → Option Nat) (code : Code) : Option LoadErr :=
  l.findSome? (fun a => (bad a).map (fun i => { code := code, comb := 0, x := (place a).1, y := (place a).2, index := i }))

/-! ### The program as patched for each combination (R106) -/

/-- A site of the program in one combination: a cell that holds its configuration and the combination's bucket patch. -/
structure Conf where
  comb : Nat
  site : SiteCfg
  cell : Cell
deriving DecidableEq, Repr

def Cell.patched (c : Cell) (k : Cls) (x y : Nat) (l : List PatchWrite) : Cell :=
  (l.filter (fun w => w.x = x && w.y = y)).foldl (fun c w =>
    c.writeStore k w.off ((c.readStore k x y w.off &&& ~~~ w.mask) ||| (w.value &&& w.mask))) c

def Program.conf (g : Program) (k : Nat) (v : SiteCfg) : Conf :=
  { comb := k, site := v, cell := (Cell.reset.configure g v).patched (clsOf v.x v.y) v.x v.y (lgetD g.patches k []) }

/-- Every combination in ascending index, and in each every site in its order. -/
def Program.confs (g : Program) : List Conf :=
  (List.range (max 1 g.patches.length)).flatMap (fun k => g.sites.map (g.conf k))

/-- The first item that fails in the order of R106. -/
def mustConf (l : List Conf) (bad : Conf → Option Nat) (code : Code) : Option LoadErr :=
  l.findSome? (fun v => (bad v).map (fun i => { code := code, comb := v.comb, x := v.site.x, y := v.site.y, index := i }))

def Conf.cls (v : Conf) : Cls := clsOf v.site.x v.site.y
def Conf.slot (v : Conf) (n : Nat) : BitVec 128 := v.cell.slot n

/-! ### Check 3 -/

/-- The partition's rectangle holds the program's. -/
def rectInside (outer inner : Word) : Bool := (rectFields (setBit inner 31 true)).all (inRect outer)

/-- A peer source has a lane, to another module, that is not permanently out (R312). -/
def State.peerOk (s : State) (v : Nat × Nat × Nat) : Bool :=
  v.2.2 ≠ s.myMod && (match laneFor s.helm.pins.topo s.myMod v.2.2 v.1 v.2.1 with
    | some d => (match laneNo d.1 d.2 with
      | some l => ! (s.lane l.1 l.2).out
      | none => false)
    | none => false)

/-- A hop of a static route: the port is connected, its link has not failed, and the router beyond is live, in the partition and in a
field in service (R16, R24, R134). -/
def State.hopOk (s : State) (rect : Word) (x y p : Nat) : Bool :=
  match beyond x y p with
  | none => false
  | some (u, v) => ! s.failedLink x y p && ! s.routerDead u v && inRect rect (fieldOf u v) && (s.field (fieldOf u v)).power ≠ .off

/-- Valid lane-map entries of a router. -/
def RouteCfg.valid (r : RouteCfg) : List (Nat × Word) := r.lanes.filter (fun e => lmValid e.2)

/-- The lowest input lane whose valid entry fails. -/
def RouteCfg.badLane (r : RouteCfg) (ok : Nat × Word → Bool) : Option Nat :=
  firstBad 20 (fun l => (r.valid.filter (fun e => e.1 = l)).all ok)

/-- In part DEDUCED, log 38. -/
def State.badRoute (s : State) (rect : Word) (r : RouteCfg) : Option Nat :=
  r.badLane (fun e =>
    inRect rect (fieldOf r.x r.y) && ! s.routerDead r.x r.y && (s.field (fieldOf r.x r.y)).power ≠ .off &&
      (4 ≤ lmOut e.2 / 4 || s.hopOk rect r.x r.y (lmOut e.2 / 4)))

/-- In part DEDUCED, log 26. -/
def State.check3 (s : State) (p : Nat) (g : Program) : Option LoadErr :=
  let rect := (s.part p).rect
  let here := fun (v : SiteCfg) => (v.x, v.y)
  (must (g.module = s.myMod && rectInside rect g.rect) loadRange).or <|
  (mustEach g.peers (fun v => (v.1, v.2.1)) s.peerOk loadRange).or <|
  (mustAt g.sites here (fun v => inRect (setBit g.rect 31 true) (fieldOf v.x v.y) && ! s.bodyOut v.x v.y) loadRange).or
  (mustIn g.routing (fun r => (r.x, r.y)) (s.badRoute rect) loadRange)

/-! ### Check 4 -/

/-- A field of a cell that the sync-use list must name: SYNC slots, and streams with SYNC_EN. -/
def Conf.syncMissing (g : Program) (v : Conf) : Option Nat :=
  let named := fun (t n : Nat) => g.syncUse.any (fun e => e.x = v.site.x && e.y = v.site.y && e.target = t && e.slot = n)
  (firstBad 64 (fun n => sOp (v.slot n) ≠ 0x38 || named 0 n)).or
    (if v.cls = .p then firstBad 8 (fun n => ! strmSync (v.cell.strm n) || named 1 n) else none)

/-- A DRAM range in the partition's tower memory, in no withdrawn tower. -/
def State.rangeOk (s : State) (p : Nat) (b : Buffer) : Bool :=
  2 ≤ b.kind || (match towerPlace b.addr with
    | some (f, o) => fld b.addr 63 62 = s.myMod && decide (o + b.size ≤ 2 ^ 33) && inRect (s.part p).rect f && ! (s.field f).withdrawn
    | none => false)

def State.check4 (s : State) (p : Nat) (g : Program) (l : List Conf) : Option LoadErr :=
  (mustConf l (fun v => v.syncMissing g) loadRange).or (mustEach g.buffers (fun _ => (0, 0)) (s.rangeOk p) loadRange)

/-! ### Check 5 -/

def Program.siteAt (g : Program) (x y : Nat) : Option SiteCfg := g.sites.find? (fun v => v.x = x && v.y = y)

/-- A mask-patch entry names a descriptor of its site and a dimension of the program. -/
def Program.maskOk (g : Program) (e : MaskPatch) : Bool :=
  decide (e.dim < g.ndim) && (match g.siteAt e.x e.y with
    | some v => decide (e.desc < v.descs.length)
    | none => false)

def Program.check5 (g : Program) (count : Bool) : Option LoadErr :=
  (must count loadCount).or (mustEach g.masks (fun e => (e.x, e.y)) g.maskOk loadCount)

/-! ### Check 6: lane maps (the last three rules of R134) -/

/-- Valid entries of the router at a site. -/
def Program.entries (g : Program) (x y : Nat) : List (Nat × Word) :=
  match g.routing.find? (fun r => r.x = x && r.y = y) with
  | some r => r.valid
  | none => []

/-- Queues of a site bound in a direction to a lane. -/
def Program.bound (g : Program) (x y dir lane : Nat) : Nat :=
  match g.siteAt x y with
  | some v => ((List.range 8).filter (fun n => fld (lgetD v.qcfg n 0) 31 30 = dir && fld (lgetD v.qcfg n 0) 29 28 = lane)).length
  | none => 0

/-- An entry leads to a valid input lane of its neighbour, or to exactly one inbound queue. -/
def Program.laneEnds (g : Program) (x y : Nat) (w : Word) : Bool :=
  let o := lmOut w
  if o / 4 = 4 then g.bound x y 1 (o % 4) = 1
  else match beyond x y (o / 4) with
    | some (u, v) => o / 4 < 4 && (g.entries u v).any (fun e => e.1 = 4 * opposite (o / 4) + o % 4)
    | none => false

/-- An output lane is fed by one input lane, or by two to five that join. -/
def feedsOk (l : List (Nat × Word)) (o : Nat) : Bool :=
  let f := l.filter (fun e => lmOut e.2 = o)
  match f with
  | [] => true
  | [e] => ! lmJoin e.2
  | _ => decide (f.length ≤ 5) && f.all (fun e => lmJoin e.2)

/-- The lowest input lane whose entry breaks a rule of R134. -/
def Program.badRouter (g : Program) (r : RouteCfg) : Option Nat :=
  r.badLane (fun e => g.laneEnds r.x r.y e.2 && feedsOk r.valid (lmOut e.2))

/-- Bound queues of a site have their lanes, and no two share one: the first queue that breaks it. -/
def Program.badQueue (g : Program) (v : SiteCfg) : Option Nat :=
  let l := g.entries v.x v.y
  firstBad 8 (fun n =>
    let w := lgetD v.qcfg n 0
    let c := fld w 29 28
    match fld w 31 30 with
    | 1 => l.any (fun e => lmOut e.2 = 16 + c) && g.bound v.x v.y 1 c = 1
    | 2 => l.any (fun e => e.1 = 16 + c) && g.bound v.x v.y 2 c = 1
    | _ => true)

/-! ### Check 6: what patches may change (R105, R249) -/

/-- Descriptor-table entries that slots and streams of a cell name, with each the spaces allowed there, whether it is written, and
whether QUAD is allowed (R39, R87, R88). -/
structure Use where
  d     : Nat
  space : List Nat
  write : Bool
  quad  : Bool
deriving DecidableEq, Repr

/-- Uses of one slot; a common op that names a descriptor as a source uses it where R87 gives no class a use. -/
def slotUses (k : Cls) (w : BitVec 128) : List Use :=
  let rd := fun (d : Nat) => ({ d := d, space := [0], write := false, quad := false } : Use)
  let wr := fun (d : Nat) => ({ d := d, space := [0], write := true, quad := false } : Use)
  let src := fun (code d : Nat) => if code = 8 then [rd d] else []
  match k, sOp w with
  | .c, 0x01 => src (sSrc0 w) (sOpa w) ++ (src (sSrc1 w) (sOpb w)).map (fun u => { u with quad := (sMod w).testBit 2 })
  | .c, 0x10 => src (sSrc0 w) (sOpa w) ++ src (sSrc1 w) (sOpb w)
  | .c, 0x11 => src (sSrc0 w) (sOpa w) ++ src (sSrc1 w) (sOpb w)
  | .c, 0x12 => src (sSrc0 w) (sOpa w) ++ src (sSrc1 w) (sOpb w)
  | .c, 0x13 => src (sSrc0 w) (sOpc w)
  | .c, 0x18 => src (sSrc0 w) (sOpc w)
  | .c, 0x20 => [rd (sOpa w)]
  | .c, 0x21 => [wr (sOpa w)]
  | .m, 0x01 => [rd (sOpa w)]
  | .m, 0x02 => [wr (sOpa w)]
  | .m, 0x03 => [{ rd (sOpa w) with space := [0, 2] }, { wr (sOpb w) with space := [0, 2] }]
  | .p, 0x01 => [{ rd (sOpa w) with space := [1] }]
  | .p, 0x02 => [{ wr (sOpa w) with space := [1] }]
  | .g, 0x01 => [rd (sOpa w)]
  | .g, 0x02 => [rd (sOpa w)]
  | _, n => if 0x30 ≤ n then (src (sSrc0 w) (sOpa w) ++ src (sSrc1 w) (sOpb w)).map (fun u => { u with space := [] }) else []

def Conf.uses (v : Conf) : List Use :=
  (List.range 64).flatMap (fun n => slotUses v.cls (v.slot n)) ++
    (if v.cls = .p then (List.range 8).flatMap (fun n =>
      let w := v.cell.strm n
      if strmValid w then [{ d := strmDesc w, space := [1], write := false, quad := false }] else []) else [])

def Conf.used (v : Conf) (d : Nat) : Bool := v.uses.any (fun u => u.d = d)

/-- Mask entries: those that a descriptor in use names, and those that an entry named by neither a slot nor a mask field names. -/
def Conf.maskEntries (v : Conf) : List Nat :=
  let names := fun (d : Nat) => if (v.cell.desc d).mskEn then [(v.cell.desc d).msk] else []
  let first := (v.uses.filter (fun u => decide (u.d < 128))).flatMap (fun u => names u.d)
  first ++ ((List.range 128).filter (fun d => ! v.used d && ! first.contains d)).flatMap names

/-- Bits of a word that a bucket patch may change, or a session patch. -/
def allowed (k : Cls) (masks : List Nat) (session : Bool) (off : Nat) : Word :=
  if off = 0x00C ∨ off = 0x010 ∨ off = 0x014 then 0xFFFFFFFF#32
  else if 0x400 ≤ off ∧ off < 0x800 then
    match off % 16 / 4 with
    | 0 => 0xFFFF0000#32
    | 1 => 0xFFFFFFFF#32
    | 2 => 0x0000FFFF#32
    | _ => 0
  else if 0x1000 ≤ off ∧ off < 0x2000 then
    if masks.contains ((off - 0x1000) / 32) then 0
    else match off % 32 / 4 with
      | 5 => 0x0001FFFF#32
      | 6 => 0xFFFFFE00#32
      | _ => 0xFFFFFFFF#32
  else if session && k = .g && (off = 0x3008 || off = 0x300C) then 0xFFFFFFFF#32
  else if session && k = .p && decide (0x3010 ≤ off ∧ off < 0x3030) then 0x0000FFFF#32
  else 0

/-- A patch write of a combination. -/
def Program.patchOk (g : Program) (w : PatchWrite) : Bool :=
  match g.siteAt w.x w.y with
  | some v => (w.mask &&& ~~~ allowed (clsOf w.x w.y) (g.conf 0 v).maskEntries false w.off) = 0
  | none => false

/-- A session entry writes a whole 64-bit field. -/
def Program.sessionOk (g : Program) (e : SessionPatch) : Bool :=
  match g.siteAt e.x e.y with
  | some v =>
    let m := (g.conf 0 v).maskEntries
    allowed (clsOf e.x e.y) m true e.off = 0xFFFFFFFF#32 && allowed (clsOf e.x e.y) m true (e.off + 4) = 0xFFFFFFFF#32
  | none => false

/-! ### Check 6: slots (R40, R65, R74, R99, R108, R414) -/

/-- A queue is filled for the cell's slots, or taken from them. -/
def inBound (c : Cell) (q : Nat) : Bool := qDir c q = 1 || qDir c q = 3
def outBound (c : Cell) (q : Nat) : Bool := qDir c q = 2 || qDir c q = 3

/-- R40, apart from the op. -/
def slotFrame (k : Cls) (c : Cell) (w : BitVec 128) : Bool :=
  let src := fun (code : Nat) => code = 0xF || (code = 8 && k ≠ .f) || (code < 8 && inBound c code)
  let acc := decide (k = .c) && sOp w = 0x02
  fld w 99 96 = 0 && fld w 82 80 = 0 && fld w 11 0 = 0 && decide (sFmt w ≤ 9) && (src (sSrc0 w) || (acc && sSrc0 w = 9)) && src (sSrc1 w) &&
    (sCtl w = 0xF || (decide (sCtl w < 8) && inBound c (sCtl w))) && (dstQs w).all (outBound c)

/-- The scale layout of R65 in a field: the binding its queue needs, and a queue that SRC0, SRC1 and DST do not name. -/
def scaleField (w : BitVec 128) (field : Nat) (bound : Nat → Bool) : Bool :=
  let q := field % 8
  field / 8 % 4096 = 0 && (! field.testBit 15 ||
    (decide (3 ≤ sFmt w ∧ sFmt w ≤ 7) && bound q && q ≠ sSrc0 w && q ≠ sSrc1 w && ! (dstQs w).contains q))

/-- A DOT operand: a queue with its scales, or a descriptor. -/
def dotSrc (c : Cell) (w : BitVec 128) (code field : Nat) : Bool :=
  if code = 8 then field < 128 else code < 8 && scaleField w field (inBound c)

def dotOk (c : Cell) (w : BitVec 128) : Bool :=
  let all4 := (sMod w).testBit 2
  decide (1 ≤ sFmt w ∧ sFmt w ≤ 8) && dotSrc c w (sSrc0 w) (sOpa w) && dotSrc c w (sSrc1 w) (sOpb w) && (! all4 || sSrc1 w = 8) &&
    (! (sMod w).testBit 3 || (! all4 && decide (sSrc1 w < 8))) && decide (sOpc w + (if all4 then 3 else 0) ≤ 4095)

/-- A source that is a queue or a descriptor with its index. -/
def srcOrDesc (code ix : Nat) : Bool := code < 8 || (code = 8 && ix < 128)

def vecOk (k : Cls) (w : BitVec 128) : Bool :=
  decide (sFmt w ≤ 2) && (k ≠ .f || (decide (sSrc0 w < 8) && decide (sSrc1 w < 8))) && srcOrDesc (sSrc0 w) (sOpa w) &&
    srcOrDesc (sSrc1 w) (sOpb w)

/-- R73, R74. SCQ needs a binding only where it is read or written, with an MX source or target. -/
def cvtOk (c : Cell) (w : BitVec 128) : Bool :=
  let a := sOpa w
  let mxIn := decide (3 ≤ sMod w ∧ sMod w ≤ 7)
  let mxOut := decide (3 ≤ sFmt w ∧ sFmt w ≤ 7)
  decide (sMod w ≤ 9) && (decide (sMod w = 0) != decide (sFmt w = 0)) && srcOrDesc (sSrc0 w) (sOpc w) &&
    a / 64 % 512 = 0 && ! a.testBit 3 && (a / 16 % 4 = 0 || (sMod w = 0 && sFmt w = 1)) &&
    (if a.testBit 15 then (! mxOut || outBound c (a % 8)) && (! mxIn || inBound c (a % 8)) else ! (5 ≤ sFmt w && sFmt w ≤ 7))

/-- The last accumulator that an ACC_OUT slot reads: OPC steps by 8 in each of REPEAT firings (R40, R47); a slot without limit has none. -/
def accOutFits (w : BitVec 128) : Bool := sRepeat w ≠ 0 && decide (sOpc w + 8 * sRepeat w ≤ 4096)

def slotC (c : Cell) (w : BitVec 128) : Bool :=
  match sOp w with
  | 0x01 => dotOk c w
  | 0x02 => [0, 1, 2, 3, 4, 8, 9].contains (sFmt w) && (sSrc0 w = 9 || sSrc0 w = 15) && sSrc1 w = 15 && accOutFits w
  | 0x03 => decide (sOpc w + sOpb w ≤ 4096)
  | 0x10 => vecOk .c w
  | 0x11 => vecOk .c w
  | 0x12 => vecOk .c w
  | 0x13 => decide (sFmt w ≤ 2) && srcOrDesc (sSrc0 w) (sOpc w)
  | 0x18 => cvtOk c w
  | 0x20 => decide (sOpa w < 128)
  | 0x21 => decide (sSrc0 w < 8) && decide (sOpa w < 128)
  | _ => false

def slotM (w : BitVec 128) : Bool :=
  match sOp w with
  | 0x01 => decide (sOpa w < 128)
  | 0x02 => decide (sSrc0 w < 8) && decide (sOpa w < 128)
  | 0x03 => decide (sSrc0 w < 8) && decide (sOpa w < 128) && decide (sOpb w < 128)
  | _ => false

def slotF (w : BitVec 128) : Bool :=
  let fn := decide (sFmt w = 0) && decide (sSrc0 w < 8)
  match sOp w with
  | 0x08 => vecOk .f w
  | 0x09 => vecOk .f w
  | 0x0A => vecOk .f w
  | 0x10 => fn && decide (1 ≤ sOpb w)
  | 0x11 => fn && decide (1 ≤ sOpb w)
  | 0x12 => fn && decide (1 ≤ sOpb w) && decide (1 ≤ sOpa w ∧ sOpa w ≤ 64)
  | n => decide (1 ≤ n ∧ n ≤ 7) && fn

def slotP (w : BitVec 128) : Bool :=
  match sOp w with
  | 0x01 => decide (sOpa w < 128)
  | 0x02 => decide (sSrc0 w < 8) && decide (sOpa w < 128)
  | _ => false

/-- R108: scale fields of SPAN, PLAN and CHECK. -/
def spanFmt (w : BitVec 128) (field : Nat) : Bool :=
  decide (3 ≤ sFmt w ∧ sFmt w ≤ 8) && (! (5 ≤ sFmt w && sFmt w ≤ 7) || field.testBit 15) && (sFmt w ≠ 8 || ! field.testBit 15)

/-- The ops of R108, with the sources and outputs its table gives them. -/
def slotG (c : Cell) (w : BitVec 128) : Bool :=
  match sOp w, sMod w with
  | 0x01, 0 => decide (1 ≤ sFmt w ∧ sFmt w ≤ 8) && decide (sSrc0 w < 8) && decide (sOpa w < 128) && scaleField w (sOpb w) (outBound c)
  | 0x01, 1 => decide (sSrc0 w = 15) && decide (sOpa w < 128) && spanFmt w (sOpb w) && scaleField w (sOpb w) (outBound c)
  | 0x02, 0 => decide (sSrc0 w < 8) && decide (sDst w = 0) && decide (sOpa w < 128) && decide (3 ≤ sFmt w ∧ sFmt w ≤ 8)
  | 0x02, 1 => decide (sSrc0 w < 8) && decide (sOpa w < 128) && spanFmt w (sOpb w) && scaleField w (sOpb w) (inBound c) &&
      sOpc w / 8 % 4096 = 0 && (! (sOpc w).testBit 15 || outBound c (sOpc w % 8))
  | 0x03, _ => decide (sSrc0 w < 8) && decide (sDst w = 0) && decide (1 ≤ sRepeat w)
  | 0x04, _ => decide (sSrc0 w < 8)
  | _, _ => false

/-- Unused bits of a CMP constant (R414). -/
def cmpBits (fm : Nat) : Nat := if fm = 5 ∨ fm = 6 then 6 else elemBits fm

def slotAny (w : BitVec 128) : Bool :=
  match sOp w with
  | 0x30 => decide (sSrc0 w < 8)
  | 0x31 => decide (sSrc0 w < 8 ∧ sSrc1 w < 8 ∧ sCtl w < 8)
  | 0x32 => decide (sSrc0 w < 8 ∧ sSrc1 w < 8 ∧ sCtl w < 8)
  | 0x33 => decide (sSrc0 w < 8 ∧ sCtl w < 8)
  | 0x34 => true
  | 0x35 => decide (sSrc0 w < 8) && decide ((sOpbc w).toNat < 2 ^ cmpBits (sFmt w))
  | 0x38 => decide (sMod w ≤ 4)
  | _ => false

/-- A slot of a cell is as check 6 asks. -/
def slotOk (k : Cls) (c : Cell) (w : BitVec 128) : Bool :=
  if sOp w = 0 then fld w 99 96 = 0 && fld w 82 80 = 0 && fld w 11 0 = 0
  else slotFrame k c w &&
    (if 0x30 ≤ sOp w then slotAny w
      else match k with
        | .c => slotC c w
        | .m => slotM w
        | .f => slotF w
        | .p => slotP w
        | .g => slotG c w)

def Conf.badSlot (v : Conf) : Option Nat := firstBad 64 (fun n => slotOk v.cls v.cell (v.slot n))

/-! ### Check 6: sights (R216) -/

/-- The sight entries of a C-cell. -/
def Conf.badSight (g : Program) (v : Conf) : Option Nat :=
  let c := v.cell
  let e := fun (k : Nat) => tgetD c.sg.entry k 0
  let rowPatch := fun (d : Nat) => g.masks.any (fun m => m.x = v.site.x && m.y = v.site.y && m.desc = d && m.axis = 0)
  firstBad 4 (fun k =>
    if v.cls ≠ .c || ! sgValid (e k) then true
    else
      let w := v.slot (sgSlot (e k))
      let win := fld (tgetD c.sg.window k 0) 15 0
      let d := sOpb w % 128
      let len := sightLen c w k
      sOp w = 0x01 && (List.range k).all (fun j => ! sgValid (e j) || sgSlot (e j) ≠ sgSlot (e k)) &&
        (if sgQueueMode (e k) then
          decide (sSrc1 w < 8) && decide (2 ≤ sgPeriod (e k) ∧ sgPeriod (e k) ≤ 128) && win % sgPeriod (e k) = 0 && decide (2 ≤ win)
        else sSrc1 w = 8 && ! rowPatch d) &&
        (! (3 ≤ sFmt w && sFmt w ≤ 7) || (if sSrc1 w = 8 then (c.desc d).scEn else (sOpb w).testBit 15)) &&
        (sRepeat w = 0 || (len ≠ 0 && sRepeat w * sightPer c w k % len = 0)))

/-! ### Check 6: paired programs (R222, R223) -/

/-- The place of a site of copy A in copy B. -/
def Program.across (g : Program) (x y : Nat) : Nat × Nat := (((x : Int) + 48 * g.dfx).toNat, ((y : Int) + 48 * g.dfy).toNat)

/-- A spill base in copy B stands at the translated M-cell. -/
def Program.acrossAddr (g : Program) (a : Dword) : Dword :=
  let v := g.across (fld a 57 48) (fld a 47 38)
  setFld (setFld a 57 48 v.1) 47 38 v.2

/-- Two configured cells are the same after translation. -/
def Program.sameCell (g : Program) (a b : Cell) : Bool :=
  { a with gc := { a.gc with spillBase := if a.gc.spillBase = 0 then 0 else g.acrossAddr a.gc.spillBase } } = b

def Program.isB (g : Program) (x y : Nat) : Bool := g.copyB 144 x y

/-- Fields of the cells and routers of one copy. -/
def Program.copyFields (g : Program) (b : Bool) : List Nat :=
  dedup ((g.sites.map (fun v => (v.x, v.y)) ++ g.routing.map (fun v => (v.x, v.y))).filterMap (fun v =>
    if g.isB v.1 v.2 = b then some (fieldOf v.1 v.2) else none))

/-- Congruence of the copies: cells, routers, sync words; a tower range lies in the towers of one of the copies. In part DEDUCED, log 26. -/
def Program.congruent (g : Program) : Bool :=
  let ka := g.sites.filter (fun v => ! g.isB v.x v.y)
  let kb := g.sites.filter (fun v => g.isB v.x v.y)
  let combs := List.range (max 1 g.patches.length)
  let inB := fun (x y : Nat) => g.isB x y
  let route := fun (x y : Nat) => (g.routing.find? (fun r => r.x = x && r.y = y)).map (fun r => (r.wheel, r.lanes))
  let ra := g.routing.filter (fun r => ! inB r.x r.y)
  let rb := g.routing.filter (fun r => inB r.x r.y)
  (g.dfx ≠ 0 || g.dfy ≠ 0) && ka.length = kb.length &&
    ka.all (fun v =>
      let u := g.across v.x v.y
      match g.siteAt u.1 u.2 with
      | some w => inB u.1 u.2 && combs.all (fun k => g.sameCell (g.conf k v).cell (g.conf k w).cell) &&
          route v.x v.y = route u.1 u.2
      | none => false) &&
    ra.length = rb.length && ra.all (fun r => let u := g.across r.x r.y; inB u.1 u.2 && route r.x r.y = route u.1 u.2) &&
    (g.buffers.filter (fun b => b.kind < 2)).all (fun b =>
      (g.copyFields false).contains (fld b.addr 47 40) || (g.copyFields true).contains (fld b.addr 47 40)) &&
    g.syncUse.all (fun e => decide (e.j < 32) != inB e.x e.y)

/-- Accumulators that the firings of a DOT slot can reach. -/
def dotAccs (c : Cell) (w : BitVec 128) : List Nat :=
  let d := c.desc (sOpb w % 128)
  let a := c.desc (sOpa w % 128)
  let by_ := fun (d : Desc) => (List.range d.t1n).flatMap (fun t => (List.range d.rows).map (fun r => sOpc w + r + t * d.accStep))
  if sSrc1 w = 8 && d.accEn then by_ d
  else if sSrc0 w = 8 && a.accEn then by_ a
  else if (sMod w).testBit 2 then span (sOpc w) 4 else [sOpc w]

/-- Every accumulator receives firings of one DOT slot only. -/
def Conf.accsApart (v : Conf) : Bool :=
  let ds := ((List.range 64).filter (fun n => sOp (v.slot n) = 0x01 && bitB v.cell.slotEn n)).map (fun n => dotAccs v.cell (v.slot n))
  let rec apart : List (List Nat) → Bool
    | [] => true
    | a :: t => t.all (fun b => b.all (fun i => ! a.contains i)) && apart t
  v.cls ≠ .c || apart ds

/-- Every join has at most two inputs. -/
def joinsSmall (r : RouteCfg) : Bool := (List.range 32).all (fun o => decide ((r.valid.filter (fun e => lmOut e.2 = o)).length ≤ 2))

def Program.pairCheck (g : Program) (l : List Conf) : Option LoadErr :=
  if g.mode ≠ 2 then none
  else (must g.congruent loadFormat).or <| (mustAt g.routing (fun r => (r.x, r.y)) joinsSmall loadFormat).or
    (mustConf l (fun v => if v.accsApart then none else some 0) loadFormat)

/-- In part DEDUCED, log 26. -/
def Program.check6 (g : Program) (l : List Conf) : Option LoadErr :=
  let combs := (List.range (max 1 g.patches.length)).findSome? (fun k =>
    ((mustEach (lgetD g.patches k []) (fun w => (w.x, w.y)) g.patchOk loadFormat).map (fun e => { e with comb := k })).or
      (mustConf (l.filter (fun v => v.comb = k)) (fun v => v.badSlot.or (v.badSight g)) loadFormat))
  (mustIn g.routing (fun r => (r.x, r.y)) g.badRouter loadFormat).or <|
  (mustIn g.sites (fun v => (v.x, v.y)) g.badQueue loadFormat).or <|
  combs.or <| (mustEach g.session (fun e => (e.x, e.y)) g.sessionOk loadFormat).or (g.pairCheck l)

/-! ### Check 7 -/

/-- Axes, dimensions and origins of a descriptor's mask patches. -/
def Program.axes (g : Program) (x y d : Nat) : List (Nat × Nat × Nat) :=
  (g.masks.filter (fun e => e.x = x && e.y = y && e.desc = d)).map (fun e => (e.axis, e.dim, e.origin))

/-- What any descriptor entry meets. -/
def descForm (w : BitVec 256) : Bool :=
  let d := Desc.of w
  fld w 244 244 = 0 && fld w 164 160 = 0 && decide (d.fmt ≤ 9) && (! d.scEn || decide (3 ≤ d.fmt ∧ d.fmt ≤ 7))

/-- Two descriptors of a DMA (R415). -/
def dmaPair (c : Cell) (w : BitVec 128) : Bool :=
  let a := c.desc (sOpa w)
  let b := c.desc (sOpb w)
  a.fmt = b.fmt && a.rows = b.rows && a.cols = b.cols

def Conf.badDesc (g : Program) (v : Conf) : Option Nat :=
  let us := v.uses
  let ms := v.maskEntries
  firstBad 128 (fun d =>
    let w := v.cell.descWord d
    let e := Desc.of w
    let mine := us.filter (fun u => u.d = d)
    if mine = [] then ms.contains d || descForm w
    else
      descForm w && fld w 249 248 ≤ 1 && mine.all (fun u => u.space.contains e.space && (! e.quad || u.quad) &&
        ! (u.write && e.space ≠ 0 && decide (5 ≤ e.fmt ∧ e.fmt ≤ 7))) &&
      (! e.mskEn || (! v.used e.msk && us.all (fun u =>
        let o := v.cell.desc u.d
        ! o.mskEn || o.msk ≠ e.msk || g.axes v.site.x v.site.y u.d = g.axes v.site.x v.site.y d))))

def Conf.badDma (v : Conf) : Option Nat :=
  if v.cls = .m then firstBad 64 (fun n => sOp (v.slot n) ≠ 0x03 || dmaPair v.cell (v.slot n)) else none

def Program.check7 (g : Program) (l : List Conf) : Option LoadErr := mustConf l (fun v => (v.badDesc g).or v.badDma) loadFormat

/-! ### Checks 8 and 9 -/

/-- An extension ring in bytes. -/
def extOf (c : Cell) (n : Nat) : Nat × Nat :=
  let w := tgetD c.qext n 0
  (1024 * fld w 25 16, 1024 * fld w 6 0)

/-- Two ranges, start and size, share a byte; an empty one shares none. -/
def rangesMeet (a b : Nat × Nat) : Bool := a.2 ≠ 0 && b.2 ≠ 0 && decide (a.1 < b.1 + b.2) && decide (b.1 < a.1 + a.2)

/-- Retained regions that the program declares in a cell. -/
def Program.regions (g : Program) (x y : Nat) : List (Nat × Nat) :=
  (g.buffers.filter (fun b => b.kind = 2 && b.cellRange.1 = x && b.cellRange.2.1 = y)).map (fun b => (b.cellRange.2.2.1, b.size))

def Conf.badExt (g : Program) (v : Conf) : Option Nat :=
  let c := v.cell
  let total := ((List.range 8).map (fun n => (extOf c n).2)).sum
  firstBad 8 (fun n =>
    let e := extOf c n
    e.2 = 0 || (decide (e.2 ≤ 64 * 1024) && v.cls ≠ .f && v.cls ≠ .p && (v.cls ≠ .g || decide (total ≤ 32 * 1024)) && qDir c n ≠ 0 &&
      decide (e.1 + e.2 ≤ storeSize v.cls) && (List.range n).all (fun m => ! rangesMeet e (extOf c m)) &&
      (g.regions v.site.x v.site.y).all (fun r => ! rangesMeet e r)))

def Program.check8 (g : Program) (l : List Conf) : Option LoadErr :=
  mustConf (l.filter (fun v => v.comb = 0)) (fun v => v.badExt g) loadQueueExtension

/-- A descriptor in use, outside LOCAL, starts its rows and tiles on granules. -/
def Conf.badAlign (v : Conf) : Option Nat :=
  firstBad 128 (fun d =>
    let e := v.cell.desc d
    ! v.used d || e.space = 0 || (e.base % 64 = 0 && e.rowStride % 64 = 0 && e.t0Stride % 64 = 0 && e.t1Stride % 64 = 0))

def Program.check9 (g : Program) (l : List Conf) : Option LoadErr :=
  (mustConf l Conf.badAlign loadAlignment).or
    (mustEach g.buffers (fun _ => (0, 0)) (fun b => b.kind = 3 || b.addr.toNat % 32 = 0) loadAlignment)

/-! ### Check 10 -/

/-- One past the last byte of a walk with every tile live, from BASE. -/
def Desc.walkEnd (d : Desc) : Nat :=
  (d.t1n - 1) * d.t1Stride + (d.t0n - 1) * d.t0Stride + (d.rows - 1) * d.rowStride + d.ipr * isz d.fmt

/-- One past the last scale byte, from BASE (R90). -/
def Desc.scaleEnd (d : Desc) : Nat := if d.scEn then d.scOff + d.t1n * d.t0n * d.rows * d.bpr else 0

def spaceSize (k : Cls) (space : Nat) : Nat :=
  match space with
  | 0 => storeSize k
  | 1 => 128 * 2 ^ 20
  | _ => 512 * 2 ^ 20

/-- A descriptor in use. -/
def Conf.badSize (v : Conf) : Option Nat :=
  firstBad 128 (fun d =>
    let e := v.cell.desc d
    ! v.used d || (decide (e.base + e.bound ≤ spaceSize v.cls e.space) &&
      decide (e.walkEnd ≤ e.bound) && decide (e.scaleEnd ≤ e.bound)))

/-- The spill region of a G-cell that adds into its hash accumulator (R128). -/
def State.badSpill (s : State) (p : Nat) (g : Program) (v : Conf) : Option Nat :=
  let adds := (List.range 64).filter (fun n => sOp (v.slot n) = 0x03)
  let c := v.cell.gc
  let a := c.spillBase
  let x := fld a 57 48
  let y := fld a 47 38
  let r := (fld a 18 6 * 64, 16 * c.spillCap.toNat)
  if v.cls ≠ .g || adds = [] then none
  else
    let ok := decide (((adds.map (fun n => sRepeat (v.slot n))).sum) ≤ c.spillCap.toNat) && fld a 63 62 = s.myMod && fld a 61 58 = 0 &&
      fld a 37 19 = 0 && siteOk x y && decide (clsOf x y = .m) && inRect (s.part p).rect (fieldOf x y) &&
      decide (r.1 + r.2 ≤ storeSize .m) && (g.regions x y).all (fun q => ! rangesMeet r q) &&
      (match g.siteAt x y with
        | some w => (List.range 8).all (fun n => ! rangesMeet r (extOf (g.conf 0 w).cell n) || (extOf (g.conf 0 w).cell n).2 = 0)
        | none => true)
    if ok then none else some (adds.headD 0)

/-- The output declared by a paired program fits the bridge's digest store (R224). -/
def Program.pairedOut (g : Program) : Bool :=
  g.mode ≠ 2 || decide (((g.buffers.filter (fun b => b.kind = 3)).map (·.size)).sum ≤ 2 ^ 20)

/-- In part DEDUCED, log 26. -/
def State.check10 (s : State) (p : Nat) (g : Program) (l : List Conf) : Option LoadErr :=
  (mustConf l (fun v => v.badSize.or (s.badSpill p g v)) loadBufferSize).or (must g.pairedOut loadBufferSize)

/-! ### Check 11 -/

/-- A DOT through a descriptor with ACC_EN stays inside the accumulator store. In part DEDUCED, log 26. -/
def Conf.badAcc (v : Conf) : Option Nat :=
  let fits := fun (w : BitVec 128) (d : Desc) => ! d.accEn || decide (sOpc w + (d.rows - 1) + (d.t1n - 1) * d.accStep ≤ 4095)
  if v.cls ≠ .c then none
  else firstBad 64 (fun n =>
    let w := v.slot n
    sOp w ≠ 0x01 || ((sSrc0 w ≠ 8 || fits w (v.cell.desc (sOpa w))) && (sSrc1 w ≠ 8 || fits w (v.cell.desc (sOpb w)))))

def Program.check11 (l : List Conf) : Option LoadErr := mustConf l Conf.badAcc loadAccumCapacity

/-! ### The whole load -/

/-- The save area [S, S + Z) of every tower of the partition: in memory, and apart from the program's ranges and other save areas
(R244). A withdrawn tower is none of the partition's (R19). -/
def State.saveOk (s : State) (p slot save : Nat) (g : Program) : Bool :=
  let area := (save, g.saveSize)
  let q := s.part p
  g.saveSize = 0 || (decide (save + g.saveSize ≤ 2 ^ 33) &&
    (g.buffers.filter (fun b => decide (b.kind < 2))).all (fun b => ! rangesMeet area (fld b.addr 32 0, b.size)) &&
    q.programs.all (fun e => e.1 = slot || ! rangesMeet area (e.2.save, e.2.prog.saveSize)))

/-- Check 2: the measurement in the header, and the one in the command when MEAS_EN is 1. -/
def measureOk (image : List Byte) (expect : Option (List Byte)) : Bool :=
  match imageHead image with
  | some h => measureOf image h.sigOff = h.measurement && (match expect with
      | some m => h.measurement = m
      | none => true)
  | none => false

/-- The signature of a signed image (R391). In part DEDUCED, log 26. -/
def signatureOk (image : List Byte) : Bool :=
  match imageHead image with
  | some h => h.flags % 2 = 0 || programSig image h.sigOff
  | none => false

/-- Every check of PROGRAM_LOAD, in order. In part DEDUCED, log 26. -/
def State.load (s : State) (p slot save : Nat) (expect : Option (List Byte)) (image : List Byte) : Except LoadErr Program :=
  match parseProgram image with
  | none => .error (LoadErr.bare loadFormat)
  | some r =>
    let g := r.prog
    let l := g.confs
    let bad :=
      (must (measureOk image expect) loadMeasurement).or <| (must (signatureOk image) secImageSignature).or <|
      (must (! (s.part p).pairReq || g.mode = 2) loadFormat).or <|
      (s.check3 p g).or <| (s.check4 p g l).or <| (g.check5 r.count).or <| (g.check6 l).or <| (g.check7 l).or <| (g.check8 l).or <|
      (g.check9 l).or <| (s.check10 p g l).or <| (Program.check11 l).or <|
      must (s.saveOk p slot save g) loadRange
    match bad with
    | some e => .error e
    | none => .ok g

end Sys2Proof.Machine
end

