-- ==== Sys2Proof/Machine/Logbook.lean ====
section
/-!
DEFINITION. The Logbook: records as bytes (R367), the logger's write (R369, R373), renewal of overflow fences (R373), the wall-time
mark and the window's counter registers (R371, R372).
-/
namespace Sys2Proof.Machine

/-! ### Records as bytes (R367) -/

def Origin.code : Origin → Nat
  | .logger => 0
  | .firmware => 1
  | .bootRom => 2

/-- Bytes 0-59. -/
def LogRec.front (r : LogRec) : List Byte :=
  leBytes 8 r.seq ++ leBytes 8 r.mono ++ leBytes 8 r.wall ++ leBytes 2 r.type ++ leBytes 2 r.code.toNat ++ leBytes 1 r.origin.code ++
    leBytes 1 r.flags ++ leBytes 2 r.field ++ wordBytes r.site ++ leBytes 4 r.index ++ leBytes 8 r.addr.toNat ++ padTo 12 r.detail

def LogRec.bytes (r : LogRec) : List Byte := r.front ++ leBytes 4 (crc32 r.front)

/-! ### The logger's write (R369, R373) -/

def ringPlaces : Nat := 65472

/-- A FENCE record with KEEP = 1. -/
def LogRec.kept (r : LogRec) : Bool := r.type = 0x10 && r.flags / 8 % 2 = 1

/-- The next record may be written: below the limit of LOG_KEEP, or a renewal in the place of an earlier copy for its site. In part DEDUCED, log 44. -/
def Logbook.may (l : Logbook) (r : LogRec) : Bool :=
  match l.keep with
  | none => true
  | some k => decide (l.count < k + ringPlaces) ||
      (r.kept && (l.ring.find? (fun o => o.seq + ringPlaces = l.count)).any (fun o => o.type = 0x10 && o.site = r.site))

/-- The newest copies of overflow fences after one is written. -/
def Logbook.noteCopy (l : Logbook) (r : LogRec) : Logbook :=
  if ! r.kept then l
  else
    let e := fenceEntry r.defect
    let copies := (l.overflow.filter (fun c => c.2 ≠ e)) ++ [(r.seq, e)]
    { l with overflow := copies, keep := (copies.map (·.1)).min? }

/-- A place in the queue frees: the record that has waited longest takes it, or one LOST record. -/
def Logbook.refill (l : Logbook) (mono : Nat) : Logbook :=
  match l.waiting with
  | (r, _) :: rest => ({ l with waiting := rest } : Logbook).accept mono r
  | [] => if l.dropped = 0 then l
      else ({ l with dropped := 0 } : Logbook).accept mono { recOf 0x04 .logger with index := l.dropped }

/-- A record that could not be kept. -/
def Logbook.loseOne (l : Logbook) : Logbook := { l with dropped := l.dropped + 1, lost := satInc l.lost }

/-- A record takes the next SEQ and its place in the ring. -/
def Logbook.put (l : Logbook) (r : LogRec) : Logbook :=
  let w := { r with seq := l.count }
  ({ l with ring := (w :: l.ring).take ringPlaces, count := l.count + 1 } : Logbook).noteCopy w

/-- One write: the head of the queue; a hardware event at the limit is dropped, and a record held there lets a renewal pass. In part DEDUCED, log 44. -/
def Logbook.writeOne (l : Logbook) (mono : Nat) : Logbook :=
  match l.queue with
  | [] => l
  | r :: rest =>
    if l.may r then (({ l with queue := rest } : Logbook).put r).refill mono
    else if r.origin = .logger then (({ l with queue := rest } : Logbook).loseOne).refill mono
    else match takeFirst (fun q => q.kept && l.may q) l.queue with
      | some (q, others) => (({ l with queue := others } : Logbook).put q).refill mono
      | none => l

/-- LOG_RECORD_WRITE: at most one record in 2 µs. -/
def execLogRecordWrite (s : State) : Res :=
  let l := s.helm.log
  if l.stopped || (decide (s.cycle < l.lastWrite + 2 * usec) && decide (l.lastWrite ≠ 0)) then .next s
  else .next (s.onLog (fun l => { l.writeOne s.mono with lastWrite := if l.queue = [] then l.lastWrite else s.cycle }))

/-- BOOT_ROM_RECORD_DROP: a boot-ROM record has waited 10 ms, 328 periods of the slow oscillator, at the limit. In part DEDUCED, log 44. -/
def Logbook.dropRom (l : Logbook) (mono : Nat) : Logbook :=
  match l.queue with
  | [] => l
  | r :: rest =>
    if r.origin = .bootRom && ! l.may r && decide (r.mono + 328 ≤ mono) then (({ l with queue := rest } : Logbook).loseOne).refill mono else l

def execBootRomRecordDrop (s : State) : Res := .next (s.onLog (fun l => if l.stopped then l else l.dropRom s.mono))

/-! ### Renewal (R373) -/

/-- An overflow fence is written again. -/
def State.renew (s : State) (e : Word) : State := s.fwLog (fenceRec (defectOf e) true)

/-- A renewal of the fence is already on its way. -/
def Logbook.renewing (l : Logbook) (e : Word) : Bool := (l.queue ++ l.waiting.map (·.1)).any (fun r => r.kept && fenceEntry r.defect = e)

/-- FENCE_RENEWAL: the oldest copy that has fallen 32,768 records behind. -/
def execFenceRenewal (s : State) : Res :=
  let l := s.helm.log
  let due := l.overflow.filter (fun c => decide (c.1 + 32768 ≤ l.count) && ! l.renewing c.2)
  match due with
  | [] => .next s
  | c :: t => if s.helm.fw.running then .next (s.renew (t.foldl (fun a b => if b.1 < a.1 then b else a) c).2) else .next s

/-- Every overflow fence is written again, oldest first (HELM_VERIFY). -/
def State.renewAll (s : State) : State :=
  (sortBy (fun a b => decide (a.1 ≤ b.1)) s.helm.log.overflow).foldl (fun s c => s.renew c.2) s

/-! ### The window (R371, R372) -/

/-- The 64-bit value behind a pair of registers, named by its low offset. -/
def State.logPair (s : State) (off : Nat) : Nat :=
  match off with
  | 0x08 => s.helm.log.count
  | 0x10 => s.helm.log.wall
  | 0x18 => s.mono
  | 0x28 => s.helm.log.keep.getD (2 ^ 64 - 1)
  | _ => 0

/-- A 32-bit register of the window as site `h` reads it; a HI reads what its LO has captured for that site. -/
def State.logReg (s : State) (h off : Nat) : Word :=
  match off with
  | 0x00 => 1
  | 0x20 => s.helm.log.lost
  | 0x24 => word s.helm.log.fences.length
  | _ =>
    if off % 8 = 0 then word (s.logPair off)
    else (tget s.helm.log.capture (64 * h + off)).getD (word (s.logPair (off - 4) / 2 ^ 32))

/-- LOG_LO_READ. In part DEDUCED, log 44. -/
def execLogLoRead (s off : Nat) (st : State) : Res :=
  if ! [0x08, 0x10, 0x18, 0x28].contains off then .fault .noSuchPart
  else st.onSite s (fun st =>
    if ! (st.bridge s).clocked 2 then st.onBridge s (fun b => { b.gatedHit 2 with lastRead := zeros 4 })
    else
      let hi := word (st.logPair off / 2 ^ 32)
      (st.onLog (fun l => { l with capture := tset l.capture (64 * s + off + 4) hi })).onBridge s (fun b =>
        { b with lastRead := wordBytes (st.logReg s off) }))

/-- LOG_WALL_LO_WRITE. -/
def execLogWallLoWrite (s : Nat) (v : Word) (st : State) : Res :=
  st.onSite s (fun st =>
    if ! (st.bridge s).clocked 2 then st.onBridge s (fun b => b.gatedHit 2)
    else st.onLog (fun l => { l with heldLo := tset l.heldLo s v }))

/-- LOG_WALL_HI_WRITE: the whole mark, and a WALL_MARK record. -/
def execLogWallHiWrite (s : Nat) (v : Word) (st : State) : Res :=
  st.onSite s (fun st =>
    if ! (st.bridge s).clocked 2 then st.onBridge s (fun b => b.gatedHit 2)
    else
      (st.onLog (fun l => { l with wall := (join32 v (tgetD l.heldLo s 0)).toNat, wallOk := true })).hwLog
        { recOf 0x03 .logger with index := s })

end Sys2Proof.Machine
end

