-- ==== Sys2Proof/Machine/Reports.lean ====
section
/-!
DEFINITION. What firmware writes into a host buffer on request: QUERY_INFO (R277), FIX_FETCH (R231, R276), ATTEST (R376, R392), LOG_READ
(R374), COUNTERS_READ (R238, R276) and LINK_STATUS (R311).
-/
namespace Sys2Proof.Machine

/-! ### Answers -/

/-- The data goes to the command's buffer under the checks of R274, and the command completes. -/
def State.answer (s : State) (h : Nat) (c : MbxCmd) (buf len : Nat) (data body : List Byte) : State :=
  let code := bufCheck (s.bridge h) buf len data.length
  if code = codeOk then (s.onBridge h (fun b => if data = [] then b else b.post buf data)).completeCmd h c codeOk body
  else s.completeCmd h c code []

/-- BYTES of a completion. -/
def bytesBody (data : List Byte) : List Byte := leBytes 4 data.length

/-- A refusal without a body. -/
def State.refuse (s : State) (h : Nat) (c : MbxCmd) (code : Code) : State := s.completeCmd h c code []

/-! ### QUERY_INFO -/

def protocolVersion : Nat := 1

/-- Some class is below its minimum (R15). -/
def State.belowMinimum (s : State) : Bool := classes.any (fun k => decide (s.usable k < minimumOf k))

/-- Channels in paired service: field index × 64 + channel, ascending (R18). -/
def State.pairedChannels (s : State) : List Nat :=
  (List.range 144).flatMap (fun f =>
    ((List.range 64).filter (fun c => s.chanOut f c != s.chanOut f (Nat.xor c 1))).map (fun c => 64 * f + c))

/-- Intact homes of the module (R166). -/
def State.intactHomes (s : State) : Nat :=
  ((List.range 144).flatMap (fun f => (List.range 8).filter (fun r => s.intact f r))).length

/-- The scrub period in hours (R184). -/
def scrubHours : Nat := 12

/-- The module's summary for a host site. -/
def State.infoModule (s : State) (h : Nat) : List Byte :=
  let w := s.helm.fw
  let used := fun (k : Cls) => leBytes 4 (s.usable k)
  padTo 128 (wordBytes deviceId ++ [Config.helmStepping, Config.bridgeStepping] ++ leBytes 2 w.major ++ leBytes 2 w.minor ++
    leBytes 2 ((s.bridge h).version.getD 0) ++ leBytes 2 1 ++ leBytes 2 protocolVersion ++ used .c ++ used .m ++ used .f ++ used .g ++
    used .p ++ leBytes 4 (b2n s.belowMinimum + 2 * b2n s.helm.clocks.drSet + 4 * b2n (s.fields.any (fun f => f.2.withdrawn))) ++
    leBytes 2 scrubHours ++ leBytes 2 s.intactHomes ++ leBytes 2 s.pairedChannels.length ++ zeros 2 ++ leBytes 8 (s.hdmSize h) ++
    leBytes 4 ((List.range 1024).filter (fun n => (s.session n).state = 0)).length)

/-- The 64-byte context (R247). -/
def State.infoSession (s : State) (v : Session) : List Byte :=
  leBytes 1 (s.sessionState v) ++ leBytes 1 v.part ++ leBytes 1 v.program ++ leBytes 1 v.priority ++ leBytes 4 v.deadline ++
    leBytes 2 v.chunk ++ zeros 2 ++ leBytes 4 v.runs ++ leBytes 8 v.kvBase ++ leBytes 8 v.kvSize ++ leBytes 8 v.histBase ++
    leBytes 8 v.histSize ++ leBytes 8 v.lastRun ++ zeros 8

def State.infoPart (s : State) (p : Nat) : List Byte :=
  let q := s.part p
  wordBytes q.rect ++ leBytes 1 q.floor ++ leBytes 1 (b2n q.pairReq) ++
    leBytes 1 ((q.programs.map (fun e => 2 ^ e.1)).sum) ++ leBytes 1 (q.activeSlot.getD 0xFF)

def State.queryInfo (s : State) (h : Nat) (c : MbxCmd) : State :=
  let b := c.body
  let put := fun (d : List Byte) => s.answer h c (leAt b 8 8) (leAt b 16 4) d (bytesBody d)
  match byteAt b 0 with
  | 0 => put (s.infoModule h)
  | 1 => if 1024 ≤ leAt b 2 2 then s.refuse h c loadRange else put (s.infoSession (s.session (leAt b 2 2)))
  | 2 => put (s.pairedChannels.flatMap (leBytes 2))
  | _ => put ((List.range 4).flatMap s.infoPart)

/-! ### FIX_FETCH -/

/-- The chain that FIX_FETCH reads: the partition's, or, while that one has no record, the one that ended last. DESIGN CHOICE, log 59. -/
def Partition.fetched (q : Partition) : EndedChain :=
  match q.records, q.ended with
  | [], v :: _ => v
  | _, _ => { records := q.records, seals := q.seals }

/-- Records FIRST_SEQ onward, then the seals that reach the last of them. In part DEDUCED, log 25. -/
def State.fixFetch (s : State) (h : Nat) (c : MbxCmd) : State :=
  let b := c.body
  let q := (s.part h).fetched
  let first := leAt b 0 8
  let recs := q.records.reverse.filter (fun r => decide (first ≤ r.seq) && decide (r.seq < first + leAt b 8 4))
  let last := ((recs.reverse.head?).map (·.seq)).getD first
  let old := q.seals.reverse.filter (fun v => decide (first ≤ v.seq))
  let seals := if byteAt b 12 = 0 then [] else
    old.filter (fun v => decide (v.seq < last)) ++ (old.filter (fun v => decide (last ≤ v.seq))).take 1
  s.answer h c (leAt b 16 8) (leAt b 24 4) (recs.flatMap FixRec.bytes ++ seals.flatMap Seal.bytes)
    (leBytes 4 recs.length ++ leBytes 4 seals.length)

/-! ### ATTEST -/

/-- The attestation key statement without its signature, which the identity key made at the draw after the key's (R376). -/
def Firmware.statementBody (w : Firmware) : List Byte :=
  leBytes 2 1 ++ zeros 6 ++ leBytes 8 w.keyMono ++ attKey w.keyDraw ++ zeros 3 ++ padTo 64 w.measurement ++ leBytes 2 w.svn ++ zeros 6

def Firmware.statement (w : Firmware) : List Byte := w.statementBody ++ signature Config.identityKey (w.keyDraw + 1) w.statementBody

/-- Entries in force, in the table layout, in ascending field index, then y, then x. -/
def State.fenceList (s : State) : List Byte :=
  (sortBy (fun (a b : Defect) => decide (siteKey a.1 a.2.1 ≤ siteKey b.1 b.2.1)) s.helm.defects).flatMap (fun d => wordBytes (fenceEntry d))

/-- The measurement of a partition's active program. -/
def State.activeMeasurement (s : State) (p : Nat) : List Byte :=
  match (s.part p).activeSlot with
  | some k => padTo 64 (((s.program p k).map (·.measurement)).getD [])
  | none => zeros 64

/-- Bytes 0-611 of the report (R392). -/
def State.reportBody (s : State) (h : Nat) (nonce : List Byte) : List Byte :=
  let w := s.helm.fw
  leBytes 2 1 ++ zeros 2 ++ leBytes 4 (1104 + Config.certificate.length) ++ wordBytes deviceId ++
    [Config.helmStepping, Config.bridgeStepping] ++ leBytes 1 h ++
    leBytes 1 (b2n s.helm.clocks.drSet + 2 * b2n s.belowMinimum + 4 * b2n Config.jtagOpen) ++ leBytes 2 w.svn ++
    leBytes 2 s.helm.otp.rollback ++ leBytes 8 s.mono ++ leBytes 8 (if s.helm.log.wallOk then s.helm.log.wall else 0) ++ padTo 64 nonce ++
    padTo 64 w.measurement ++ (List.range 4).flatMap s.activeMeasurement ++
    (List.range 4).flatMap (fun p => if partExists (s.part p) then padTo 32 (s.part p).chainId else zeros 32) ++ sha512 s.fenceList

def State.attest (s : State) (h : Nat) (c : MbxCmd) : State :=
  let b := c.body
  let body := s.reportBody h (b.take 64)
  let d := body ++ signature (Config.attestationKey s.helm.fw.keyDraw) s.fresh body ++ s.helm.fw.statement ++ leBytes 4 Config.certificate.length ++ Config.certificate
  (s.answer h c (leAt b 64 8) (leAt b 72 4) d (bytesBody d)).draw

/-! ### LOG_READ -/

/-- Records from FIRST to FIRST + COUNT - 1, ascending (R374). -/
def Logbook.readFrom (l : Logbook) (first n : Nat) : List Byte :=
  (l.ring.reverse.filter (fun r => decide (first ≤ r.seq) && decide (r.seq < first + n))).flatMap LogRec.bytes

/-- One section of a dump. In part DESIGN CHOICE, log 15. -/
def scanSection (x y region : Nat) (data : List Byte) : List Byte :=
  leBytes 2 x ++ leBytes 2 y ++ leBytes 1 region ++ zeros 3 ++ leBytes 4 data.length ++ zeros 4 ++ padTo ((data.length + 15) / 16 * 16) data

/-- The hardware entries of a queue. The spec does not say where the oldest stands; its index and the bytes of free entries are free
values of a draw. -/
def scanQueue (c : Cell) (draw q : Nat) : List Byte :=
  let v := c.queue q
  let hd := (Config.unstated draw (16 * q)).toNat % 16
  leBytes 4 hd ++ leBytes 4 v.occ ++ (List.range 16).flatMap (fun i =>
    match v.hw[(i + 16 - hd) % 16]? with
    | some it => itemBytes it.data
    | none => (List.range 32).map (fun k => (Config.unstated draw (1000 + 512 * q + 32 * i + k)).setWidth 8))

/-- Stream-buffer lines as they are held; the rest of the buffers holds free values. -/
def scanLines (c : Cell) (draw : Nat) : List Byte :=
  let l := c.pc.lines.flatMap (fun v => padTo 256 v.data)
  (l ++ (List.range (65536 - l.length)).map (fun k => (Config.unstated draw (10000 + k)).setWidth 8)).take 65536

def State.scanRegs (s : State) (rd : State → Nat → Word) (n : Nat) : List Byte := (List.range (n / 4)).flatMap (fun k => wordBytes (rd s (4 * k)))

/-- What region 6 shows: walk positions, remaining REPEAT counts, the flag word, scale byte positions, span state. -/
def scanHidden (c : Cell) : List Nat :=
  (List.range 128).map c.walkPos ++ (List.range 64).flatMap (fun n => [(c.run n).left, (c.run n).sc0, (c.run n).sc1]) ++ [c.aflags.toNat] ++
    c.gc.spans.flatMap (fun p => [p.num, p.desc, p.slot, p.base, p.gstride, p.hist, p.layer, p.groups, p.rows, p.fmt, b2n p.mx, b2n p.planned,
      p.fetched.toNat, p.live.toNat, p.checked, p.misses, p.emitted] ++ (List.range 64).map (fun g => tgetD p.missing g 0))

/-- The regions of one site; a fenced body gives regions 1 and 2 only. How region 6 lays out what it shows is free. In part DESIGN CHOICE,
log 15. -/
def State.scanSite (s : State) (x y : Nat) : List (List Byte) :=
  let c := s.cell x y
  let k := clsOf x y
  let out := s.bodyOut x y
  let router := scanSection x y 1 (s.scanRegs (fun s o => s.readRouter x y o) 4096)
  let engine := scanSection x y 2 (s.scanRegs (fun s o =>
    if 0xC0 ≤ o then (if s.mcActive x y then s.readMc x y o else 0) else s.readEngine x y o) 256)
  if out then [router, engine]
  else
    [scanSection x y 0 (s.scanRegs (fun _ o => c.readStore k x y o) 8192), router, engine,
      scanSection x y 3 ((List.range 8).flatMap (scanQueue c s.fresh))] ++
    (match k with
      | .c => [scanSection x y 4 ((List.range 4096).flatMap (fun i => wordBytes (c.accAt i)))]
      | .g => [scanSection x y 4 ((List.range 4096).flatMap (fun i => leBytes 16 (tgetD c.gc.hash i 0).toNat))]
      | _ => []) ++
    (match k with
      | .f => []
      | .p => [scanSection x y 5 (scanLines c s.fresh)]
      | _ => [scanSection x y 5 (c.data.read 0 (storeSize k))]) ++
    [scanSection x y 6 ((List.range 256).map (Config.scanByte (scanHidden c)))]

/-- The dump of a field; what is not powered, or not reached over the service network (R28), gives no section. In part DESIGN CHOICE,
log 15. -/
def State.scanField (s : State) (f : Nat) : List Byte :=
  let secs := if (s.field f).rails && s.svcUp f then (fieldSites f).flatMap (fun v => s.scanSite v.1 v.2) else []
  leBytes 2 1 ++ leBytes 1 f ++ zeros 5 ++ leBytes 8 s.mono ++ leBytes 8 s.mono ++ leBytes 4 secs.length ++ zeros 36 ++ secs.flatten

def State.readLog (s : State) (h : Nat) (c : MbxCmd) : State :=
  let b := c.body
  let put := fun (s : State) (d : List Byte) => s.answer h c (leAt b 24 8) (leAt b 32 4) d (bytesBody d)
  if byteAt b 0 = 0 then put s (s.helm.log.readFrom (leAt b 8 8) (leAt b 16 4))
  else if 144 ≤ byteAt b 1 then s.refuse h c loadRange
  else if s.fieldInUse (byteAt b 1) then s.refuse h c admitBusy
  else (put s (s.scanField (byteAt b 1))).draw

/-! ### COUNTERS_READ -/

/-- Sites that a scope covers: every listed one, or those of a partition's fields. -/
def State.inScope (s : State) (p : Option Nat) (i : Nat) : Bool :=
  match p with
  | none => true
  | some p => inRect (s.part p).rect (fieldOf (i % 576) (i / 576))

def State.sumCells (s : State) (p : Option Nat) (f : Cell → Nat) : Nat := ((s.cells.filter (fun e => s.inScope p e.1)).map (fun e => f e.2)).sum
def State.sumRouters (s : State) (p : Option Nat) (f : Router → Nat) : Nat :=
  ((s.routers.filter (fun e => s.inScope p e.1)).map (fun e => f e.2)).sum

/-- An integrity counter (R238): what firmware holds, and what the registers of sites have counted since; identifiers that are not defined
read 0. -/
def State.counter (s : State) (p : Option Nat) (id : Nat) : Nat :=
  let held := match p with
    | none => tgetD s.helm.counters id 0
    | some p => tgetD (s.part p).counters id 0
  let rtr := fun (k : Nat) => s.sumRouters p (fun r => tgetD r.total k 0)
  let live := match id with
    | 2 => s.sumCells p (fun c => c.pc.fixedSum)
    | 5 => rtr 4
    | 6 => rtr 3 + rtr 5
    | 7 => s.sumCells p (fun c => c.sg.winSum)
    | 8 => s.sumCells p (fun c => c.sg.skipSum)
    | _ => 0
  if 1 ≤ id ∧ id ≤ 0x11 then held + live else 0

/-- Counter registers of a site, in offset order (R59, R111, R159, R178, R212, R221). -/
def counterOffsets (k : Cls) : List Nat :=
  let run := fun (a n : Nat) => (List.range n).map (fun i => a + 4 * i)
  run 0x060 4 ++ run 0x2030 10 ++ (match k with
    | .c => run 0x3040 3
    | .m => run 0x3020 4
    | .f => []
    | .p => run 0x3080 8
    | .g => run 0x3024 14)

def State.countersRead (s : State) (h : Nat) (c : MbxCmd) : State :=
  let b := c.body
  let put := fun (d : List Byte) => s.answer h c (leAt b 16 8) (leAt b 24 4) d (bytesBody d)
  let x := leAt b 8 2
  let y := leAt b 10 2
  let scope : Option Nat := if byteAt b 0 = 0 then none else some h
  if byteAt b 0 ≤ 1 then put ((span (leAt b 2 2) (leAt b 4 2)).flatMap (fun id => leBytes 8 (min (s.counter scope id) (2 ^ 64 - 1))))
  else if ! siteOk x y then s.refuse h c loadRange
  else put ((counterOffsets (clsOf x y)).flatMap (fun o => wordBytes (s.readSite x y o)))

/-! ### LINK_STATUS -/

def LaneState.code : LaneState → Nat
  | .unconnected => 0
  | .training => 1
  | .up => 2
  | .keepAlive => 3
  | .miswired => 4
  | .version => 5

/-- The state of the best lane. -/
def State.portState (s : State) (k : Nat) : Nat :=
  ([2, 3, 1, 5, 4].find? (fun c => (List.range 96).any (fun n => (s.lane k n).state.code = c))).getD 0

def laneBits (f : Nat → Bool) : Nat := ((List.range 96).map (fun n => b2n (f n) * 2 ^ n)).sum

def State.portBlock (s : State) (k : Nat) : List Byte :=
  let st := s.portState k
  let up := fun (n : Nat) => (s.lane k n).state = .up || (s.lane k n).state = .keepAlive
  let any := (List.range 96).find? (fun n => (s.lane k n).state.code = st)
  let lane := s.lane k (any.getD 0)
  let cnt := fun (j : Nat) => tgetD s.helm.portCnt (8 * k + j) 0
  let sat := fun (v : Nat) => min v (2 ^ 32 - 1)
  leBytes 1 k ++ leBytes 1 st ++ leBytes 1 (if st = 0 then 0xFF else lane.peer) ++ leBytes 1 lane.ver ++
    leBytes 2 ((List.range 96).filter up).length ++ leBytes 1 lane.peerStep ++ zeros 1 ++ leBytes 12 (laneBits up) ++
    leBytes 4 (sat (cnt 0)) ++ leBytes 4 (sat (cnt 1)) ++ leBytes 4 (sat (cnt 2)) ++ leBytes 8 (cnt 3) ++ leBytes 8 (cnt 4) ++ zeros 4 ++
    leBytes 12 (laneBits (fun n => (s.lane k n).out))

def State.linkStatus (s : State) (h : Nat) (c : MbxCmd) : State :=
  let b := c.body
  let d := (if byteAt b 0 = 0xFF then List.range 6 else [byteAt b 0]).flatMap s.portBlock
  s.answer h c (leAt b 8 8) (leAt b 16 4) d (bytesBody d)

end Sys2Proof.Machine
end

