-- ==== Sys2Proof/Machine/Mailbox.lean ====
section
/-!
DEFINITION. The mailbox commands (R241-R248, R262, R263, R275, R276): when each acts, what it checks, and its completion.
-/
namespace Sys2Proof.Machine

/-! ### When a command acts (R276, R345, R417) -/

/-- Commands that firmware answers before READY: HELLO, QUERY_INFO, ATTEST and LOG_READ of the Logbook (R346). -/
def beforeReady (c : MbxCmd) : Bool := c.opcode = 1 || c.opcode = 2 || c.opcode = 0x0D || (c.opcode = 0x0E && byteAt c.body 0 = 0)

/-- Commands that change partition state. -/
def changes (c : MbxCmd) : Bool := (3 ≤ c.opcode && c.opcode ≤ 7) || c.opcode = 0x0B || c.opcode = 0x11 || c.opcode = 0x12

/-- Those execute one at a time in arrival order, over the whole module, and after the decision on every RUN that came before. In part
DEDUCED, log 24. -/
def State.turn (s : State) (h : Nat) (c : MbxCmd) : Bool :=
  (List.range 4).all (fun g => (s.earlier h c g).all (fun d => ! changes d && d.opcode ≠ 0x08))

/-- A mailbox command acts once firmware has copied it out. In part DESIGN CHOICE, log 7; DEDUCED, log 24. -/
def State.mbx (s : State) (h op : Nat) (tag : Word) (f : State → MbxCmd → State) : Res :=
  s.onSite h (fun s => match s.cmdOf h op tag with
    | none => s
    | some c =>
      if ! s.helm.fw.running then s
      else if ! (s.serving || beforeReady c) then s.refuse h c admitBusy
      else if changes c && ! s.turn h c then s
      else f s c)

/-- The command completes well, without a body. -/
def State.done (s : State) (h : Nat) (c : MbxCmd) : State := s.completeCmd h c codeOk []

/-- The command stays in execution after its first part. -/
def State.hold (s : State) (h : Nat) (c : MbxCmd) : State :=
  s.onBridge h (fun b => { b with executing := b.executing.map (fun d => if d.tag = c.tag then { d with accepted := true } else d) })

/-- Fields that the command works in are woken; it goes on when none of them sleeps (R417). In part DEDUCED, log 24. -/
def State.onceAwake (s : State) (fs : List Nat) (f : State → State) : State :=
  let s1 := fs.foldl (fun s k => s.wake k) s
  if fs.any (fun k => (s1.field k).power = .lull || (s1.field k).power = .doldrums) then s1 else f s1

/-- A run of the partition is active or queued. -/
def State.hasRuns (s : State) (p : Nat) : Bool := (s.part p).active.isSome || (s.part p).queue ≠ []

/-! ### HELLO (R275) -/

def State.hello (s : State) (h : Nat) (c : MbxCmd) : State :=
  let lo := leAt c.body 0 2
  let hi := leAt c.body 2 2
  if lo ≤ 1 ∧ 1 ≤ hi then
    (s.onBridge h (fun b => { b with version := some 1 })).completeCmd h c codeOk (leBytes 2 1 ++ leBytes 2 1 ++ leBytes 2 1)
  else s.refuse h c mbxVersion

def execHello (s : Nat) (tag : Word) (st : State) : Res := st.mbx s 0x01 tag (fun st c => st.hello s c)

/-! ### What only reports -/

def execQueryInfo (s : Nat) (tag : Word) (st : State) : Res := st.mbx s 0x02 tag (fun st c => st.queryInfo s c)
def execFixFetch (s : Nat) (tag : Word) (st : State) : Res := st.mbx s 0x0C tag (fun st c => st.fixFetch s c)
def execAttest (s : Nat) (tag : Word) (st : State) : Res := st.mbx s 0x0D tag (fun st c => st.attest s c)
def execLogRead (s : Nat) (tag : Word) (st : State) : Res := st.mbx s 0x0E tag (fun st c => st.readLog s c)
def execCountersRead (s : Nat) (tag : Word) (st : State) : Res := st.mbx s 0x0F tag (fun st c => st.countersRead s c)
def execLinkStatus (s : Nat) (tag : Word) (st : State) : Res := st.mbx s 0x10 tag (fun st c => st.linkStatus s c)

/-! ### Run-control trees (R151, R258) -/

/-- One router of a tree in the making: site, and the port toward its parent. -/
abbrev TreeNode := Nat × Nat × Nat

def nodeAt (l : List TreeNode) (v : Nat × Nat) : Bool := l.any (fun n => n.1 = v.1 && n.2.1 = v.2)

/-- A router that is not dead and whose field is not Off; it may sleep. -/
def State.treeLive (s : State) (v : Nat × Nat) : Bool := ! s.routerDead v.1 v.2 && (s.field (fieldOf v.1 v.2)).power ≠ .off

/-- A link that is down. -/
def State.treeCut (s : State) (x y p : Nat) (u : Nat × Nat) : Bool :=
  s.failedLink x y p || bitB (s.router x y).linkDown p || bitB (s.router u.1 u.2).linkDown (opposite p)

/-- A router's tree entry is written; a sleeping router gets it with the registers it wakes with. In part DESIGN CHOICE, log 23; DESIGN CHOICE, log 27. -/
def State.putTree (s : State) (t x y : Nat) (w : Word) : State :=
  let f := fieldOf x y
  let put := fun (r : Router) => { r with mcTree := tset r.mcTree t w }
  if (s.field f).rails then s.onRouter x y put
  else s.onField f (fun q => { q with savedRouters := tset q.savedRouters (siteIx x y) (put (tgetD q.savedRouters (siteIx x y) Router.reset)) })

/-- No router is on a tree any more. -/
def State.fellTree (s : State) (t : Nat) : State :=
  let cut := fun (_ : Nat) (r : Router) => { r with mcTree := tdel r.mcTree t }
  { s with routers := tmap cut s.routers,
           fields := tmap (fun _ (q : Field) => { q with savedRouters := tmap cut q.savedRouters }) s.fields }

/-- Live routers one live link beyond a layer, in none of the last two layers. -/
def State.treeNext (s : State) (before layer : List TreeNode) : List TreeNode :=
  layer.foldl (fun acc n => (List.range 4).foldl (fun acc p => match beyond n.1 n.2.1 p with
    | some u =>
      if ! s.treeLive u || s.treeCut n.1 n.2.1 p u || nodeAt before u || nodeAt layer u || nodeAt acc u then acc
      else acc ++ [(u.1, u.2, opposite p)]
    | none => acc) acc) []

/-- Layers of the breadth-first search, deepest first. -/
def State.treeLayers (s : State) : Nat → List TreeNode → List TreeNode → List (List TreeNode) → List (List TreeNode)
  | 0, _, _, acc => acc
  | n + 1, before, layer, acc => if layer = [] then acc else s.treeLayers n layer (s.treeNext before layer) (layer :: acc)

/-- Entries from the deepest layer up: a router is on the tree when its field is the partition's or a child of it is on the tree. In part DESIGN CHOICE, log 27. -/
def treeEntries (fs : List Nat) : List (List TreeNode) → List (Nat × Nat × Nat × Nat) → List (Nat × Nat × Word) → List (Nat × Nat × Word)
  | [], _, out => out
  | layer :: up, children, out =>
    let branch := fun (n : TreeNode) => (children.filter (fun c => c.1 = n.1 && c.2.1 = n.2.1)).map (fun c => c.2.2.1)
    let on := layer.filter (fun n => fs.contains (fieldOf n.1 n.2.1) || branch n ≠ [])
    let ents := on.map (fun n => (n.1, n.2.1, word (2 ^ 31 + ((branch n).map (fun p => 2 ^ (26 + p))).sum + n.2.2 * 2 ^ 23)))
    let kids := on.filterMap (fun n => (beyond n.1 n.2.1 n.2.2).map (fun u => (u.1, u.2, opposite n.2.2, 0)))
    treeEntries fs up kids (out ++ ents)

/-- A tree over live routers, from a live helm landing router to every router of some fields that can be reached; `at_` says which of them
deliver to their L ports. The root's parent is the landing port. In part DESIGN CHOICE, log 27. -/
def State.spanTree (s : State) (t : Nat) (fs : List Nat) (at_ : Nat → Nat → Bool) : State :=
  let s1 := s.fellTree t
  match s1.helmLandings with
  | [] => s1
  | v :: _ =>
    if fs = [] then s1
    else (treeEntries fs (s1.treeLayers 331776 [] [(v.1, v.2, portN)] []) [] []).foldl (fun s e =>
      s.putTree t e.1 e.2.1 (setBit e.2.2 30 (at_ e.1 e.2.1))) s1

/-- Tree 8 + p of a partition (R258). -/
def State.buildTree (s : State) (p : Nat) : State := s.spanTree (8 + p) (rectFields (s.part p).rect) (fun _ _ => false)

/-- Trees 0-4, one per class in the class code: LOCAL at every site of the class that has no entry in the defect map (R350). -/
def State.classTrees (s : State) (fs : List Nat) : State :=
  classes.foldl (fun s k => s.spanTree k.code fs (fun x y =>
    clsOf x y = k && ! s.helm.defects.any (fun d => d.1 = x && d.2.1 = y))) s

/-! ### PARTITION_SET (R170, R171, R231, R241-R243) -/

/-- A rectangle as the command carries it: reserved bits zero, not inverted, inside the 12 by 12 fields; a rectangle that is not valid is
no partition. -/
def rectOk (w : Word) : Bool :=
  ! bitB w 31 || (decide (fld w 30 16 = 0) && decide (fld w 15 12 ≤ fld w 7 4) && decide (fld w 11 8 ≤ fld w 3 0) &&
    decide (fld w 7 4 ≤ 11) && decide (fld w 3 0 ≤ 11))

/-- RECT[p] as it stands in the stores. In part DEDUCED, log 25. -/
def rectArg (c : MbxCmd) (p : Nat) : Word := let w := word (leAt c.body (4 * p) 4); if bitB w 31 then w else 0

def timeoutArg (c : MbxCmd) (p : Nat) : Nat := max 20 (min 1000 (leAt c.body (16 + 2 * p) 2))

/-- A rectangle shares a field with a later one. -/
def rectsMeet : List Word → Bool
  | [] => false
  | w :: t => t.any (fun v => (rectFields w).any (inRect v)) || rectsMeet t

/-- In part DEDUCED, log 24. -/
def State.partitionCheck (s : State) (c : MbxCmd) : Code :=
  let busy := (List.range 4).any (fun p =>
    let q := s.part p
    if q.rect ≠ rectArg c p then q.programs ≠ [] || s.openIn p ≠ []
    else partExists q && q.timeout ≠ timeoutArg c p && s.hasRuns p)
  let rects := (List.range 4).map (rectArg c)
  if busy then admitBusy
  else if ! rects.all rectOk || rectsMeet rects then loadRange
  else if rects.any (fun w => bitB w 31 && decide (((homesIn w).filter (fun h => s.intact h.1 h.2)).length < 2)) then loadRange
  else codeOk

/-- One partition whose rectangle changes: the old chain is sealed, defaults apply, a new chain starts, its tree is built. In part DEDUCED, log 25. -/
def State.replacePart (s : State) (p : Nat) (w : Word) : State :=
  let s1 := (s.sealHead p).onPart p (fun q =>
    { Partition.reset with rect := w, sounding := q.sounding, counters := q.counters, ended := q.endChain })
  let s2 := (s1.newChain p).buildTree p
  s2.updateHdm p (decide (s.towersOf p ≠ s2.towersOf p))

/-- FRS_RECT, FRS_PART and BD_XFER_TIMEOUT as the partitions say. -/
def State.storeParts (s : State) : State :=
  let rects : Tbl Word := tsetAll [] (List.range 4) (fun p => (s.part p).rect)
  (List.range 144).foldl (fun t f => t.onField f (fun q =>
    { q with frsRect := rects, frsPart := s.frsPartOf f,
             xferTimeout := match s.partOfField f with
               | some p => word (s.part p).timeout
               | none => q.xferTimeout })) s

/-- PARTITION_SET; trees are written while no packet is in flight on them (R151): it waits until then. The pair policy of every partition
is ALLOW after it (R225). -/
def State.partitionSet (s : State) (h : Nat) (c : MbxCmd) : State :=
  if h ≠ 0 then s.refuse h c loadRange
  else
    let code := s.partitionCheck c
    if code ≠ codeOk then s.refuse h c code
    else if (List.range 4).any (fun p => decide ((s.part p).rect ≠ rectArg c p) && ! s.treeFree (8 + p)) then s
    else
      let s1 := (List.range 4).foldl (fun t p => if (s.part p).rect = rectArg c p then t else t.replacePart p (rectArg c p)) (s.takeCounts (fun _ => true))
      let s2 := (List.range 4).foldl (fun t p => if partExists (t.part p) then
        t.onPart p (fun q => { q with timeout := timeoutArg c p, pairReq := false }) else t) s1
      s2.storeParts.done h c

def execPartitionSet (s : Nat) (tag : Word) (st : State) : Res := st.mbx s 0x03 tag (fun st c => st.partitionSet s c)

/-! ### PROGRAM_LOAD and PROGRAM_UNLOAD (R106, R107, R244) -/

/-- A run of the program in a slot is active. -/
def State.slotRuns (s : State) (p k : Nat) : Bool := (s.part p).active.any (fun a => a.run.progSlot = k)

/-- The completion body of PROGRAM_LOAD. -/
def LoadErr.body (e : LoadErr) : List Byte := leBytes 4 e.comb ++ leBytes 4 (e.x + e.y * 2 ^ 16) ++ leBytes 2 e.index

/-- The IMAGE record of a program image (R368). -/
def imageRec (image : List Byte) (code : Code) : LogRec :=
  { recOf 0x06 .firmware with index := 1, code := code, detail := (image.drop 32).take 12 }

/-- In part DEDUCED, log 24. -/
def State.programLoad (s : State) (h : Nat) (c : MbxCmd) (image : List Byte) : State :=
  let b := c.body
  let len := leAt b 8 4
  let slot := byteAt b 12
  let save := leAt b 16 8
  let img := padTo len image
  let expect := if byteAt b 13 = 1 then some ((b.drop 24).take 64) else none
  let code := bufCheck (s.bridge h) (leAt b 0 8) len 0
  if code ≠ codeOk then s.refuse h c code
  else if ! partExists (s.part h) ∨ 4 ≤ slot then s.refuse h c loadRange
  else if s.slotRuns h slot then s
  else match s.load h slot save expect img with
    | .error e => (s.fwLog (imageRec img e.code)).completeCmd h c e.code e.body
    | .ok g =>
      let s1 := (s.dropProgram h slot).onPart h (fun q =>
        { q with programs := tset q.programs slot { prog := g, save := save, saved := none, comb := none } })
      (s1.fwLog (imageRec img codeOk)).done h c

/-- In part DESIGN CHOICE, log 49. -/
def execProgramLoad (s : Nat) (tag : Word) (image : List Byte) (st : State) : Res :=
  st.mbx s 0x04 tag (fun st c => st.programLoad s c image)

/-- In part DEDUCED, log 24. -/
def State.programUnload (s : State) (h : Nat) (c : MbxCmd) : State :=
  let slot := byteAt c.body 0
  if (s.program h slot).isNone then s.refuse h c loadRange
  else if s.slotRuns h slot then s
  else (s.dropProgram h slot).done h c

def execProgramUnload (s : Nat) (tag : Word) (st : State) : Res := st.mbx s 0x05 tag (fun st c => st.programUnload s c)

/-! ### SESSION_OPEN and SESSION_CLOSE (R119, R166, R210, R247, R248) -/

/-- Bytes [a, a + n) become zero. -/
def Memory.clearRange (m : Memory) (a n : Nat) : Memory :=
  { m with cells := if m.gen = 0 then m.cells.filter (fun p => p.1 < a || a + n ≤ p.1) else ((span a n).foldl (fun m k => m.put k 0) m).cells,
           bad := m.bad.filter (fun w => 8 * w < a || a + n < 8 * w + 8),
           weak := m.weak.filter (fun w => 8 * w + 8 ≤ a || a + n ≤ 8 * w) }

/-- An HDM range becomes zero in its towers (R181). -/
def State.zeroHdm (s : State) (p base size : Nat) : State :=
  ((List.range (s.towersOf p).length).zip (s.towersOf p)).foldl (fun s v =>
    let lo := max base (v.1 * 2 ^ 33)
    let hi := min (base + size) ((v.1 + 1) * 2 ^ 33)
    if hi ≤ lo then s else s.onField v.2 (fun q => { q with tower := q.tower.clearRange (lo - v.1 * 2 ^ 33) (hi - lo) })) s

/-- The context that a SESSION_OPEN names: a closed one, or one open in the caller's partition. -/
def State.sessionFor (s : State) (p want : Nat) : Option Nat :=
  if want = 0xFFFF then (List.range 1024).find? (fun n => (s.session n).state = 0)
  else
    let v := s.session want
    if want < 1024 ∧ (v.state = 0 ∨ (v.state = 1 ∧ v.part = p)) then some want else none

/-- A run of the session is queued or active. -/
def State.sessionBusy (s : State) (p n : Nat) : Bool :=
  (s.part p).active.any (fun a => a.run.session = n) || (s.part p).queue.any (fun r => r.session = n)

/-- The new context of a SESSION_OPEN. -/
def sessionCtx (old : Session) (p chunk : Nat) (b : List Byte) : Session :=
  { state := 1, part := p, program := byteAt b 2, priority := byteAt b 3, deadline := leAt b 4 4, chunk := chunk, runs := 0,
    kvBase := leAt b 8 8, kvSize := leAt b 16 8, histBase := leAt b 24 8, histSize := leAt b 32 8, lastRun := old.lastRun }

/-- An entry of the session patch lies in two towers. -/
def crossesTower (v : Session) (e : SessionPatch) : Bool :=
  let a := (if e.region = 0 then v.kvBase else v.histBase) + e.disp
  a / 2 ^ 33 ≠ (a + max e.extent 1 - 1) / 2 ^ 33

/-- The refusals of R248, for a context `n`. -/
def State.openCheck (s : State) (p n : Nat) (b : List Byte) : Code :=
  let v := sessionCtx (s.session n) p 0 b
  let rebind := (s.session n).state = 1
  let size := s.hdmSize p
  if rebind && s.sessionBusy p n then admitBusy
  else if ! rebind && (s.spareHome p).isNone then admitBusy
  else match s.program p v.program with
    | none => loadRange
    | some g =>
      if size < v.kvBase + v.kvSize ∨ size < v.histBase + v.histSize then loadRange
      else if v.kvSize < g.kvMin ∨ v.histSize < g.histMin then loadBufferSize
      else if g.session.any (crossesTower v) then loadRange
      else codeOk

/-- The lowest chunk that no session holds. -/
def State.freeChunk (s : State) : Nat :=
  ((List.range 1024).find? (fun c => ! bitB (s.chunkMap c) 31 && ! s.sessions.any (fun v => v.2.state = 1 && v.2.chunk = c))).getD 0

/-- The chunk of a context: its own when it is rebound, else a new one at a spare home. -/
def State.mapChunk (s : State) (p n : Nat) : State × Nat :=
  if (s.session n).state = 1 then (s, (s.session n).chunk)
  else
    let c := s.freeChunk
    match s.spareHome p with
    | some h => (s.setChunk c (chunkWord p h), c)
    | none => (s, c)

/-- On acceptance. -/
def State.openSession (s : State) (h : Nat) (c : MbxCmd) (n : Nat) : State :=
  let b := c.body
  let old := if (s.session n).state = 1 then s.session n else Session.closed
  let m := s.mapChunk h n
  let v := sessionCtx old h m.2 b
  let s1 := ((m.1.clearChunk m.2).zeroHdm h v.histBase v.histSize).onSession n (fun _ => v)
  let s2 := s1.onPart h (fun q => { q with lastSession := if q.lastSession = some n then none else q.lastSession })
  (s2.onBridge h (fun b' => b'.post (leAt b 40 8) (s2.infoSession v))).completeCmd h c codeOk (leBytes 2 n ++ leBytes 2 m.2)

/-- In part DEDUCED, log 24. -/
def State.sessionOpen (s : State) (h : Nat) (c : MbxCmd) : State :=
  let b := c.body
  if ! partExists (s.part h) then s.refuse h c loadRange
  else match s.sessionFor h (leAt b 0 2) with
    | none => s.refuse h c admitBusy
    | some n =>
      let code := s.openCheck h n b
      let code := if code = codeOk then bufCheck (s.bridge h) (leAt b 40 8) 64 64 else code
      if code ≠ codeOk then s.refuse h c code
      else s.onceAwake (s.cmdFields h c) (fun s => s.openSession h c n)

def execSessionOpen (s : Nat) (tag : Word) (st : State) : Res := st.mbx s 0x06 tag (fun st c => st.sessionOpen s c)

/-- Queued runs cancelled, the active run stopped, words cleared, chunk freed, context closed. -/
def State.closeSession (s : State) (p n : Nat) : State :=
  let chunk := (s.session n).chunk
  let s1 := s.dropQueued p (fun r => r.session = n) runCancelled s.helm.clocks.drSet
  let s2 := if (s1.part p).active.any (fun a => a.run.session = n) then s1.stopRun p runCancelled else s1
  let s3 := (s2.clearChunk chunk).setChunk chunk (setBit (s2.chunkMap chunk) 31 false)
  (s3.onSession n (fun _ => Session.closed)).onPart p (fun q =>
    { q with lastSession := if q.lastSession = some n then none else q.lastSession })

def State.sessionClose (s : State) (h : Nat) (c : MbxCmd) : State :=
  let n := leAt c.body 0 2
  let v := s.session n
  if n < 1024 ∧ v.state = 1 ∧ v.part = h then s.onceAwake (s.cmdFields h c) (fun s => (s.closeSession h n).done h c)
  else s.refuse h c loadRange

def execSessionClose (s : Nat) (tag : Word) (st : State) : Res := st.mbx s 0x07 tag (fun st c => st.sessionClose s c)

/-! ### RUN and RUN_CANCEL (R256, R262) -/

/-- RUN: the Pilot decides; before READY it is refused like any run that finds firmware out of service. -/
def execRun (s : Nat) (tag : Word) (st : State) : Res :=
  st.onSite s (fun st => match st.cmdOf s 0x08 tag with
    | none => st
    | some c => if ! st.helm.fw.running then st else if ! st.serving then st.refuseRun s c admitBusy else st.decideRun s c)

/-- In part DEDUCED, log 25. -/
def State.runCancel (s : State) (h : Nat) (c : MbxCmd) : State :=
  let id := leAt c.body 0 8
  let q := s.part h
  if q.queue.any (fun r => r.id = id) then (s.dropQueued h (fun r => r.id = id) runCancelled s.helm.clocks.drSet).done h c
  else if q.active.any (fun a => a.run.id = id) then
    (if q.active.any (fun a => a.stopAt.isSome) then s.done h c else (s.stopRun h runCancelled).done h c)
  else if q.records.any (fun r => r.runId = id) then s.done h c
  else s.refuse h c loadRange

def execRunCancel (s : Nat) (tag : Word) (st : State) : Res := st.mbx s 0x09 tag (fun st c => st.runCancel s c)

/-! ### SOUND (R235, R236) -/

/-- New runs are held off the named fields; the command completes with the sounding. A second SOUND of the partition waits. In part DEDUCED, log 24. -/
def State.sound (s : State) (h : Nat) (c : MbxCmd) : State :=
  let fs := maskFields (leAt c.body 0 18)
  let code := bufCheck (s.bridge h) (leAt c.body 24 8) (leAt c.body 32 4) 0
  if c.accepted then s
  else if fs.any (fun f => ! inRect (s.part h).rect f) then s.refuse h c loadRange
  else if code ≠ codeOk then s.refuse h c code
  else if (s.part h).sounding ≠ [] then s
  else (fs.foldl (fun s f => s.wake f) (s.onPart h (fun q => { q with sounding := fs }))).hold h c

def execSound (s : Nat) (tag : Word) (st : State) : Res := st.mbx s 0x0A tag (fun st c => st.sound s c)

/-! ### PAIR_SET, POWER_POLICY, PARTITION_RESET (R225, R242, R263, R326) -/

def State.pairSet (s : State) (h : Nat) (c : MbxCmd) : State :=
  if ! partExists (s.part h) then s.refuse h c loadRange
  else if s.hasRuns h then s.refuse h c admitBusy
  else (s.onPart h (fun q => { q with pairReq := byteAt c.body 0 = 1 })).done h c

def execPairSet (s : Nat) (tag : Word) (st : State) : Res := st.mbx s 0x0B tag (fun st c => st.pairSet s c)

/-- A value of 0 keeps the idle threshold. -/
def keepOr (old new : Nat) : Nat := if new = 0 then old else new

/-- In part DEDUCED, log 24. -/
def State.powerPolicy (s : State) (h : Nat) (c : MbxCmd) : State :=
  let b := c.body
  let q := s.part h
  if ! partExists q then s.refuse h c loadRange
  else if q.floor ≠ byteAt b 0 ∧ s.hasRuns h then s.refuse h c admitBusy
  else
    let s1 := s.onPart h (fun q => { q with floor := byteAt b 0, lullIdle := keepOr q.lullIdle (leAt b 4 4), doldIdle := keepOr q.doldIdle (leAt b 8 4) })
    ((rectFields q.rect).foldl (fun s f => s.wake f) s1).done h c

def execPowerPolicy (s : Nat) (tag : Word) (st : State) : Res := st.mbx s 0x11 tag (fun st c => st.powerPolicy s c)

/-- Queued runs cancelled, the active run stopped, and the reset of R154 begun. -/
def State.beginReset (s : State) (h : Nat) (c : MbxCmd) : State :=
  let s1 := s.dropQueued h (fun _ => true) runCancelled s.helm.clocks.drSet
  (((s1.stopRun h runCancelled).resetPartition h).onPart h (fun q => { q with resetTag := some c.tag })).hold h c

/-- In part DEDUCED, log 25. -/
def State.partitionReset (s : State) (h : Nat) (c : MbxCmd) : State :=
  if ! partExists (s.part h) then s.done h c
  else if c.accepted then s
  else s.onceAwake (rectFields (s.part h).rect) (fun s => s.beginReset h c)

def execPartitionReset (s : Nat) (tag : Word) (st : State) : Res := st.mbx s 0x12 tag (fun st c => st.partitionReset s c)

end Sys2Proof.Machine
end

