-- ==== Sys2Proof/Machine/Startup.lean ====
section
/-!
DEFINITION. Start-up (R339-R365, R389): the step registers, the eleven steps on the full and the fast path, step timeouts, and
MODULE_RESET.
-/
namespace Sys2Proof.Machine

/-! ### The step registers (R340-R343) -/

def reasonImage : Nat := 2
def reasonSecurity : Nat := 3
def reasonTimeout : Nat := 4
def reasonMinimum : Nat := 6
def reasonZeroed : Nat := 7
def reasonTopo : Nat := 9
def reasonSupply : Nat := 10

/-- Step `n` begins. -/
def Steps.begin_ (t : Steps) (n : Nat) (runOn forceFull : Bool) (cycle : Nat) : Steps :=
  { t with step := n, state := 1, fast := false, reason := 0, code := 0, runOn := runOn, forceFull := forceFull, since := cycle }

/-- R343: step `n` may begin. -/
def Steps.accepts (t : Steps) (n : Nat) : Bool :=
  t.state ≠ 1 && ((n = 1 && t.step = 0) || (n = t.step + 1 && (t.state = 2 || t.state = 3)) ||
    (n = 2 && (t.step = 2 || t.step = 3) && t.state = 4 && (t.reason = reasonImage || t.reason = reasonSecurity)))

/-- The step in progress ends: DONE, or DONE_DEGRADED when a reason arose. In part DEDUCED, log 28. -/
def State.endStep (s : State) : State :=
  (s.onSteps (fun t => { t with state := if t.reason = 0 then 2 else 3 })).logStep

/-- What a step does, while it is in progress. In part DESIGN CHOICE, log 7. -/
def State.inStep (s : State) (n : Nat) (f : State → State) : State := if s.helm.steps.step = n ∧ s.helm.steps.state = 1 then f s else s

def State.arise (s : State) (reason : Nat) : State := s.onSteps (fun t => t.arise reason 0)

/-- The step has failed or its field (4, 0) is lost. -/
def State.failed (s : State) : Bool := s.helm.steps.state = 4

/-- The step goes on to its end unless it has failed. -/
def State.endUnlessFailed (s : State) : State := if s.failed then s else s.endStep

/-- RUN_ON_NEXT_STEP (R340). -/
def execRunOnNextStep (s : State) : Res :=
  let t := s.helm.steps
  if t.runOn ∧ (t.state = 2 ∨ t.state = 3) ∧ 1 ≤ t.step ∧ t.step < 11 then
    .next (s.onSteps (fun t => t.begin_ (t.step + 1) true t.forceFull s.cycle))
  else .next s

/-! ### Host links (R265, R266) -/

def linkRates : List Nat := [4, 8, 12, 16, 24, 32]

/-- A link as UCIe can train it: modules that are not left out, at a width and a rate of R265. -/
def Bridge.trainable (b : Bridge) (modules : List Nat) (width rate : Nat) : Bool :=
  b.linkUp && modules ≠ [] && decide (modules.Nodup) && modules.all (fun m => decide (m < 4) && ! b.leftOut.contains m) &&
    (width = 8 || width = 16) && linkRates.contains rate

/-- The link as it has trained, outside the keep-alive: a module that failed is left out (R265). `cap` bounds the rate in force. In part
DEDUCED, log 47. -/
def Bridge.train (b : Bridge) (modules : List Nat) (width rate cap : Nat) : Bridge :=
  ({ b with up := modules, width := width, rate := min cap rate, fullRate := rate, keepAlive := false,
            leftOut := (List.range 4).filter (fun m => ! modules.contains m) } : Bridge).checkRate

/-- The highest rate in force: 16 GT/s in dead reckoning, else that of R265. -/
def State.rateCap (s : State) : Nat := if s.helm.clocks.drSet then 16 else 32

/-! ### CLOCKS, HELM_LOAD, HELM_VERIFY -/

/-- CLOCKS: crystals, loops, the helm's own clock, host links. In part DEDUCED, log 28. -/
def State.startClocks (s : State) (a b : Bool) (links : List (Nat × List Nat × Nat × Nat)) : State :=
  let mark := fun (isB good : Bool) (s : State) =>
    if good then s.onClocks (fun c => c.setGood isB true true)
    else (s.onClocks (fun c => c.fail isB s.cycle)).romLog (crystalRec isB 0)
  let s1 := mark true b (mark false a s)
  if ! a && ! b then s1.failStep reasonClock 0
  else
    let s2 := (s1.onClocks (fun c => { c with helmSrc := true, sel := ! a })).onHelm (fun h => { h with mcPhase := true })
    (links.foldl (fun s v => if (s.bridge v.1).trainable v.2.1 v.2.2.1 v.2.2.2 then
      s.onBridge v.1 (fun b => b.train v.2.1 v.2.2.1 v.2.2.2 s.rateCap) else s) s2).endStep

def execClocks (xtalA xtalB : Bool) (links : List (Nat × List Nat × Nat × Nat)) (s : State) : Res :=
  if links.any (fun v => decide (4 ≤ v.1)) then .fault .noSuchHostSite else .next (s.inStep 1 (fun s => s.startClocks xtalA xtalB links))

/-- The image that HELM_LOAD finds: in the image window of the site, or in host memory inside the host windows. -/
def Bridge.firmwareImage (b : Bridge) (host : List Byte) : Option (List Byte) :=
  let use := bitB b.imgLo 0
  let addr := fld b.imgLo 31 6 * 64 + fld b.imgHi 15 0 * 2 ^ 32
  let head := if use then host else b.imgWin.read 0 256
  let len := leAt head 8 4
  if leAt head 0 4 ≠ 0x53424C52 ∨ len < 256 ∨ 8 * 2 ^ 20 < len then none
  else if use then (if inWindow b addr len then some (padTo len host) else none)
  else some (b.imgWin.read 0 len)

/-- HELM_LOAD: the image is placed in helm SRAM. In part DEDUCED, log 28. -/
def State.loadHelm (s : State) (h : Nat) (host : List Byte) : State :=
  match (s.bridge h).firmwareImage host with
  | some l => (s.onHelm (fun t => { t with fw := { t.fw with image := l } })).endStep
  | none => s.failStep reasonImage 0

def execHelmLoad (s : Nat) (image : List Byte) (st : State) : Res := st.onSite s (fun st => st.inStep 2 (fun st => st.loadHelm s image))

/-- The first check of R389 that fails: its reason and code. In part DEDUCED, log 28. -/
def Helm.firmwareBad (t : Helm) (l : List Byte) (h : ImageHead) : Option (Nat × Code) :=
  let slot := byteAt (l.drop h.sigOff) 2
  let key := ((l.drop h.sigOff).drop 4).take 133
  if h.kind ≠ 0 ∨ 8 * 2 ^ 20 < l.length ∨ ! h.firmwareSecs then some (reasonImage, 0)
  else if h.flags % 2 = 0 ∨ measureOf l h.sigOff ≠ h.measurement then some (reasonSecurity, secImageSignature)
  else if 4 ≤ slot ∨ sha512 key ≠ leBytes 64 (lgetD t.otp.keys slot 0).toNat ∨ bitB t.otp.revoked slot ∨ ! sigOk l h.sigOff slot 0 then
    some (reasonSecurity, secImageSignature)
  else if h.svn < t.otp.rollback then some (reasonSecurity, secRollback)
  else none

/-- COMMIT_SVN and REVOKE_BELOW. -/
def Otp.commit (o : Otp) (h : ImageHead) (slot : Nat) : Otp :=
  let o1 := if bitB (BitVec.ofNat 8 h.flags) 1 then { o with rollback := max o.rollback h.svn } else o
  if bitB (BitVec.ofNat 8 h.flags) 2 then { o1 with revoked := o1.revoked ||| BitVec.ofNat 4 (2 ^ slot - 1) } else o1

/-- The IMAGE record of a firmware image. -/
def firmwareRec (l : List Byte) (code : Code) : LogRec :=
  { recOf 0x06 .bootRom with code := code, detail := (l.drop 32).take 12 }

/-- Bogiano as it starts: its attestation key is drawn, and the key's statement signed. -/
def Firmware.boot (w : Firmware) (h : ImageHead) (draw mono : Nat) : Firmware :=
  { w with running := true, major := h.major, minor := h.minor, svn := h.svn, measurement := h.measurement, keyDraw := draw, keyMono := mono,
           microcode := (h.secs.filter (fun v => v.1 = 2)).map (·.2) }

/-- HELM_VERIFY. -/
def State.verifyHelm (s : State) : State :=
  let l := s.helm.fw.image
  match imageHead l with
  | none => (s.romLog (firmwareRec l 0)).failStep reasonImage 0
  | some h => match s.helm.firmwareBad l h with
    | some (reason, code) => (s.romLog (firmwareRec l code)).failStep reason code
    | none =>
      let slot := byteAt (l.drop h.sigOff) 2
      let s1 := (s.onHelm (fun t => { t with otp := t.otp.commit h slot, fw := t.fw.boot h s.fresh s.mono,
                                             pins := { t.pins with jtag := if t.pins.jtag = 3 then 0 else t.pins.jtag } })).draw.draw
      ((s1.romLog (firmwareRec l 0)).renewAll).endStep

def execHelmVerify (s : State) : Res := .next (s.inStep 3 State.verifyHelm)

/-! ### TOWERS (R347, R358, R361, R362) -/

/-- A channel block: training results are free, in FLAGS TRAINED or FAILED (R359). DESIGN CHOICE, log 63. -/
def FieldRec.channel (r : FieldRec) (c : Nat) : List Byte :=
  (List.range 59).map (fun k => Config.freeByte r.draw (64 * c + k)) ++ leBytes 1 (if r.failed.contains c then 2 else b2n r.towerOk) ++ zeros 4

/-- A lane block (R359): lane `q` of field `f` is lane 48 × (row mod 2) + 4 × column + q of port row / 2. DESIGN CHOICE, log 63. -/
def FieldRec.lane (r : FieldRec) (f q : Nat) : List Byte :=
  let n := 96 * (f / 12 / 2) + 48 * (f / 12 % 2) + 4 * (f % 12) + q
  let pol := (Config.freeByte r.draw (8192 + 64 * q + 19)).toNat % 2
  (List.range 19).map (fun k => Config.freeByte r.draw (8192 + 64 * q + k)) ++
    leBytes 1 (b2n (r.laneIn.contains n) + 2 * pol + 4 * b2n (r.laneOut.contains n)) ++ zeros 44

/-- Bytes 0-4,415 of a field record, and its CRC (R358). -/
def FieldRec.front (r : FieldRec) (f : Nat) : List Byte :=
  leBytes 2 1 ++ leBytes 1 f ++ leBytes 1 (b2n r.towerOk + 2 * b2n r.withdrawn + 4 * b2n r.lanesOk) ++ leBytes 4 4424 ++ leBytes 8 r.logPos ++
    (List.range 64).flatMap r.channel ++ (if r.lanesOk then (List.range 4).flatMap (r.lane f) else zeros 256) ++ zeros 48

def FieldRec.crc (r : FieldRec) (f : Nat) : Dword := dword (crc64 (r.front f))

def FieldRec.bytes (r : FieldRec) (f : Nat) : List Byte := r.front f ++ leBytes 8 (r.crc f).toNat

/-- The summary record (R360). -/
def Summary.bytes (v : Summary) : List Byte :=
  let front := leBytes 2 1 ++ leBytes 1 (b2n v.valid) ++ zeros 1 ++ leBytes 2 v.major ++ leBytes 2 (v.down.length % 2 ^ 16) ++ leBytes 8 v.logPos ++
    (List.range 144).flatMap (fun f => leBytes 8 (lgetD v.fieldCrc f 0).toNat) ++
    (List.range 1024).flatMap (fun k => match v.down[k]? with
      | some d => leBytes 4 (d.1 * 2 ^ 22 + d.2.1 * 2 ^ 12 + d.2.2 * 2 ^ 9)
      | none => zeros 4)
  front ++ leBytes 8 (crc64 front)

/-- The CRC of each field record. -/
def State.recordCrcs (s : State) : List Dword :=
  (List.range 144).map (fun f => match (s.field f).settings with
    | some r => r.crc f
    | none => 0)

/-- The first condition of R361 that fails. In part DEDUCED, log 29. -/
def State.fastFails (s : State) : Option Nat :=
  let h := s.helm
  let late := fun (r : LogRec) => r.flags % 2 = 1 && decide (h.summary.logPos ≤ r.seq) &&
    ! (r.type = 0x36 && decide (r.seq < h.readyPos.getD 0))
  if ! h.steps.warm || h.readyPos.isNone then some 1
  else if h.steps.resetForce || h.steps.forceFull then some 2
  else if ! h.summary.valid || h.summary.major ≠ h.fw.major then some 3
  else if (List.range 144).any (fun f => (s.field f).settings.isNone) || s.recordCrcs ≠ h.summary.fieldCrc then some 4
  else if h.log.ring.any late then some 5
  else none

def withdrawnRec (f : Nat) : LogRec := { recOf 0x36 .firmware with flags := 1, field := f }

/-- A tower stays out of service in this start; DEFECTS writes its record (R355). -/
def State.towerOut (s : State) (f : Nat) : State := (s.onField f (fun q => { q with withdrawn := true })).arise reasonLosses

/-- A tower trained on the full path, every byte zero, with its field record; `failed` lists the channels that fail. -/
def State.trainTower (s : State) (f : Nat) (bad : Bool) (failed : List Nat) : State :=
  let rec_ : FieldRec := { towerOk := ! bad, withdrawn := bad, lanesOk := false, logPos := s.helm.log.count, draw := s.fresh,
                           failed := failed, laneIn := [], laneOut := [] }
  let s1 := (s.onField f (fun q => { q with tower := Memory.zero, trained := ! bad, sr := false, withdrawn := false,
                                            towerRails := ! q.railsLatch, settings := some rec_ })).draw
  if bad then s1.towerOut f else s1

/-- A tower on the fast path: kept; withdrawn as before, or because it was still training at the step's maximum time; or trained again and
zeroed, which a STEP record tells (R341, R362). In part DEDUCED, log 29. -/
def State.resumeTower (s : State) (f : Nat) (bad shed : Bool) : State :=
  if ((s.field f).settings).any (·.withdrawn) || (s.field f).railsLatch || shed then s.towerOut f
  else if bad then
    ((s.onField f (fun q => { q with tower := Memory.zero, trained := true, sr := false, withdrawn := false })).arise reasonZeroed).logReason
      reasonZeroed f
  else s.onField f (fun q => { q with trained := true, sr := false, withdrawn := false })

/-- TOWERS on the path that R361 gives: channels that fail, and towers still training at the step's maximum time, which are withdrawn
(R347). In part DEDUCED, log 29. -/
def State.startTowers (s : State) (failed : List (Nat × Nat)) (shed : Nat → Bool) : State :=
  let chans := fun (f : Nat) => (failed.filter (fun v => v.1 = f)).map (·.2)
  let bad := fun (f : Nat) => failed.any (fun v => v.1 = f)
  match s.fastFails with
  | none =>
    ((List.range 144).foldl (fun s f => s.resumeTower f (bad f) (shed f)) (s.onSteps (fun t => { t with fast := true, fastPath := true }))).endStep
  | some k =>
    let s1 := (s.onSteps (fun t => { t with fastPath := false })).fwLog { recOf 0x46 .firmware with detail := leBytes 1 k }
    let s2 := s1.onHelm (fun h => { h with summary := { h.summary with valid := false } })
    ((List.range 144).foldl (fun s f => s.trainTower f (bad f || shed f || (s.field f).railsLatch) (chans f)) s2).endStep

def execTowers (badChannels : List (Nat × Nat)) (s : State) : Res :=
  if badChannels.any (fun v => decide (144 ≤ v.1 ∨ 64 ≤ v.2)) then .fault .noSuchField
  else .next (s.inStep 4 (fun s => s.startTowers badChannels (fun _ => false)))

/-! ### FIELDS_POWER and ROSE_LOCK -/

/-- FIELDS_POWER: rails of every field in service; a field whose stage fails twice is lost. In part DEDUCED, log 28. -/
def State.powerFields (s : State) (bad : List Nat) : State :=
  ((List.range 144).foldl (fun s f => if bad.contains f then s.powerLost f else s.railsUp f) s).endUnlessFailed

def execFieldsPower (bad : List Nat) (s : State) : Res :=
  if bad.any (fun f => decide (144 ≤ f)) then .fault .noSuchField else .next (s.inStep 5 (fun s => s.powerFields bad))

/-- Fields in service. -/
def State.fieldsUp (s : State) : List Nat := (List.range 144).filter (fun f => (s.field f).rails)

/-- ROSE_LOCK: oscillators and couplings of every field in service; a field that does not lock twice is lost. In part DEDUCED, log 28. -/
def State.lockRose (s : State) (bad : List Nat) : State :=
  let s1 := (s.fieldsUp.filter bad.contains).foldl (fun s f => s.powerLost f) s
  let s2 := s1.fieldsUp.foldl (fun s f => s.onField f (fun q => { q with oscEn := true, locked := true, lockSince := none, slip := 0 })) s1
  (s2.fieldsUp.foldl (fun s f => s.joinRose f) s2).endUnlessFailed

def execRoseLock (bad : List Nat) (s : State) : Res :=
  if bad.any (fun f => decide (144 ≤ f)) then .fault .noSuchField else .next (s.inStep 6 (fun s => s.lockRose bad))

/-! ### MESH_TEST (R349, R350) -/

/-- A link that MESH_TEST tests, named by a site and its port: it crosses a field boundary, or it is a landing link. -/
def State.tested (s : State) (v : Nat × Nat × Nat) : Bool :=
  let up := fun (x y : Nat) => (s.field (fieldOf x y)).rails
  siteOk v.1 v.2.1 && up v.1 v.2.1 && (match beyond v.1 v.2.1 v.2.2 with
    | some u => decide (fieldOf u.1 u.2 ≠ fieldOf v.1 v.2.1) && up u.1 u.2
    | none => decide (landingOf v.1 v.2.1 = some (v.2.2, v.2.2)) || (helmLanding v.1 v.2.1 && v.2.2 = portN))

/-- PORT_OFF at both ends of a link. -/
def State.linkOff (s : State) (v : Nat × Nat × Nat) : State :=
  let off := fun (p : Nat) (r : Router) => { r with fence := setBit r.fence (4 + p) true }
  let s1 := s.onRouter v.1 v.2.1 (off v.2.2)
  match beyond v.1 v.2.1 v.2.2 with
  | some u => s1.onRouter u.1 u.2 (off (opposite v.2.2))
  | none => s1

/-- Registers that the operand of the route set-up gives: the lane maps of the report trees (R350). In part DEDUCED, log 28. -/
def setupOffset (off : Nat) : Bool := off % 4 = 0 && 0x100 ≤ off && off < 0x150

/-- Route set-up: the order of RTR_UPDOWN, from which the detour tables follow, what surrounds dead routers and lost fields, the class
trees, and the report trees of the operand. -/
def State.routeSetup (s : State) (tables : List (Nat × Nat × Nat × Word)) : State :=
  let map := s.helm.map
  let dead := (map.filter (fun d => d.2.2)).map (fun d => (d.1, d.2.1))
  let s1 := s.onHelm (fun h => { h with defects := map, order := some { dead := dead, lost := h.lostFields, cut := h.summary.down } })
  let s2 := (map.filter (fun d => d.2.2)).foldl State.applySite s1
  let s3 := s2.helm.lostFields.foldl (fun s f => (s.facingUp f).foldl (fun s v => s.setPortOff v.1 v.2.1 v.2.2) s) s2
  (tables.filter (fun t => siteOk t.1 t.2.1 && setupOffset t.2.2.1)).foldl (fun s t =>
    s.onRouter t.1 t.2.1 (fun r => r.writeReg t.2.2.1 t.2.2.2)) (s3.classTrees s3.fieldsUp)

def meshFailRec (v : Nat × Nat × Nat) : LogRec := { recOf 0x30 .firmware with flags := 1, site := siteWord v.1 v.2.1 v.2.2 }

/-- MESH_TEST: on the fast path the links that the summary lists are down; on the full path those that fail the test. In part DEDUCED, log 28. -/
def State.testMesh (s : State) (badLinks : List (Nat × Nat × Nat)) (tables : List (Nat × Nat × Nat × Word)) : State :=
  let fast := s.helm.steps.fastPath
  let down := if fast then s.helm.summary.down else badLinks.filter s.tested
  let s1 := s.onSteps (fun t => { t with fast := fast })
  let s2 := s1.onHelm (fun h => { h with summary := { h.summary with down := down } })
  let s3 := down.foldl State.linkOff s2
  let s4 := if fast then s3 else down.foldl (fun s v => s.fwLog (meshFailRec v)) s3
  let s5 := (if down = [] then s4 else s4.arise reasonLosses).routeSetup tables
  if s5.helmLandings = [] then s5.failStep reasonHelmPath 0 else s5.endStep

def execMeshTest (badLinks : List (Nat × Nat × Nat)) (tables : List (Nat × Nat × Nat × Word)) (s : State) : Res :=
  if badLinks.any (fun v => ! siteOk v.1 v.2.1) || tables.any (fun v => ! siteOk v.1 v.2.1) then .fault .noSuchSite
  else .next (s.inStep 7 (fun s => s.testMesh badLinks tables))

/-! ### CELL_MICROCODE and DEFECTS (R354, R355) -/

/-- CELL_MICROCODE: every cell holds its class image; a site that stays incomplete is fenced BODY, a loss of the step. In part DESIGN CHOICE, log 43. -/
def State.sendMicrocode (s : State) (incomplete : List (Nat × Nat)) : State :=
  let s1 := s.onSteps (fun t => { t with fast := t.fastPath })
  let s2 := s1.fieldsUp.foldl (fun s f => s.mcAll f) s1
  let out := incomplete.filter (fun v => (s.field (fieldOf v.1 v.2)).rails && ! s.bodyOut v.1 v.2)
  (out.foldl (fun s v => if s.bodyOut v.1 v.2 then s else (s.mapFence (v.1, v.2, false)).arise reasonLosses) s2).endStep

def execCellMicrocode (incomplete : List (Nat × Nat)) (s : State) : Res :=
  if incomplete.any (fun v => ! siteOk v.1 v.2) then .fault .noSuchSite else .next (s.inStep 8 (fun s => s.sendMicrocode incomplete))

/-- DEFECTS: the map in routers, towers, stores and counts. In part DEDUCED, log 28. -/
def State.applyDefects (s : State) : State :=
  let s1 := s.onHelm (fun h => { h with defects := h.map })
  let s2 := (s1.helm.defects.filter (fun d => (s1.field (fieldOf d.1 d.2.1)).rails)).foldl State.applySite s1
  let s3 := ((List.range 144).filter s2.unserved).foldl (fun s f => s.onField f (fun q => { q with withdrawn := true })) s2
  let s4 := ((List.range 144).filter (fun f => (s3.field f).withdrawn)).foldl (fun s f => (s.storeTowerOut f).fwLog (withdrawnRec f)) s3
  let s5 := if s4.belowMinimum then s4.arise reasonMinimum else s4
  (s5.logBelow classes).endStep

def execDefects (s : State) : Res := .next (s.inStep 9 State.applyDefects)

/-! ### PEERS and READY (R306, R356-R358, R360) -/

/-- A lane's field and its lane number there (R21, R22). -/
def fieldOfLane (k n : Nat) : Nat := (2 * k + n / 48) * 12 + n % 48 / 4

/-- A lane ends PEERS in service, or out until module reset. In part DEDUCED, log 28; DEDUCED, log 29. -/
def State.placeLane (s : State) (peer k n : Nat) (good : Option Nat) : State :=
  let v := siteOfLane k n
  let savedOut := s.helm.steps.fastPath && ((s.field (fieldOfLane k n)).settings).any (fun r => r.laneOut.contains (96 * k + n))
  let l := s.lane k n
  let wrong := l.state = .miswired ∨ l.state = .version
  match (if wrong then none else good) with
  | some step =>
    if savedOut || s.routerDead v.1 v.2 || ! (s.field (fieldOfLane k n)).rails then s.onLane k n (fun l => { l with out := true, state := .training })
    else s.onLane k n (fun l => { Lane.reset with state := .up, ver := 1, peer := peer, peerStep := step, hello := true, sentKA := l.sentKA,
                                                  peerKA := l.peerKA, synced := true })
  | none =>
    let st := if wrong then l.state else .training
    let s1 := s.onLane k n (fun _ => { Lane.reset with state := st, out := true, ver := l.ver, peer := l.peer, peerStep := l.peerStep })
    if savedOut then s1
    else (s1.fwLog { recOf 0x32 .firmware with flags := 1, index := laneIndex k n }).arise reasonLosses

/-- FRS_MODULES in every store: modules with a lane up. -/
def State.storeModules (s : State) : State :=
  let bits := (List.range 4).foldl (fun w m => setBit w m ((List.range 6).any (fun k =>
    portPeer s.helm.pins.topo s.myMod k = some m && (List.range 96).any (fun n => (s.lane k n).state = .up)))) (0 : Word)
  (List.range 144).foldl (fun s f => s.onField f (fun q => { q with frsModules := bits })) s

/-- Lane blocks of the field records, on the full path. -/
def State.saveLanes (s : State) : State :=
  if s.helm.steps.fastPath then s
  else (List.range 144).foldl (fun s f =>
    let mine := (List.range 576).filter (fun i => fieldOfLane (i / 96) (i % 96) = f)
    let outs := mine.filter (fun i => (s.lane (i / 96) (i % 96)).out)
    let ins := mine.filter (fun i => (s.lane (i / 96) (i % 96)).state = .up)
    s.onField f (fun q => { q with settings := q.settings.map (fun r => { r with lanesOk := true, laneIn := ins, laneOut := outs }) })) s

/-- PEERS: lanes by the outcome of their training and test. -/
def State.startPeers (s : State) (good : Nat → Nat → Option Nat) : State :=
  let topo := s.helm.pins.topo
  if topo = 3 then s.failStep reasonTopo 0
  else
    let s1 := s.onSteps (fun t => { t with fast := t.fastPath })
    let s2 := (List.range 6).foldl (fun s k => match portPeer topo s.myMod k with
      | none => s
      | some m => (List.range 96).foldl (fun s n => s.placeLane m k n (good k n)) s) s1
    (s2.saveLanes.storeModules).endStep

def execPeers (good : List (Nat × Nat × Nat)) (s : State) : Res :=
  if good.any (fun v => decide (6 ≤ v.1 ∨ 96 ≤ v.2.1)) then .fault .noSuchLane
  else .next (s.inStep 10 (fun s => s.startPeers (fun k n => (good.find? (fun v => v.1 = k && v.2.1 = n)).map (·.2.2))))

/-- READY: the summary on the full path, fields Underway, idle timers, a chain for each partition (R231), integrity counts from zero
(R238), service. -/
def State.enterService (s : State) : State :=
  let count := s.helm.log.count
  let crcs := s.recordCrcs
  let sum := fun (h : Helm) (v : Summary) =>
    if h.steps.fastPath then v else { v with valid := decide (v.down.length ≤ 1024), major := h.fw.major, logPos := count, fieldCrc := crcs }
  let s0 := ((List.range 4).foldl State.newChain s).takeCounts (fun _ => true)
  let s1 := s0.onHelm (fun h => { h with summary := sum h h.summary, service := true, readyPos := some count, mcPhase := false,
                                         nextRunId := 0, counters := [], portCnt := [] })
  let s2 := (s1.fieldsUp.filter (fun f => (s1.field f).locked)).foldl (fun s f => s.onField f (fun q =>
    { q with power := .underway, gates := 0, fieldGate := false, idleSince := some s.cycle, lullTry := none })) s1
  s2.endStep

def execReady (s : State) : Res := .next (s.inStep 11 State.enterService)

/-! ### STEP_TIMEOUT (R363, R364) -/

/-- Maximum time of a step in ms. -/
def stepMax (n : Nat) (fast : Bool) : Nat :=
  match n with
  | 1 => 50
  | 2 => 100
  | 3 => 100
  | 4 => if fast then 600 else 70000
  | 5 => 100
  | 6 => 300
  | 7 => if fast then 2000 else 8000
  | 8 => 500
  | 9 => 2000
  | 10 => if fast then 1500 else 30000
  | _ => 50

/-- STEP_TIMEOUT: TOWERS and PEERS shed what remains; every other step fails. `unfinished` names towers by field, or lanes by
96 × port + lane; on the fast path what is unfinished has fallen back to full training, so the maximum of a cold start applies (R364). -/
def State.timeout (s : State) (unfinished : List Nat) : State :=
  let t := s.helm.steps
  let fast := (if t.step = 4 then s.fastFails.isNone else t.fastPath) && ! ((t.step = 4 || t.step = 10) && unfinished ≠ [])
  if t.state ≠ 1 ∨ s.cycle < t.since + stepMax t.step fast * msec then s
  else if t.step = 4 then s.startTowers [] unfinished.contains
  else if t.step = 10 then s.startPeers (fun k n => if unfinished.contains (96 * k + n) then none else some (s.lane k n).peerStep)
  else s.failStep reasonTimeout 0

def execStepTimeout (unfinished : List Nat) (s : State) : Res := .next (s.timeout unfinished)

/-! ### MODULE_RESET (R339, R348) -/

/-- Microcode as a reset leaves it: the store keeps its chunks. -/
def Microcode.held (m : Microcode) : Microcode := { m with complete := false, crcFail := false, badCrc := 0, crc := 0, expect := 0 }

/-- A base die and its field after a module reset. Rails of a field that was Underway or in Lull stay up; any other field is in
Doldrums. In part DEDUCED, log 30. -/
def Field.moduleReset (q : Field) (draw cycle : Nat) : Field :=
  let kept := q.rails && q.awake
  { Field.reset with
      power := if kept then q.power else .doldrums, rails := kept,
      gates := if kept then q.gates else 0, fieldGate := kept && q.fieldGate, litAt := cycle,
      sr := q.towerRails, tj := q.tj, sensor := q.sensor, td := q.td, tower := q.tower, trained := q.trained, towerRails := q.towerRails,
      railsLatch := q.railsLatch, settings := q.settings,
      mcBase := if kept then tmap (fun _ (m : Microcode) => m.held) q.mcBase else [], lostGen := draw }

/-- Cells keep only their microcode stores. In part DEDUCED, log 30. -/
def State.heldCells (s : State) : Tbl Cell :=
  s.cells.filterMap (fun e => match e.2.mc with
    | some m =>
      let q := s.field (fieldOf (e.1 % 576) (e.1 / 576))
      if q.rails && q.awake then some (e.1, { cellDefault s.fresh e.1 with mc := some m.held }) else none
    | none => none)

/-- A link that trains on one module at 4 GT/s (R339), the first that is not left out. In part DEDUCED, log 47. -/
def Bridge.oneModule (b : Bridge) : Bridge :=
  ({ b with linkUp := true, up := (((List.range 4).filter (fun m => ! b.leftOut.contains m)).take 1), width := 16, rate := 4,
            fullRate := 4 } : Bridge).checkRate

/-- A bridge keeps its configuration space and host link, which drops to one module at 4 GT/s. In part DEDUCED, log 30. -/
def Bridge.moduleReset (b : Bridge) : Bridge :=
  let b1 : Bridge :=
    { Bridge.reset with hostUp := b.hostUp, linkUp := b.linkUp, leftOut := b.leftOut, retryAt := b.retryAt, bar0 := b.bar0,
                        msixCtl := b.msixCtl, capRegs := b.capRegs, msixTable := b.msixTable, msixPending := b.msixPending,
                        posted := b.posted, msix := b.msix, lastRead := b.lastRead }
  if b.linkUp then b1.oneModule else b1

/-- The helm keeps its always-on domain: Logbook, OTP, summary, pins and the position of the last READY. In part DEDUCED, log 30. -/
def Helm.moduleReset (h : Helm) (force : Bool) : Helm :=
  { Helm.reset with
      steps := { Steps.reset with resetForce := force, warm := true }, clocks := { Clocks.reset with drift := h.clocks.drift }, otp := h.otp, log := { h.log with waiting := [] },
      summary := h.summary, pins := { h.pins with thermtrip := false }, readyPos := h.readyPos }

/-- MODULE_RESET: chains sealed, towers in self-refresh, the module's logic reset. In part DEDUCED, log 30. -/
def State.moduleReset (s : State) (force : Bool) : State :=
  let s1 := if s.helm.fw.running then (List.range 4).foldl (fun s p => s.sealHead p) s else s
  let s2 : State := { s1 with
    cells := s1.heldCells, routers := [], fields := (List.range 144).map (fun f => (f, (s1.field f).moduleReset s1.fresh s1.cycle)), lanes := [],
    bridges := tmap (fun _ b => b.moduleReset) s1.bridges, partitions := [], sessions := [], helm := s1.helm.moduleReset force }
  s2.draw.hwLog { recOf 0x01 .logger with detail := [1] }

/-- The reset command, in every state of the steps while the input is in range. -/
def execModuleReset (forceFull : Bool) (s : State) : Res := if s.helm.pins.inRange then .next (s.moduleReset forceFull) else .next s

end Sys2Proof.Machine
end

