-- ==== Sys2Proof/Machine/Service.lean ====
section
/-!
DEFINITION. The module's supplies and pins (R394-R402, R409), the service network (R28), host-link events (R265, R266, R290), SMBus
telemetry (R410, R411) and JTAG (R412).
-/
namespace Sys2Proof.Machine

/-! ### The 48 V input (R370, R398, R400) -/

/-- What the logger still writes when the input is lost: the record it is writing, given ones, POWER_LOSS; then it stops. In part DEDUCED, log 31. -/
def Logbook.lastWrites (l : Logbook) (mono : Nat) (rs : List LogRec) : Logbook :=
  let l1 := l.writeOne mono
  let put := fun (l : Logbook) (r : LogRec) =>
    let w := { r with mono := mono, wall := l.wall, flags := r.flags + (if l.wallOk then 4 else 0) }
    if l.may w then l.put w else l.loseOne
  { (rs ++ [recOf 0x02 .logger]).foldl put l1 with queue := [], waiting := [], dropped := 0, stopped := true }

/-- A step in progress fails with SUPPLY (R342). -/
def Steps.supplyLost (t : Steps) : Steps :=
  if t.state = 1 then { Steps.reset with step := t.step, state := 4, reason := if t.reason = 0 then reasonSupply else t.reason } else Steps.reset

/-- The module without power: only MRAM, fuses, straps and the monotonic count remain. In part DEDUCED, log 31. -/
def State.dead (s : State) (log : Logbook) : State :=
  { s with
    cells := [], routers := [], fields := [], lanes := [], partitions := [], sessions := [],
    bridges := tmap (fun _ (b : Bridge) => { Bridge.reset with hostUp := b.hostUp, posted := b.posted, msix := b.msix }) s.bridges,
    helm := { Helm.reset with
      steps := s.helm.steps.supplyLost, otp := s.helm.otp, log := log,
      pins := { Pins.reset with inRange := false, modId := s.helm.pins.modId, topo := s.helm.pins.topo } } }

/-- INPUT_OUT_OF_RANGE: power stages and tower rails latch off and the module stops. -/
def State.inputLost (s : State) (rs : List LogRec) : State :=
  if s.helm.pins.inRange then s.dead (s.helm.log.lastWrites s.mono rs) else s

/-- In part DESIGN CHOICE, log 10. -/
def execInputOutOfRange (s : State) : Res := .next (s.inputLost [])

/-- RIM_DIE_OVERTEMP: as an input loss, with its own record. In part DEDUCED, log 31. -/
def execRimDieOvertemp (s : State) : Res :=
  .next (s.inputLost [{ recOf 0x35 .logger with flags := 1, code := thermalCritical }])

/-- A bridge whose host die runs trains its link on one module at 4 GT/s (R339). -/
def Bridge.firstLink (b : Bridge) : Bridge := if b.hostUp then b.oneModule else b

/-- The logger at power-up: it resumes after the newest record and writes POWER_ON; the wall-time mark is lost (R370, R371). -/
def Logbook.resume (l : Logbook) : Logbook :=
  { l with queue := [], waiting := [], dropped := 0, lost := 0, wall := 0, wallOk := false, heldLo := [], capture := [], lastWrite := 0,
           stopped := false }

/-- INPUT_IN_RANGE: a cold start. MONO resumes at one more than that of the newest record. In part DEDUCED, log 31. -/
def State.powerUp (s : State) : State :=
  if s.helm.pins.inRange then s
  else
    let mono := match s.helm.log.ring with
      | r :: _ => r.mono + 1
      | [] => 0
    let l := s.helm.log.resume
    let on := { recOf 0x01 .logger with mono := mono }
    let l1 := if l.may on then l.put on else l.loseOne
    { s with mono := mono, bridges := tmap (fun _ b => b.firstLink) s.bridges,
             helm := { s.helm with steps := Steps.reset, log := l1, pins := { s.helm.pins with inRange := true } } }

def execInputInRange (s : State) : Res := .next s.powerUp

/-- RESET_N: a pulse of 1 µs or more, with no effect while the input is out of range. -/
def execResetN (s : State) : Res := if s.helm.pins.inRange then .next (s.moduleReset false) else .next s

/-- HOST_DIE_START. -/
def execHostDieStart (s : Nat) (st : State) : Res :=
  st.onSite s (fun st => st.onBridge s (fun b =>
    if b.hostUp then b
    else
      let b1 := { b with hostUp := true }
      if st.helm.pins.inRange then b1.firstLink else b1))

/-! ### Tower rails (R402) -/

/-- TOWER_RAIL_OVERCURRENT: the tower's rails and VCORE latch off; the field is lost, its tower withdrawn, its contents gone. -/
def State.towerTrip (s : State) (f : Nat) : State :=
  if ! (s.field f).towerRails then s
  else
    let s1 := (s.powerLost f).withdraw f
    (s1.onField f (fun q => { q with towerRails := false, railsLatch := true, trained := false, sr := false, tower := Memory.lost (genOf s1.fresh f) })).draw

def execTowerRailOvercurrent (f : Nat) (s : State) : Res := s.onFld f (fun s => s.towerTrip f)

/-! ### The service network (R28) -/

/-- SERVICE_PARENT_TIMEOUT: the primary parent of base die `f` has stopped answering; firmware switches `f`, and then each further
base die of its column that cannot be reached through its own primary (R28). In part DEDUCED, log 32. -/
def State.switchParent (s : State) (f : Nat) : State :=
  let s1 := s.onField f (fun q => { q with primaryDead := true })
  if s.helm.fw.running then (span (f / 12) (12 - f / 12)).foldl (fun t r => t.toAlt (12 * r + f % 12)) s1 else s1

def execServiceParentTimeout (f : Nat) (s : State) : Res := s.onFld f (fun s => s.switchParent f)

/-! ### Host-link events (R265, R266, R290) -/

/-- HOST_MODULE_RETRY: once per second; a module that trains joins the link. -/
def Bridge.retry (b : Bridge) (m cycle : Nat) (good : Bool) : Bridge :=
  if ! b.linkUp || ! b.leftOut.contains m || decide (cycle < b.retryAt + 1000 * msec) then b
  else
    let b1 := { b with retryAt := cycle }
    if good then { b1 with leftOut := b.leftOut.filter (fun k => k ≠ m), up := if b.keepAlive then b.up else b.up ++ [m] } else b1

def execHostModuleRetry (s m : Nat) (good : Bool) (st : State) : Res :=
  if 4 ≤ m then .fault .noSuchPart else st.onSite s (fun st => st.onBridge s (fun b => b.retry m st.cycle good))

/-- HOST_LINK_RETRAIN: in the keep-alive at the first admission or a CXL.mem access (R290), and of a link below the rate of R266. The
operands are the modules that train, their width and the highest rate of both ends. In part DEDUCED, log 47. -/
def execHostLinkRetrain (s : Nat) (modules : List Nat) (width rate : Nat) (st : State) : Res :=
  st.onSite s (fun st => st.onBridge s (fun b =>
    if (b.keepAlive || b.slow) && b.trainable modules width rate then b.train modules width rate st.rateCap else b))

/-- The link as given is weaker than it was: some module of it is lost, or its width or rate is lower. -/
def Bridge.weaker (b : Bridge) (modules : List Nat) (width rate : Nat) : Bool :=
  modules.all b.up.contains && (decide (modules.length < b.up.length) || decide (width < b.width) || decide (rate < b.rate)) &&
    decide (width ≤ b.width) && decide (rate ≤ b.rate)

/-- LINK_DEGRADED: the link as it now runs, outside the keep-alive; modules that no longer train are left out (R265), and below 64 GB/s
of payload the bridge says so (R266). In part DEDUCED, log 47. -/
def execLinkDegraded (s : Nat) (modules : List Nat) (width rate : Nat) (st : State) : Res :=
  st.onSite s (fun st => st.onBridge s (fun b =>
    if ! b.keepAlive && b.trainable modules width rate && b.weaker modules width rate then b.train modules width rate st.rateCap else b))

/-! ### SMBus (R410, R411) -/

/-- Sticky bits of SMB_STATUS. -/
def smbSticky : Word := 0x000000FC#32

def State.smbStatus (s : State) : Word :=
  (s.helm.pins.smbStatus &&& smbSticky) ||| word (256 * b2n s.helm.fw.running + 2 * b2n s.helm.clocks.drSet)

/-- ALERT_N is low. -/
def Pins.alert (p : Pins) : Bool := (p.smbStatus &&& smbSticky &&& ~~~ p.smbMask) ≠ 0

/-- A register of the SMBus target; none: the code is not acknowledged. -/
def State.smbReg (s : State) (code : Nat) : Option Word :=
  let p := s.helm.pins
  match code with
  | 0x00 => some deviceId
  | 0x01 => some s.smbStatus
  | 0x02 => some p.smbMask
  | 0x10 => some (word p.vin)
  | 0x11 => some (word p.iin)
  | 0x12 => some (word p.pin)
  | 0x20 => some p.tjMax
  | 0x21 => some p.tdMax
  | 0x22 => some (word p.coolIn)
  | 0x23 => some (word p.coolOut)
  | 0x30 => some p.fields
  | _ => none

/-- SMBUS_BLOCK_READ: the value given, or none when the transaction is not acknowledged. -/
def execSmbusBlockRead (code : Nat) (pecGood : Bool) (s : State) : Res :=
  .next (s.onPins (fun p => { p with smbRead := if p.inRange && pecGood then s.smbReg code else none }))

/-- SMBUS_BLOCK_WRITE: W1C of SMB_STATUS, or the mask; other registers ignore it. In part PRESUMED, log 18. -/
def Pins.smbWrite (p : Pins) (code : Nat) (v : Word) : Pins :=
  match code with
  | 0x01 => { p with smbStatus := p.smbStatus &&& ~~~ (v &&& smbSticky) }
  | 0x02 => { p with smbMask := v &&& 0x000001FE#32 }
  | _ => p

def execSmbusBlockWrite (code : Nat) (v : Word) (pecGood : Bool) (s : State) : Res :=
  .next (s.onPins (fun p => if p.inRange && pecGood then p.smbWrite code v else p))

/-- ALERT_RESPONSE: the module's address, while ALERT_N is low. In part PRESUMED, log 18. -/
def execAlertResponse (s : State) : Res :=
  .next (s.onPins (fun p => { p with smbAra := if p.inRange && p.alert then some (BitVec.ofNat 8 (0x58 + p.modId % 4)) else none }))

/-- The field with the highest temperature, the lowest index of equals, as SMB_TJ_MAX shows it. In part DESIGN CHOICE, log 33. -/
def hotField (temp : Nat → Int) : Word :=
  let f := (List.range 144).foldl (fun a f => if temp a < temp f then f else a) 0
  word (f * 2 ^ 24 + twos 16 (temp f))

/-- Fields in each state. -/
def State.fieldCounts (s : State) : Word :=
  let n := fun (p : PowerState) => ((List.range 144).filter (fun f => (s.field f).power = p)).length
  word (n .underway * 2 ^ 24 + n .lull * 2 ^ 16 + n .doldrums * 2 ^ 8 + n .off)

/-- TELEMETRY_SAMPLE: one sample a millisecond. VIN_LOW and VIN_HIGH need two samples in a row, COOL_HOT 1,001. In part DESIGN CHOICE, log 33. -/
def State.sample (s : State) (mv da watts coolIn coolOut : Nat) (td : Nat × Int) : State :=
  let s1 := s.onField td.1 (fun q => { q with td := td.2 })
  let run := fun (n : Nat) (b : Bool) => if b then n + 1 else 0
  let p := s.helm.pins
  let low := run p.lowSamples (decide (mv < 44000))
  let high := run p.highSamples (decide (56000 < mv))
  let hot := run p.hotSamples (decide (160 < coolIn))
  let set := fun (b : Bool) (k : Nat) (w : Word) => if b then setBit w k true else w
  s1.onPins (fun p => { p with
    vin := mv % 2 ^ 32, iin := da % 2 ^ 32, pin := watts % 2 ^ 32, coolIn := coolIn % 65536, coolOut := coolOut % 65536,
    tjMax := hotField (fun f => (s1.field f).tj), tdMax := hotField (fun f => (s1.field f).td), fields := s1.fieldCounts,
    lowSamples := low, highSamples := high, hotSamples := hot,
    smbStatus := set (decide (1001 ≤ hot)) 4 (set (decide (2 ≤ low)) 3 (set (decide (2 ≤ high)) 2 p.smbStatus)) })

def execTelemetrySample (mv da watts coolIn coolOut : Nat) (td : Nat × Int) (s : State) : Res :=
  if 144 ≤ td.1 then .fault .noSuchField
  else if s.helm.pins.inRange then .next (s.sample mv da watts coolIn coolOut td) else .next s

/-! ### JTAG (R412) -/

/-- IDCODE: version 1, part 0x1152, manufacturer field 0x12C (R412). -/
def jtagIdcode : Word := 0x11152259#32

/-- The data register that the selected instruction shows, where the spec gives its contents. -/
def Pins.jtagData (p : Pins) : Option Word := if p.jtag = 1 then some jtagIdcode else none

/-- JTAG_INSTRUCTION: 1 IDCODE, 2 SAMPLE/PRELOAD, 3 EXTEST before HELM_VERIFY has completed; everything else is BYPASS, 0. In part PRESUMED, log 6. -/
def execJtagInstruction (code : Nat) (s : State) : Res :=
  .next (s.onPins (fun p => { p with jtag := if code = 1 ∨ code = 2 ∨ (code = 3 ∧ s.helm.fw.running = false) then code else 0 }))

end Sys2Proof.Machine
end

