-- ==== Sys2Proof/Machine/Registers.lean ====
section
/-!
DEFINITION. Writes of registers that have no row of their own (R9): bridge registers (R271, R340-R344), the image window (R346), MSI-X
(R287), the HDM decoder (R269), and management space (R168).
-/
namespace Sys2Proof.Machine

/-! ### BRW_STEP_CMD (R340, R343) -/

/-- STEP 1-11 begins a step when R343 accepts it, 15 resets the module; 0 and 12-14 have no effect; any other write is rejected. -/
def State.stepCmd (s : State) (h : Nat) (v : Word) : State :=
  let n := fld v 3 0
  if n = 15 then s.moduleReset (bitB v 31)
  else if n = 0 ∨ 12 ≤ n then s
  else if s.helm.steps.accepts n then s.onSteps (fun t => t.begin_ n (bitB v 30) (bitB v 31) s.cycle)
  else s.onBridge h (fun b => { b with rejected := true })

/-- BRW_STEP_STATUS as a site reads it (R341). -/
def State.stepStatus (s : State) (h : Nat) : Word :=
  let t := s.helm.steps
  word (t.step * 2 ^ 28 + t.state * 2 ^ 25 + b2n t.fast * 2 ^ 24 + b2n (s.bridge h).rejected * 2 ^ 23 + t.reason * 2 ^ 16 + t.code.toNat)

/-! ### Bridge registers (R271) -/

/-- A write of an RWL register of the completion ring. -/
def Bridge.locked (b : Bridge) (f : Bridge → Bridge) : Bridge := if ringOn b then { b with lockedWrites := satInc b.lockedWrites } else f b

/-- Bits that a window register holds (R271). In part DESIGN CHOICE, log 34. -/
def hwinMask (k : Nat) : Word :=
  match k % 4 with
  | 0 => 0xFFFFF001#32
  | 2 => 0xFFFFF000#32
  | _ => 0x0000FFFF#32

/-- A write of a register of the bridge window but BRW_STEP_CMD. In part DESIGN CHOICE, log 34. -/
def Bridge.writeReg (b : Bridge) (off : Nat) (v : Word) : Bridge :=
  if 0x80 ≤ off ∧ off < 0x180 then { b with hwin := tset b.hwin ((off - 0x80) / 4) (v &&& hwinMask ((off - 0x80) / 4)) }
  else match off with
    | 0x008 => if bitB v 0 then b.clrCnt else b
    | 0x014 => if bitB v 23 then { b with rejected := false } else b
    | 0x018 => { b with imgLo := v &&& 0xFFFFFFC1#32 }
    | 0x01C => { b with imgHi := v &&& 0x0000FFFF#32 }
    | 0x040 => { b with clkEn := v &&& 0x0000007E#32 }
    | 0x044 => { b with gatedStatus := b.gatedStatus &&& ~~~ v }
    | 0x050 => { b with evtStatus := b.evtStatus &&& ~~~ v }
    | 0x054 => { b with evtMask := v &&& 0x0000003F#32 }
    | 0x060 => b.locked (fun b => { b with cringBase := join32 (hi32 b.cringBase) (v &&& 0xFFFFF000#32) })
    | 0x064 => b.locked (fun b => { b with cringBase := join32 v (lo32 b.cringBase) })
    | 0x068 => b.setCring v
    | 0x06C => b.setHead v
    | 0x078 => if b.clocked 5 then { b with egressCfg := v &&& 0x0000001F#32 } else b.gatedHit 5
    | 0x200 => if b.clocked 1 then b else b.gatedHit 1
    | 0x204 => b.doorbell v
    | _ => b

/-- A bridge register as its host reads it. -/
def State.readBrw (s : State) (h off : Nat) : Word :=
  let b := s.bridge h
  if 0x80 ≤ off ∧ off < 0x180 then tgetD b.hwin ((off - 0x80) / 4) 0
  else match off with
    | 0x000 => deviceId
    | 0x004 => word (4 * b2n (partExists (s.part h)) + h)
    | 0x014 => s.stepStatus h
    | 0x018 => b.imgLo
    | 0x01C => b.imgHi
    | 0x020 => word (b2n s.helm.fw.running * (2 ^ 31 + s.helm.fw.major % 256 * 256 + 1))
    | 0x040 => b.clkEn
    | 0x044 => b.gatedStatus
    | 0x048 => b.gatedCount
    | 0x04C => b.lockedWrites
    | 0x050 => b.evtStatus
    | 0x054 => b.evtMask
    | 0x058 => lo32 b.evtAddr
    | 0x05C => hi32 b.evtAddr
    | 0x060 => lo32 b.cringBase
    | 0x064 => hi32 b.cringBase
    | 0x068 => b.cringCfg
    | 0x06C => word b.head
    | 0x070 => word b.tail
    | 0x078 => if b.clocked 5 then b.egressCfg else 0
    | 0x200 => if b.clocked 1 then word b.owned.toNat else 0
    | _ => 0

/-- The image window takes a write until HELM_VERIFY runs, and again after it has failed (R346, R365). -/
def State.writeImage (s : State) (h off : Nat) (v : Word) : State :=
  let t := s.helm.steps
  if ! (s.bridge h).clocked 3 then s.onBridge h (fun b => b.gatedHit 3)
  else if s.helm.fw.running || (decide (t.step = 3) && decide (t.state = 1)) then s
  else s.onBridge h (fun b => { b with imgWin := b.imgWin.write (cellsAt off (wordBytes v)) })

/-- The MSI-X table: clearing a vector's mask bit sends what is pending (R287). In part PRESUMED, log 14. -/
def Bridge.writeMsix (b : Bridge) (k : Nat) (v : Word) : Bridge :=
  ({ b with msixTable := tset b.msixTable k (if k % 4 = 3 then v &&& 1#32 else v) } : Bridge).release

/-- The HDM decoder: base in two halves, and the commit bit (R269). In part PRESUMED, log 14. -/
def Bridge.writeHdm (b : Bridge) (off : Nat) (v : Word) : Bridge :=
  match off with
  | 0x10 => { b with hdmBase := join32 (hi32 b.hdmBase) (v &&& 0xF0000000#32) }
  | 0x14 => { b with hdmBase := join32 v (lo32 b.hdmBase) }
  | 0x20 => { b with hdmCommitted := bitB v 9 }
  | _ => b

/-! ### Configuration space and the component registers (R267, R268) -/

/-- A write of a register that R267 names without its layout: what it then reads is free. DESIGN CHOICE, log 65. -/
def Bridge.writeCap (b : Bridge) (k : Nat) (v : Word) : Bridge := { b with capRegs := tset b.capRegs k v }

def Bridge.readCap (b : Bridge) (k : Nat) : Word := Config.capReg k (tgetD b.capRegs k 0)

/-- A place among the DVSECs, apart from those of the component registers. -/
def dvsecKey (k w : Nat) : Nat := 0x10000 + 4 * (3 * w + k)

/-- A write of configuration space: BAR0 is 64-bit, non-prefetchable, 64 MiB (R268). In part PRESUMED, log 14. -/
def Bridge.writeCfg (b : Bridge) (r : CfgReg) (v : Word) : Bridge :=
  match r with
  | .bar0Lo => { b with bar0 := join32 (hi32 b.bar0) (v &&& 0xFC000000#32) }
  | .bar0Hi => { b with bar0 := join32 v (lo32 b.bar0) }
  | .msixControl => b.writeMsixCtl v
  | .dvsec k w => b.writeCap (dvsecKey k w) v
  | .ids | .classRev | .bar _ => b

/-- Configuration space as the host reads it (R268). In part PRESUMED, log 14. -/
def Bridge.readCfg (b : Bridge) (r : CfgReg) : Word :=
  match r with
  | .ids => 0x11521F2C#32
  | .classRev => word (0x120000 * 2 ^ 8 + fld deviceId 15 8)
  | .bar0Lo => lo32 b.bar0 ||| 4#32
  | .bar0Hi => hi32 b.bar0
  | .bar _ => 0
  | .msixControl => b.msixCtl ||| 3#32
  | .dvsec k w => b.readCap (dvsecKey k w)

/-- The component registers: the HDM decoder, and the rest (R267, R270). -/
def Bridge.writeComponent (b : Bridge) (off : Nat) (v : Word) : Bridge :=
  if Config.hdmOffset ≤ off ∧ off < Config.hdmOffset + 0x40 then b.writeHdm (off - Config.hdmOffset) v else b.writeCap off v

/-- HDM decoder 0 as the host reads it: base, size, and Committed beside Commit. In part PRESUMED, log 14. -/
def Bridge.readHdm (b : Bridge) (off : Nat) : Word :=
  match off with
  | 0x10 => lo32 b.hdmBase
  | 0x14 => hi32 b.hdmBase
  | 0x18 => word (b.hdmSize % 2 ^ 32)
  | 0x1C => word (b.hdmSize / 2 ^ 32)
  | 0x20 => word (b2n b.hdmCommitted * 0x600)
  | _ => b.readCap (Config.hdmOffset + off)

/-! ### BAR0 (R270) -/

/-- A write of BAR0: the structure that holds the offset; a reserved region ignores it. -/
def State.writeBar0 (s : State) (h off : Nat) (v : Word) : Res :=
  if off = 0x10 then s.onSite h (fun s => s.stepCmd h v)
  else if off < 0x10000 then s.onSite h (fun s => s.onBridge h (fun b => b.writeReg off v))
  else if off < 0x11000 then s.onSite h (fun s => s.onBridge h (fun b => b.slotWrite ((off - 0x10000) / 256) (off % 256) (wordBytes v)))
  else if 0x20000 ≤ off ∧ off < 0x30000 then s.onSite h (fun s => s.onBridge h (fun b => b.writeComponent (off - 0x20000) v))
  else if 0x30000 ≤ off ∧ off < 0x30040 then s.onSite h (fun s => s.onBridge h (fun b => b.writeMsix ((off - 0x30000) / 4) v))
  else if off = 0x400010 then execLogWallLoWrite h v s
  else if off = 0x400014 then execLogWallHiWrite h v s
  else if 0x400000 ≤ off ∧ off < 0x800000 then
    s.onSite h (fun s => s.onBridge h (fun b => if b.clocked 2 then b else b.gatedHit 2))
  else if 0x1000000 ≤ off ∧ off < 0x1800000 then s.onSite h (fun s => s.writeImage h (off - 0x1000000) v)
  else s.onSite h (fun s => s)

/-- The 4 MiB of the Logbook (R366, R372): registers, fence table, record ring. -/
def State.readLogbook (s : State) (h off : Nat) : Word :=
  let l := s.helm.log
  if off < 0x40 then s.logReg h off
  else if off < 0x100 then 0
  else if off < 0x1000 then lgetD l.fences ((off - 0x100) / 4) 0
  else match l.ring.find? (fun r => r.seq % ringPlaces = (off - 0x1000) / 64) with
    | some r => word (leAt r.bytes ((off - 0x1000) % 64) 4)
    | none => 0

/-- BAR0 as the host reads it, without what a read changes (R289, R371); what a gated block would show is zero. -/
def State.readBar0 (s : State) (h off : Nat) : Word :=
  let b := s.bridge h
  if off < 0x10000 then s.readBrw h off
  else if off < 0x11000 then (if b.clocked 1 then word (leNat ((List.range 4).map (fun k => tgetD b.slotBytes (off - 0x10000 + k) 0))) else 0)
  else if 0x20000 ≤ off ∧ off < 0x30000 then
    (if Config.hdmOffset ≤ off - 0x20000 ∧ off - 0x20000 < Config.hdmOffset + 0x40 then b.readHdm (off - 0x20000 - Config.hdmOffset)
     else b.readCap (off - 0x20000))
  else if 0x30000 ≤ off ∧ off < 0x30040 then tgetD b.msixTable ((off - 0x30000) / 4) (if off % 16 = 12 then 1 else 0)
  else if off = 0x31000 then word b.msixPending.toNat
  else if 0x400000 ≤ off ∧ off < 0x800000 then (if b.clocked 2 then s.readLogbook h (off - 0x400000) else 0)
  else if 0x1000000 ≤ off ∧ off < 0x1800000 then (if b.clocked 3 && ! s.helm.fw.running then word (leNat (b.imgWin.read (off - 0x1000000) 4)) else 0)
  else 0

/-! ### REGISTER_WRITE -/

/-- A 32-bit register at an offset below `n`. -/
def aligned (off n : Nat) (r : Res) : Res := if off % 4 = 0 ∧ off < n then r else .fault .noSuchPart

/-- REGISTER_WRITE: one 32-bit write. A router, cell or store without power takes none; a base die takes one in every state (R338). In part DESIGN CHOICE, log 10; DESIGN CHOICE, log 34. -/
def execRegisterWrite (r : RegTarget) (v : Word) (s : State) : Res :=
  match r with
  | .bar0 h off => aligned off 0x4000000 (s.writeBar0 h off v)
  | .config h reg => s.onSite h (fun s => s.onBridge h (fun b => b.writeCfg reg v))
  | .clkStatus => .next (s.onClocks (fun c => c.clearFail v))
  | .brw h off => aligned off 0x10000 (s.onSite h (fun s => if off = 0x10 then s.stepCmd h v else
      s.onBridge h (fun b => b.writeReg off v)))
  | .image h off => aligned off 0x800000 (s.onSite h (fun s => s.writeImage h off v))
  | .msix h off => aligned off 0x40 (s.onSite h (fun s => s.onBridge h (fun b => b.writeMsix (off / 4) v)))
  | .component h off => aligned off 0x10000 (s.onSite h (fun s => s.onBridge h (fun b => b.writeHdm off v)))
  | .unit0 x y off =>
    if ! siteOk x y then .fault .noSuchSite
    else aligned off 0x10000 (.next (if (s.field (fieldOf x y)).rails then s.writeSite x y off v else s))
  | .baseDie f off => aligned off 0x10000 (s.onFld f (fun s =>
      if off = 0x200 ∧ fld v 2 0 = 5 then s.powerLost f else s.writeBase f off v))
  | .store f off => aligned off 0x10000 (s.onFld f (fun s =>
      if (s.field f).rails then s.onField f (fun q => q.writeStore off v) else s))

end Sys2Proof.Machine
end

