-- ==== Sys2Proof/Machine/FnUnits.lean ====
section
/-!
DEFINITION. The F-cell functions (R78, R79): each result is some FP32 value within the bound of R78 of the function, which
one is `Config.fnOffset` (DEDUCED, log 12); RCP, the exact cases and the special inputs are fixed.
-/
namespace Sys2Proof.Machine

/-- Fraction bits of the fixed-point numbers the functions are located with. -/
def fxBits : Nat := 320

def fxOne : Int := 2 ^ fxBits

def fxMul (a b : Int) : Int := a * b / fxOne

/-- ln 2, log2 e and pi, times 2^320. -/
def fxLn2 : Int := 0xB17217F7D1CF79ABC9E3B39803F2F6AF40F343267298B62D8A0D175B8BAAFA2BE7B876206DEBAC98
def fxLog2e : Int := 0x171547652B82FE1777D0FFDA0D23A7D11D6AEF551BAD2B4B1164A2CD9A342648FBC3887EEAA2ED9AC
def fxPi : Int := 0x3243F6A8885A308D313198A2E03707344A4093822299F31D0082EFA98EC4E6C89452821E638D01377

/-- A dyadic number in fixed point, rounded down. -/
def fxOf (d : Dyadic) : Int :=
  let k := d.e + fxBits
  if 0 ≤ k then d.m * 2 ^ k.toNat else d.m / 2 ^ (-k).toNat

def fxDy (z : Int) : Dyadic := { m := z, e := -(fxBits : Int) }

/-- Terms t^k / k! summed with the signs that `sgn` gives. -/
def fxSeries (t : Int) (n : Nat) (sgn : Nat → Int) : Int :=
  ((List.range n).foldl (fun (a : Int × Int) k => (a.1 + sgn k * a.2, fxMul a.2 t / (k + 1))) (0, fxOne)).1

/-- 2^d for a fixed-point d. -/
def exp2Fx (d : Int) : Dyadic :=
  (fxDy (fxSeries (fxMul (d % fxOne) fxLn2) 90 (fun _ => 1))).scale (d / fxOne)

def sinFx (t : Int) : Int := fxSeries t 90 (fun k => if k % 4 = 1 then 1 else if k % 4 = 3 then -1 else 0)
def cosFx (t : Int) : Int := fxSeries t 90 (fun k => if k % 4 = 0 then 1 else if k % 4 = 2 then -1 else 0)

/-- log2 of a fixed-point number in [1, 2): 150 bits by squaring. -/
def log2Fx (y : Int) : Dyadic :=
  let r := (List.range 150).foldl (fun (a : Int × Int) _ =>
    let z := fxMul a.1 a.1
    if 2 * fxOne ≤ z then (z / 2, 2 * a.2 + 1) else (z, 2 * a.2)) (y, 0)
  { m := r.2, e := -150 }

/-- Integer square root by bits. -/
def isqrt (n : Nat) : Nat :=
  (List.range 260).foldl (fun r k =>
    let b := 2 ^ (259 - k)
    if (r + b) * (r + b) ≤ n then r + b else r) 0

/-- e^(-x) for |x| at most 200. -/
def expNeg (d : Dyadic) : Dyadic := exp2Fx (-(fxMul (fxOf d) fxLog2e))

/-- A quotient of fixed-point numbers with 2 * fxBits bits of fraction. -/
def fxDiv (a b : Int) : Dyadic := { m := a * fxOne * fxOne / b, e := -(2 * (fxBits : Int)) }

/-- The FP32 value delivered for a function near `v`: the correctly rounded one moved by `Config.fnOffset`, when that stays
within `k` ulp or 2^-a of the function, else the correctly rounded one (R78, DEDUCED, log 12). -/
def fnPick (fn : Nat) (x : Word) (v : Dyadic) (k : Nat) (a : Option Nat) : Nat :=
  let n : Nat := (fp32.roundD v).1
  let mag : Nat := n % 2147483648
  let cand : Int := (mag : Int) + Config.fnOffset fn x
  let ulp : Int := max (((mag / 8388608 : Nat) : Int) - 150) (-149)
  let tol := Dyadic.max { m := (k : Int), e := ulp } (match a with
    | some b => { m := 1, e := -(b : Int) }
    | none => Dyadic.zero)
  if 0 ≤ cand ∧ cand ≤ 0x7F7FFFFF ∧ ((fp32.val (n - mag + cand.toNat)).dy.add v.neg).abs.le tol then
    n - mag + cand.toNat
  else n

/-- A tiny positive number below every rounding step. -/
def tinyDy : Dyadic := { m := 1, e := -250 }

/-- Whether a finite value is an integer. -/
def isInteger (d : Dyadic) : Bool := 0 ≤ d.e || d.m % 2 ^ (-d.e).toNat = 0

/-- Floor of a dyadic number. -/
def floorDy (d : Dyadic) : Int := if 0 ≤ d.e then d.m * 2 ^ d.e.toNat else d.m / 2 ^ (-d.e).toNat

/-- Function numbers for `Config.fnOffset`: the opcodes of R49, with 8 for the cosine. In part DEDUCED, log 12. -/
def fnExp2 (x : Word) : Nat × AFlags :=
  match fp32.val x.toNat with
  | .nan => (fp32.nanCode, flNanIn)
  | .inf n => (if n then 0 else fp32.infCode false, 0)
  | .fin n m e =>
    let d := (FVal.fin n m e).dy
    if (Dyadic.mk 128 0).le d then (fp32.infCode false, flOvf)
    else if d.le (Dyadic.mk (-200) 0) then (0, flUnf)
    else if isInteger d then fp32.round false 1 (floorDy d)
    else
      let r := fnPick 1 x (exp2Fx (fxOf d)) 1 none
      (r, flIf (r < 0x00800000) flUnf)

/-- In part DEDUCED, log 12. -/
def fnLog2 (x : Word) : Nat × AFlags :=
  match fp32.val x.toNat with
  | .nan => (fp32.nanCode, flNanIn)
  | .inf n => if n then (fp32.nanCode, flInv) else (fp32.infCode false, 0)
  | .fin n m e =>
    if m = 0 then (fp32.infCode true, 0)
    else if n then (fp32.nanCode, flInv)
    else
      let l := Nat.log2 m
      let i : Int := e + l
      let v := Dyadic.add (Dyadic.mk i 0) (log2Fx (fxOf { m := m, e := -(l : Int) }))
      if m = 2 ^ l then fp32.roundD (Dyadic.mk i 0) else (fnPick 2 x v 1 (some 24), 0)

/-- In part DEDUCED, log 12. -/
def fnRcp (x : Word) : Nat × AFlags :=
  match fp32.val x.toNat with
  | .nan => (fp32.nanCode, flNanIn)
  | .inf n => (fp32.sign n, 0)
  | .fin n m e =>
    if m = 0 then (fp32.infCode n, 0)
    else fp32.round n (2 * (2 ^ 100 / m) + (if 2 ^ 100 % m = 0 then 0 else 1)) (-101 - e)

/-- In part DEDUCED, log 12. -/
def fnRsqrt (x : Word) : Nat × AFlags :=
  match fp32.val x.toNat with
  | .nan => (fp32.nanCode, flNanIn)
  | .inf n => if n then (fp32.nanCode, flInv) else (0, 0)
  | .fin n m e =>
    if m = 0 then (fp32.infCode n, 0)
    else if n then (fp32.nanCode, flInv)
    else
      let m' := if e % 2 = 0 then m else 2 * m
      let h := (if e % 2 = 0 then e else e - 1) / 2
      let v : Dyadic := { m := isqrt (2 ^ 400 / m'), e := -200 - h }
      if m' = 2 ^ Nat.log2 m' ∧ Nat.log2 m' % 2 = 0 then fp32.round false 1 (-(Nat.log2 m' / 2 : Nat) - h)
      else (fnPick 4 x v 1 none, 0)

/-- In part DEDUCED, log 12. -/
def fnSigm (x : Word) : Nat × AFlags :=
  match fp32.val x.toNat with
  | .nan => (fp32.nanCode, flNanIn)
  | .inf n => (if n then 0 else 0x3F800000, 0)
  | .fin n m e =>
    if m = 0 then (0x3F000000, 0)
    else
      let d := (FVal.fin n m e).dy
      let v :=
        if (Dyadic.mk 200 0).le d then (Dyadic.mk 1 0).add tinyDy.neg
        else if d.le (Dyadic.mk (-200) 0) then tinyDy
        else fxDiv fxOne (fxOne + fxOf (expNeg d))
      let r := fnPick 5 x v 2 none
      (r, flIf (r < 0x00800000) flUnf)

/-- In part DEDUCED, log 12. -/
def fnTanh (x : Word) : Nat × AFlags :=
  match fp32.val x.toNat with
  | .nan => (fp32.nanCode, flNanIn)
  | .inf n => (fp32.sign n + 0x3F800000, 0)
  | .fin n m e =>
    if m = 0 then (fp32.sign n, 0)
    else
      let d := (FVal.fin false m e).dy
      let v :=
        if (Dyadic.mk 100 0).le d then (Dyadic.mk 1 0).add tinyDy.neg
        else
          let t := fxOf (expNeg (d.scale 1))
          fxDiv (fxOne - t) (fxOne + t)
      (fnPick 6 x (if n then v.neg else v) 2 (some 25), 0)

/-- sin 2 pi x and cos 2 pi x. In part DEDUCED, log 12. -/
def fnSincos (x : Word) : (Nat × Nat) × AFlags :=
  match fp32.val x.toNat with
  | .nan => ((fp32.nanCode, fp32.nanCode), flNanIn)
  | .inf _ => ((fp32.nanCode, fp32.nanCode), flInv)
  | .fin n m e =>
    let d := (FVal.fin n m e).dy
    if m = 0 then ((fp32.sign n, 0x3F800000), 0)
    else
      let t := fxOf d % fxOne
      let q := 4 * t / fxOne
      let r := 4 * t % fxOne
      if r = 0 then
        ((if q = 1 then 0x3F800000 else if q = 3 then 0xBF800000 else 0,
          if q = 0 then 0x3F800000 else if q = 2 then 0xBF800000 else 0), 0)
      else
        let a := fxMul r (fxPi / 2)
        let sn := sinFx a
        let cs := cosFx a
        let sv := if q = 0 then sn else if q = 1 then cs else if q = 2 then -sn else -cs
        let cv := if q = 0 then cs else if q = 1 then -sn else if q = 2 then -cs else sn
        ((fnPick 7 x (fxDy sv) 2 (some 24), fnPick 8 x (fxDy cv) 2 (some 24)), 0)

/-- A function on the 8 FP32 lanes of an item. -/
def fnLanes (f : Word → Nat × AFlags) (it : Item) : Item × AFlags :=
  let r := (elems 0 it).map (fun c => f (word c))
  (packItem 0 (r.map (·.1)), flAll r)

/-- SINCOS on an item: the sines' item and the cosines' item. -/
def sincosLanes (it : Item) : (Item × Item) × AFlags :=
  let r := (elems 0 it).map (fun c => fnSincos (word c))
  ((packItem 0 (r.map (·.1.1)), packItem 0 (r.map (·.1.2))), flAll r)

/-! ### Reductions (R80) -/

/-- A lane-by-lane reduction step. In part DEDUCED, log 40. -/
def redStep (isMax : Bool) (acc it : List Word) : List Word × AFlags :=
  let r := (List.range 8).map (fun k =>
    let a := (lgetD acc k 0).toNat
    let b := (lgetD it k 0).toNat
    if isMax then fp32.max a b else fp32.add a b)
  (r.map (fun p => word p.1), flAll r)

/-- The result item of a reduction: 8 lanes, or one total in every lane (MOD[0]). -/
def redOut (isMax one : Bool) (l : List Word) : Item × AFlags :=
  if one then
    let op := fun (a b : Nat × AFlags) =>
      let r := if isMax then fp32.max a.1 b.1 else fp32.add a.1 b.1
      (r.1, r.2 ||| a.2 ||| b.2)
    let v := fun k => ((lgetD l k 0).toNat, (0 : AFlags))
    let t := op (op (op (v 0) (v 1)) (op (v 2) (v 3))) (op (op (v 4) (v 5)) (op (v 6) (v 7)))
    (packItem 0 (copies 8 t.1), t.2)
  else (packItem 0 (l.map (·.toNat)), 0)

/-- Rank of TOPK: whether pair `a` is emitted before pair `b` (R80). -/
def topkBefore (a b : Nat × Word) : Bool :=
  let va := fp32.val a.2.toNat
  let vb := fp32.val b.2.toNat
  let gt := if va.isNan then ! vb.isNan else ! vb.isNan && ! va.le vb && ! (va.isZero && vb.isZero)
  let eq := (va.isNan && vb.isNan) || (! va.isNan && ! vb.isNan && ((va.isZero && vb.isZero) || (va.le vb && vb.le va)))
  gt || (eq && a.1 ≤ b.1)

/-- Insertion into the k best pairs. -/
def topkInsert (k : Nat) (l : List (Nat × Word)) (p : Nat × Word) : List (Nat × Word) := (insertBy topkBefore p l).take k

/-- A pair as 8 bytes: identifier, value (R80). -/
def pairBytes (p : Nat × Word) : List Byte := leBytes 4 p.1 ++ leBytes 4 p.2.toNat

/-- The items of TOPK: unused pairs hold identifier 0xFFFF_FFFF and value minus infinity (R80). -/
def topkItems : Nat → List (Nat × Word) → List Item
  | 0, _ => []
  | n + 1, l =>
    itemOf ((l.take 4 ++ copies (4 - min 4 l.length) (0xFFFFFFFF, 0xFF800000#32)).flatMap pairBytes) :: topkItems n (l.drop 4)

end Sys2Proof.Machine
end

