-- ==== Sys2Proof/Machine/SlotsF.lean ====
section
/-!
DEFINITION. Slot firings of F-cells: the functions and the reductions, each on two paths (R49, R78-R80).
-/
namespace Sys2Proof.Machine

/-- Two paths that differ freeze the cell with FUNCTION_MISMATCH; the firing has been issued and no result is written (R49). -/
def twoPath (differ : Bool) (n : Nat) (c : Cell) (f : Fired) : Fired :=
  if differ then { cell := c, sends := [], frz := some (functionMismatch, n, 0), taken := true } else f

/-- A function of one item. -/
def bodyFn (n : Nat) (differ : Bool) (g : Word → Nat × AFlags) (_ : Cls) (c : Cell) (_ : Plan) : Fired :=
  let w := c.slot n
  let r := fnLanes g (c.headItem (sSrc0 w))
  twoPath differ n c (fired ({ c with aflags := c.aflags ||| r.2 }.addOp (opOf c n (c.pulse + 8) (outsOf (dstQs w) r.1))))

/-- EXP2 (R78). -/
def execExp2 (x y n : Nat) (differ : Bool) (s : State) : Res := s.fire x y n (isOf .f 0x01) (bodyFn n differ fnExp2)
/-- LOG2 (R78). -/
def execLog2 (x y n : Nat) (differ : Bool) (s : State) : Res := s.fire x y n (isOf .f 0x02) (bodyFn n differ fnLog2)
/-- RCP (R78). -/
def execRcp (x y n : Nat) (differ : Bool) (s : State) : Res := s.fire x y n (isOf .f 0x03) (bodyFn n differ fnRcp)
/-- RSQRT (R78). -/
def execRsqrt (x y n : Nat) (differ : Bool) (s : State) : Res := s.fire x y n (isOf .f 0x04) (bodyFn n differ fnRsqrt)
/-- SIGM (R78). -/
def execSigm (x y n : Nat) (differ : Bool) (s : State) : Res := s.fire x y n (isOf .f 0x05) (bodyFn n differ fnSigm)
/-- TANH (R78). -/
def execTanh (x y n : Nat) (differ : Bool) (s : State) : Res := s.fire x y n (isOf .f 0x06) (bodyFn n differ fnTanh)

/-- SINCOS gives two items to each DST queue: sines, then cosines one pulse later (R49). -/
def bodySincos (n : Nat) (differ : Bool) (_ : Cls) (c : Cell) (_ : Plan) : Fired :=
  let w := c.slot n
  let r := sincosLanes (c.headItem (sSrc0 w))
  twoPath differ n c (fired ({ c with aflags := c.aflags ||| r.2 }.addOp
    (opOf c n (c.pulse + 8) (outsOf (dstQs w) r.1.1 ++ outsOf (dstQs w) r.1.2))))

/-- SINCOS (R78). -/
def execSincos (x y n : Nat) (differ : Bool) (s : State) : Res := s.fire x y n (isOf .f 0x07) (bodySincos n differ)

/-- The lanes of an input item; a NaN is taken as the canonical one (R62), and raises NAN_IN. -/
def redLanes (it : Item) : List Word × AFlags :=
  let r := (elems 0 it).map (fun v => if (fp32.val v).isNan then (word fp32.nanCode, flNanIn) else (word v, (0 : AFlags)))
  (r.map (·.1), flAll r)

/-- One input item of a reduction; the last of OPB items gives the result (R80). -/
def bodyRed (n : Nat) (differ isMax : Bool) (_ : Cls) (c : Cell) (_ : Plan) : Fired :=
  let w := c.slot n
  let r := c.run n
  let it := redLanes (c.headItem (sSrc0 w))
  let step := if r.red = [] then it else redStep isMax r.red it.1
  let done := redLast w r
  let out := redOut isMax (bitB (BitVec.ofNat 4 (sMod w)) 0) step.1
  let c1 := { c with aflags := c.aflags ||| step.2 ||| (if done then out.2 else 0) }
  twoPath differ n c (fired ((c1.setRun n { r with red := if done then [] else step.1 }).addOp
    (opOf c n (c.pulse + 6) (if done then outsOf (dstQs w) out.1 else []))))

/-- RSUM (R80). -/
def execRsum (x y n : Nat) (differ : Bool) (s : State) : Res := s.fire x y n (isOf .f 0x10) (bodyRed n differ false)
/-- RMAX (R80). -/
def execRmax (x y n : Nat) (differ : Bool) (s : State) : Res := s.fire x y n (isOf .f 0x11) (bodyRed n differ true)

/-- TOPK: input i of the reduction, lane l has identifier 8 (OPC + i) + l (R80). -/
def bodyTopk (n : Nat) (differ : Bool) (_ : Cls) (c : Cell) (_ : Plan) : Fired :=
  let w := c.slot n
  let r := c.run n
  let it := redLanes (c.headItem (sSrc0 w))
  let i := sOpc w + r.count % max 1 (sOpb w)
  let best := ((List.range 8).map (fun l => (8 * i + l, lgetD it.1 l 0))).foldl (topkInsert (sOpa w)) r.pairs
  let done := redLast w r
  let outs := (topkItems ((sOpa w + 3) / 4) best).flatMap (fun v => outsOf (dstQs w) v)
  twoPath differ n c (fired (({ c with aflags := c.aflags ||| it.2 }.setRun n { r with pairs := if done then [] else best }).addOp
    (opOf c n (c.pulse + 10) (if done then outs else []))))

/-- TOPK (R80). -/
def execTopk (x y n : Nat) (differ : Bool) (s : State) : Res := s.fire x y n (isOf .f 0x12) (bodyTopk n differ)

end Sys2Proof.Machine
end

