-- ==== Sys2Proof/Machine/SlotsSteer.lean ====
section
/-!
DEFINITION. The ops common to every class: steering, tokens, CMP and SYNC (R48, R50, R51, R414, R208).
-/
namespace Sys2Proof.Machine

/-- One item to every DST queue after the op's latency. -/
def steerOut (n lat : Nat) (c : Cell) (qs : List Nat) (it : Item) : Fired :=
  fired (c.addOp (opOf c n (c.pulse + lat) (outsOf qs it)))

/-- FWD (R48). -/
def execFwd (x y n : Nat) (s : State) : Res :=
  s.fire x y n (isAny 0x30) (fun _ c _ => steerOut n 1 c (dstQs (c.slot n)) (c.headItem (sSrc0 (c.slot n))))

/-- SEL: the SRC1 item when token bit 0 is 1, else the SRC0 item; the other is discarded (R51). -/
def execSel (x y n : Nat) (s : State) : Res :=
  s.fire x y n (isAny 0x31) (fun _ c _ =>
    let w := c.slot n
    steerOut n 1 c (dstQs w) (if bitB (c.headItem (sCtl w)) 0 then c.headItem (sSrc1 w) else c.headItem (sSrc0 w)))

/-- MERGE: the chosen item; the other input is not touched (R51). -/
def execMerge (x y n : Nat) (s : State) : Res :=
  s.fire x y n (isAny 0x32) (fun _ c _ => steerOut n 1 c (dstQs (c.slot n)) (c.headItem (mergeSrc c (c.slot n))))

/-- ROUTE: the item to the chosen queue (R51). -/
def execRoute (x y n : Nat) (s : State) : Res :=
  s.fire x y n (isAny 0x33) (fun _ c _ => steerOut n 1 c (routeQ c (c.slot n)) (c.headItem (sSrc0 (c.slot n))))

/-- TOKEN: the value OPA[7:0] and zeros (R48, R50). -/
def execToken (x y n : Nat) (s : State) : Res :=
  s.fire x y n (isAny 0x34) (fun _ c _ =>
    let w := c.slot n
    steerOut n 1 c (dstQs w) (BitVec.ofNat 256 (sOpa w % 256)))

/-- CMP: element 0 against the constant; the predicate in pulse t + 2 when PWEN, the item to DST (R48, R414, R45). -/
def execCmp (x y n : Nat) (s : State) : Res :=
  s.fire x y n (isAny 0x35) (fun k c _ =>
    let w := c.slot n
    let it := c.headItem (sSrc0 w)
    let v := cmpVals (sMod w % 4) (valOf (sFmt w) (elem (sFmt w) it 0))
      (valOf (sFmt w) ((sOpbc w).toNat % 2 ^ elemBits (sFmt w)))
    let o := opOf c n (c.pulse + 2) (outsOf (dstQs w) it)
    fired ((c.flag k (flIf v.2 flNanIn)).addOp { o with pred := if sPwen w then some (sPwsel w, v.1) else none }))

/-- SYNC: the operation goes out as a request of class SYNC; the op waits for its response with its place promised
(R48, R200, R208). -/
def bodySync (m x y n : Nat) (_ : Cls) (c : Cell) (_ : Plan) : Fired :=
  let w := c.slot n
  let o := { opOf c n (c.pulse + 1) (outsOf (dstQs w) 0) with fixed := false, waiting := true }
  let r := (c.addOp o).request m x y n o.id (.sync (sMod w = 4) (sOpbc w)) (syncAddr m (sOpa w)) (8 + sMod w) clsSync
    (dword (sOpbc w).toNat) []
  { cell := r.1, sends := [r.2], frz := none, taken := true }

def isSync : Cls → BitVec 128 → Bool := fun _ w => sOp w = 0x38 && sMod w ≤ 4

/-- SYNC (R48). -/
def execSync (x y n : Nat) (s : State) : Res := s.fire x y n isSync (bodySync s.myMod x y n)

end Sys2Proof.Machine
end

