-- ==== Sys2Proof/Machine/Dispatch.lean ====
section
/-!
DEFINITION. The dispatch: one arm for each command, each one direct call of its meaning.
-/
namespace Sys2Proof.Machine

def exec (i : Instr) (s : State) : Host.Outcome State Fault Refusal :=
  match i with
  | .hello h tag => Sys2Proof.Machine.execHello h tag s
  | .queryInfo h tag => Sys2Proof.Machine.execQueryInfo h tag s
  | .partitionSet h tag => Sys2Proof.Machine.execPartitionSet h tag s
  | .programLoad h tag image => Sys2Proof.Machine.execProgramLoad h tag image s
  | .programUnload h tag => Sys2Proof.Machine.execProgramUnload h tag s
  | .sessionOpen h tag => Sys2Proof.Machine.execSessionOpen h tag s
  | .sessionClose h tag => Sys2Proof.Machine.execSessionClose h tag s
  | .run h tag => Sys2Proof.Machine.execRun h tag s
  | .runCancel h tag => Sys2Proof.Machine.execRunCancel h tag s
  | .sound h tag => Sys2Proof.Machine.execSound h tag s
  | .pairSet h tag => Sys2Proof.Machine.execPairSet h tag s
  | .fixFetch h tag => Sys2Proof.Machine.execFixFetch h tag s
  | .attest h tag => Sys2Proof.Machine.execAttest h tag s
  | .logRead h tag => Sys2Proof.Machine.execLogRead h tag s
  | .countersRead h tag => Sys2Proof.Machine.execCountersRead h tag s
  | .linkStatus h tag => Sys2Proof.Machine.execLinkStatus h tag s
  | .powerPolicy h tag => Sys2Proof.Machine.execPowerPolicy h tag s
  | .partitionReset h tag => Sys2Proof.Machine.execPartitionReset h tag s
  | .mbxDoorbell h v => Sys2Proof.Machine.execMbxDoorbell h v s
  | .mbxSlotWrite h slot off data => Sys2Proof.Machine.execMbxSlotWrite h slot off data s
  | .slotTake h => Sys2Proof.Machine.execSlotTake h s
  | .completionRecordWrite h => Sys2Proof.Machine.execCompletionRecordWrite h s
  | .cringHeadWrite h v => Sys2Proof.Machine.execCringHeadWrite h v s
  | .cringCfgWrite h v => Sys2Proof.Machine.execCringCfgWrite h v s
  | .brwClrCnt h => Sys2Proof.Machine.execBrwClrCnt h s
  | .gatedAccess h block write => Sys2Proof.Machine.execGatedAccess h block write s
  | .registerWrite r v => Sys2Proof.Machine.execRegisterWrite r v s
  | .clocks xtalA xtalB links => Sys2Proof.Machine.execClocks xtalA xtalB links s
  | .helmLoad h image => Sys2Proof.Machine.execHelmLoad h image s
  | .helmVerify => Sys2Proof.Machine.execHelmVerify s
  | .towers badChannels => Sys2Proof.Machine.execTowers badChannels s
  | .fieldsPower bad => Sys2Proof.Machine.execFieldsPower bad s
  | .roseLock bad => Sys2Proof.Machine.execRoseLock bad s
  | .meshTest badLinks tables => Sys2Proof.Machine.execMeshTest badLinks tables s
  | .cellMicrocode incomplete => Sys2Proof.Machine.execCellMicrocode incomplete s
  | .defects => Sys2Proof.Machine.execDefects s
  | .peers good => Sys2Proof.Machine.execPeers good s
  | .ready => Sys2Proof.Machine.execReady s
  | .moduleReset forceFull => Sys2Proof.Machine.execModuleReset forceFull s
  | .runOnNextStep => Sys2Proof.Machine.execRunOnNextStep s
  | .stepTimeout unfinished => Sys2Proof.Machine.execStepTimeout unfinished s
  | .dot x y n => Sys2Proof.Machine.execDot x y n s
  | .accOut x y n => Sys2Proof.Machine.execAccOut x y n s
  | .accClr x y n => Sys2Proof.Machine.execAccClr x y n s
  | .vadd x y n differ => Sys2Proof.Machine.execVadd x y n differ s
  | .vmul x y n differ => Sys2Proof.Machine.execVmul x y n differ s
  | .vmax x y n differ => Sys2Proof.Machine.execVmax x y n differ s
  | .vscale x y n => Sys2Proof.Machine.execVscale x y n s
  | .cvt x y n => Sys2Proof.Machine.execCvt x y n s
  | .load x y n => Sys2Proof.Machine.execLoad x y n s
  | .store x y n => Sys2Proof.Machine.execStore x y n s
  | .fwd x y n => Sys2Proof.Machine.execFwd x y n s
  | .sel x y n => Sys2Proof.Machine.execSel x y n s
  | .merge x y n => Sys2Proof.Machine.execMerge x y n s
  | .route x y n => Sys2Proof.Machine.execRoute x y n s
  | .token x y n => Sys2Proof.Machine.execToken x y n s
  | .cmp x y n => Sys2Proof.Machine.execCmp x y n s
  | .sync x y n => Sys2Proof.Machine.execSync x y n s
  | .sread x y n => Sys2Proof.Machine.execSread x y n s
  | .swrite x y n => Sys2Proof.Machine.execSwrite x y n s
  | .dma x y n => Sys2Proof.Machine.execDma x y n s
  | .dmaCompletion x y n => Sys2Proof.Machine.execDmaCompletion x y n s
  | .exp2 x y n differ => Sys2Proof.Machine.execExp2 x y n differ s
  | .log2 x y n differ => Sys2Proof.Machine.execLog2 x y n differ s
  | .rcp x y n differ => Sys2Proof.Machine.execRcp x y n differ s
  | .rsqrt x y n differ => Sys2Proof.Machine.execRsqrt x y n differ s
  | .sigm x y n differ => Sys2Proof.Machine.execSigm x y n differ s
  | .tanh x y n differ => Sys2Proof.Machine.execTanh x y n differ s
  | .sincos x y n differ => Sys2Proof.Machine.execSincos x y n differ s
  | .rsum x y n differ => Sys2Proof.Machine.execRsum x y n differ s
  | .rmax x y n differ => Sys2Proof.Machine.execRmax x y n differ s
  | .topk x y n differ => Sys2Proof.Machine.execTopk x y n differ s
  | .chRead x y n => Sys2Proof.Machine.execChRead x y n s
  | .chWrite x y n => Sys2Proof.Machine.execChWrite x y n s
  | .gatherExpand x y n => Sys2Proof.Machine.execGatherExpand x y n s
  | .gatherSpan x y n => Sys2Proof.Machine.execGatherSpan x y n s
  | .plan x y n => Sys2Proof.Machine.execPlan x y n s
  | .check x y n => Sys2Proof.Machine.execCheck x y n s
  | .hashAdd x y n => Sys2Proof.Machine.execHashAdd x y n s
  | .hashDrain x y n => Sys2Proof.Machine.execHashDrain x y n s
  | .resultWrite x y id => Sys2Proof.Machine.execResultWrite x y id s
  | .start x y => Sys2Proof.Machine.execStart x y s
  | .stop x y => Sys2Proof.Machine.execStop x y s
  | .apply x y => Sys2Proof.Machine.execApply x y s
  | .clrCnt x y => Sys2Proof.Machine.execClrCnt x y s
  | .applyComplete x y => Sys2Proof.Machine.execApplyComplete x y s
  | .idlePoint x y => Sys2Proof.Machine.execIdlePoint x y s
  | .wdogTrip x y => Sys2Proof.Machine.execWdogTrip x y s
  | .streamItemSend x y q => Sys2Proof.Machine.execStreamItemSend x y q s
  | .streamItemArrive x y l ecc => Sys2Proof.Machine.execStreamItemArrive x y l ecc s
  | .creditReturn x y q => Sys2Proof.Machine.execCreditReturn x y q s
  | .staticFlitHop x y l ecc => Sys2Proof.Machine.execStaticFlitHop x y l ecc s
  | .qextGranuleMove x y q => Sys2Proof.Machine.execQextGranuleMove x y q s
  | .joinItemArrive x y l differ ecc => Sys2Proof.Machine.execJoinItemArrive x y l differ ecc s
  | .joinOutput x y o => Sys2Proof.Machine.execJoinOutput x y o s
  | .packetInject x y port ecc => Sys2Proof.Machine.execPacketInject x y port ecc s
  | .packetHop x y port vc ecc => Sys2Proof.Machine.execPacketHop x y port vc ecc s
  | .packetEject x y port vc ecc => Sys2Proof.Machine.execPacketEject x y port vc ecc s
  | .rd x y port => Sys2Proof.Machine.execRd x y port s
  | .rdata x y port => Sys2Proof.Machine.execRdata x y port s
  | .wr x y port => Sys2Proof.Machine.execWr x y port s
  | .wrack x y port => Sys2Proof.Machine.execWrack x y port s
  | .fault x y port => Sys2Proof.Machine.execFault x y port s
  | .syncrsp x y port => Sys2Proof.Machine.execSyncrsp x y port s
  | .mwr x y port => Sys2Proof.Machine.execMwr x y port s
  | .mrd x y port => Sys2Proof.Machine.execMrd x y port s
  | .mcMiss x y port => Sys2Proof.Machine.execMcMiss x y port s
  | .mcDone x y port => Sys2Proof.Machine.execMcDone x y port s
  | .multicastForward x y t port ecc => Sys2Proof.Machine.execMulticastForward x y t port ecc s
  | .mcHoldExpiry x y t port => Sys2Proof.Machine.execMcHoldExpiry x y t port s
  | .linkAliveLoss x y port => Sys2Proof.Machine.execLinkAliveLoss x y port s
  | .flushStatic x y => Sys2Proof.Machine.execFlushStatic x y s
  | .rtrClrCnt x y => Sys2Proof.Machine.execRtrClrCnt x y s
  | .laneMapWrite x y l v => Sys2Proof.Machine.execLaneMapWrite x y l v s
  | .transferTimeout x y tag => Sys2Proof.Machine.execTransferTimeout x y tag s
  | .syncAdd x y => Sys2Proof.Machine.execSyncAdd x y s
  | .syncSub x y => Sys2Proof.Machine.execSyncSub x y s
  | .syncSet x y => Sys2Proof.Machine.execSyncSet x y s
  | .syncSetConfigure x y => Sys2Proof.Machine.execSyncSetConfigure x y s
  | .arrive x y => Sys2Proof.Machine.execArrive x y s
  | .waitGe x y => Sys2Proof.Machine.execWaitGe x y s
  | .waitResend x y tag => Sys2Proof.Machine.execWaitResend x y tag s
  | .clr0 x y => Sys2Proof.Machine.execClr0 x y s
  | .clr1 x y => Sys2Proof.Machine.execClr1 x y s
  | .swClrCnt x y => Sys2Proof.Machine.execSwClrCnt x y s
  | .swWordHiWrite x y k v => Sys2Proof.Machine.execSwWordHiWrite x y k v s
  | .swWordLoRead x y k => Sys2Proof.Machine.execSwWordLoRead x y k s
  | .pwbDrain x y => Sys2Proof.Machine.execPwbDrain x y s
  | .streamLineFetch x y n => Sys2Proof.Machine.execStreamLineFetch x y n s
  | .streamLineArrive x y n => Sys2Proof.Machine.execStreamLineArrive x y n s
  | .invAll x y => Sys2Proof.Machine.execInvAll x y s
  | .pcClrCnt x y => Sys2Proof.Machine.execPcClrCnt x y s
  | .gcClrCnt x y => Sys2Proof.Machine.execGcClrCnt x y s
  | .sgClrCnt x y => Sys2Proof.Machine.execSgClrCnt x y s
  | .sightCompare x y k => Sys2Proof.Machine.execSightCompare x y k s
  | .sramScrub x y t ecc => Sys2Proof.Machine.execSramScrub x y t ecc s
  | .dramScrub f ch ecc => Sys2Proof.Machine.execDramScrub f ch ecc s
  | .dramRefresh f ch bank => Sys2Proof.Machine.execDramRefresh f ch bank s
  | .cxlMemRead h hdm => Sys2Proof.Machine.execCxlMemRead h hdm s
  | .cxlMemWrite h hdm data enables => Sys2Proof.Machine.execCxlMemWrite h hdm data enables s
  | .inputRead h windows => Sys2Proof.Machine.execInputRead h windows s
  | .egressWrite h x y => Sys2Proof.Machine.execEgressWrite h x y s
  | .slackTimeout h => Sys2Proof.Machine.execSlackTimeout h s
  | .outputFinalise h readBack => Sys2Proof.Machine.execOutputFinalise h readBack s
  | .helmReport => Sys2Proof.Machine.execHelmReport s
  | .programSwitch p => Sys2Proof.Machine.execProgramSwitch p s
  | .drainFail p x y => Sys2Proof.Machine.execDrainFail p x y s
  | .runStart p => Sys2Proof.Machine.execRunStart p s
  | .runEnd p => Sys2Proof.Machine.execRunEnd p s
  | .guardExpiry p => Sys2Proof.Machine.execGuardExpiry p s
  | .fixSeal p => Sys2Proof.Machine.execFixSeal p s
  | .partitionResetFinish p => Sys2Proof.Machine.execPartitionResetFinish p s
  | .sounding p failing => Sys2Proof.Machine.execSounding p failing s
  | .frameSend k n => Sys2Proof.Machine.execFrameSend k n s
  | .frameReceive k n cw => Sys2Proof.Machine.execFrameReceive k n cw s
  | .nak k n seq => Sys2Proof.Machine.execNak k n seq s
  | .nakRepeat k n => Sys2Proof.Machine.execNakRepeat k n s
  | .ackTimeout k n => Sys2Proof.Machine.execAckTimeout k n s
  | .linkDown k n => Sys2Proof.Machine.execLinkDown k n s
  | .laneRetrain k n good => Sys2Proof.Machine.execLaneRetrain k n good s
  | .peerHello k n flit => Sys2Proof.Machine.execPeerHello k n flit s
  | .keepAlive k => Sys2Proof.Machine.execKeepAlive k s
  | .peerPacketArrive k n cls => Sys2Proof.Machine.execPeerPacketArrive k n cls s
  | .crystalFail isB => Sys2Proof.Machine.execCrystalFail isB s
  | .crystalGoodAgain isB => Sys2Proof.Machine.execCrystalGoodAgain isB s
  | .deadReckoningEntry => Sys2Proof.Machine.execDeadReckoningEntry s
  | .deadReckoningExit isB unlocked => Sys2Proof.Machine.execDeadReckoningExit isB unlocked s
  | .roseSlip bounds => Sys2Proof.Machine.execRoseSlip bounds s
  | .ungate f => Sys2Proof.Machine.execUngate f s
  | .lull f => Sys2Proof.Machine.execLull f s
  | .railsOff f => Sys2Proof.Machine.execRailsOff f s
  | .railsOn f => Sys2Proof.Machine.execRailsOn f s
  | .trip f => Sys2Proof.Machine.execTrip f s
  | .srEnter f => Sys2Proof.Machine.execSrEnter f s
  | .srExit f => Sys2Proof.Machine.execSrExit f s
  | .pwrGateWrite f hi v => Sys2Proof.Machine.execPwrGateWrite f hi v s
  | .cellGateClose x y => Sys2Proof.Machine.execCellGateClose x y s
  | .cellGateOpen x y => Sys2Proof.Machine.execCellGateOpen x y s
  | .lullIdleExpiry f => Sys2Proof.Machine.execLullIdleExpiry f s
  | .doldrumsIdleExpiry f => Sys2Proof.Machine.execDoldrumsIdleExpiry f s
  | .wakeRequest f => Sys2Proof.Machine.execWakeRequest f s
  | .doldrumsWakeDone f good => Sys2Proof.Machine.execDoldrumsWakeDone f good s
  | .reefStep temps => Sys2Proof.Machine.execReefStep temps s
  | .reefPastFloorExpiry f => Sys2Proof.Machine.execReefPastFloorExpiry f s
  | .tjHotReport f tj => Sys2Proof.Machine.execTjHotReport f tj s
  | .dramHotReport f td => Sys2Proof.Machine.execDramHotReport f td s
  | .thermalShutdown f => Sys2Proof.Machine.execThermalShutdown f s
  | .hwThermalTrip f tj => Sys2Proof.Machine.execHwThermalTrip f tj s
  | .powerStageTrip f => Sys2Proof.Machine.execPowerStageTrip f s
  | .pwrReefWrite f v => Sys2Proof.Machine.execPwrReefWrite f v s
  | .inputInRange => Sys2Proof.Machine.execInputInRange s
  | .inputOutOfRange => Sys2Proof.Machine.execInputOutOfRange s
  | .resetN => Sys2Proof.Machine.execResetN s
  | .rimDieOvertemp => Sys2Proof.Machine.execRimDieOvertemp s
  | .logRecordWrite => Sys2Proof.Machine.execLogRecordWrite s
  | .logWallLoWrite h v => Sys2Proof.Machine.execLogWallLoWrite h v s
  | .logWallHiWrite h v => Sys2Proof.Machine.execLogWallHiWrite h v s
  | .logLoRead h off => Sys2Proof.Machine.execLogLoRead h off s
  | .fenceRenewal => Sys2Proof.Machine.execFenceRenewal s
  | .serviceParentTimeout f => Sys2Proof.Machine.execServiceParentTimeout f s
  | .hostModuleRetry h m good => Sys2Proof.Machine.execHostModuleRetry h m good s
  | .hostLinkRetrain h modules width rate => Sys2Proof.Machine.execHostLinkRetrain h modules width rate s
  | .linkDegraded h modules width rate => Sys2Proof.Machine.execLinkDegraded h modules width rate s
  | .mcPort x y flits => Sys2Proof.Machine.execMcPort x y flits s
  | .mcClear x y => Sys2Proof.Machine.execMcClear x y s
  | .mcVerify x y => Sys2Proof.Machine.execMcVerify x y s
  | .mcReport x y => Sys2Proof.Machine.execMcReport x y s
  | .smbusBlockRead code pecGood => Sys2Proof.Machine.execSmbusBlockRead code pecGood s
  | .smbusBlockWrite code v pecGood => Sys2Proof.Machine.execSmbusBlockWrite code v pecGood s
  | .alertResponse => Sys2Proof.Machine.execAlertResponse s
  | .jtagInstruction code => Sys2Proof.Machine.execJtagInstruction code s
  | .telemetrySample mv da watts coolIn coolOut td => Sys2Proof.Machine.execTelemetrySample mv da watts coolIn coolOut td s
  | .towerRailOvercurrent f => Sys2Proof.Machine.execTowerRailOvercurrent f s
  | .hostDieStart h => Sys2Proof.Machine.execHostDieStart h s
  | .hostReadCompletion h hostTag data => Sys2Proof.Machine.execHostReadCompletion h hostTag data s
  | .bootRomRecordDrop => Sys2Proof.Machine.execBootRomRecordDrop s

end Sys2Proof.Machine
end

