-- ==== Sys2Proof/Machine/Tick.lean ====
section
/-!
DEFINITION. One core cycle (DESIGN CHOICE, log 2): what passes while no command waits. Pulses and reefing (R29, R332), watchdog counts (R54), stall
counters (R59), request ages (R261), retirement reports (R416), idle time (R326), the keep-alive of the host links (R290), and MONO (R371).
-/
namespace Sys2Proof.Machine

/-- Some enabled slot is held only by the room of its DST queues, or only by the items it must pop (R41 rules 5 and 4). In part DEDUCED, log 35. -/
def heldBy (k : Cls) (c : Cell) (out : Bool) : Bool :=
  (enabled c).any (fun n => slotOn c n && (match planOf k c n with
    | some p => planFree c p && (planRoom c p != out) && (planHas c p == out)
    | none => false))

/-- The next pulse of a cell begins; the stall counters count what holds at its start (R41, R59). In part DEDUCED, log 35. -/
def Cell.onePulse (c : Cell) (k : Cls) : Cell :=
  let c1 := { c with pulse := c.pulse + 1, predWas := none, predCmp := 0, wdogWas := none, bankUse := [], accHeld := [], dataWas := none }
  { c1 with outStalls := if heldBy k c1 true then satInc c.outStalls else c.outStalls,
            inStalls := if heldBy k c1 false then satInc c.inStalls else c.inStalls }

/-- One core cycle of the watchdog. -/
def Cell.watch (c : Cell) (k : Cls) : Cell := { c with wdogCount := if (wdogHit k c).isSome then c.wdogCount + 1 else 0 }

/-- Requests grow older, unless some lane replays. -/
def Cell.older (c : Cell) (held : Bool) : Cell :=
  if held then c else { c with reqs := c.reqs.map (fun r => { r with age := r.age + 1 }) }

/-- A full posted write buffer is counted. -/
def Cell.pwbFull (c : Cell) : Cell := if c.pc.pwb.length < 16 then c else c.pcCount 4 1

/-- Some lane asserts the replay-hold net: a replay is in progress at one of its ends, the peer's as its STATE flits say (R301). -/
def State.replaying (s : State) : Bool := s.lanes.any (fun l => l.2.replayUntil.isSome || l.2.recvReplay.isSome || l.2.peerReplay)

/-- One core cycle of a listed cell. -/
def State.tickCell (s : State) (i : Nat) (c : Cell) : Cell :=
  let x := i % 576
  let y := i / 576
  let k := clsOf x y
  if s.bodyOut x y then c
  else
    let c1 := (c.older s.replaying).pwbFull
    if ! s.clocked x y then c1
    else
      let c2 := if k = .c && swallowed s.cycle (s.field (fieldOf x y)).reef.toNat then c1.watch k else (c1.watch k).onePulse k
      if s.quiescent x y then c2 else { c2 with quietSince := c2.pulse }

/-- LOCKED after 65,536 cycles within bounds (R316). -/
def Field.lockUp (q : Field) (cycle : Nat) : Field :=
  if q.lockSince.any (fun t => t + 65536 ≤ cycle) then { q with locked := true, lockSince := none } else q

/-- One core cycle of a listed field: the reef level at the boundary, LOCKED, and the idle time of a field in use. -/
def State.tickField (s : State) (f : Nat) (q : Field) : Field :=
  let q0 := q.lockUp s.cycle
  let q1 := if (s.cycle + 1) % 16 = 0 then { q0 with reef := q0.reefReg } else q0
  if (s.partitions ≠ [] ∨ s.bridges.any (fun b => b.2.executing ≠ [])) ∧ s.inUse f then { q1 with idleSince := some (s.cycle + 1) } else q1

/-- The run at the head starts no sooner than its fields are awake. -/
def State.tickPart (s : State) (p : Nat) (q : Partition) : Partition :=
  match s.headRun p with
  | none => q
  | some (h, _, g) => if s.allUp p g then q else { q with headAt := some { h with at_ := s.cycle + 1 } }

/-- R290: the fields that count for a bridge sleep, and nothing wakes them. In part DEDUCED, log 47. -/
def State.asleep (s : State) (h : Nat) : Bool :=
  let fs := if partExists (s.part h) then rectFields (s.part h).rect else List.range 144
  s.serving && ! s.hasRuns h && fs.all (fun f => f = 4 || ((s.field f).power = .doldrums && (s.field f).waking.isNone))

def State.tickBridge (s : State) (h : Nat) (b : Bridge) : Bridge :=
  if b.linkUp && ! b.keepAlive && s.asleep h then { b with keepAlive := true, up := b.up.take 1, rate := 4 } else b

/-- A period of the slow oscillator ends and MONO counts it; its length is one that R313 allows. DESIGN CHOICE, log 13. -/
def State.tickMono (s : State) : State :=
  if s.slowAt ≤ s.cycle then { s with mono := s.mono + 1, slowAt := s.slowAt + 56847 + (Config.slowSlack s.mono).val } else s

/-- The Pilot timers against the core cycle: apart only in dead reckoning (R319). DESIGN CHOICE, log 13. -/
def Clocks.tick (c : Clocks) (cycle : Nat) : Clocks :=
  if c.drSet && cycle % 20 = 0 then { c with drift := c.drift + (Config.rcDrift cycle).val - 1 } else c

/-- One core cycle. In part DESIGN CHOICE, log 2; DESIGN CHOICE, log 9; DESIGN CHOICE, log 13; DESIGN CHOICE, log 48. -/
def tickCycle (s : State) : State :=
  let s1 : State := { s with
    cells := tmap s.tickCell s.cells, routers := tmap (fun _ (r : Router) => r.moveTails s.cycle) s.routers,
    fields := tmap s.tickField s.fields, partitions := tmap s.tickPart s.partitions, bridges := tmap s.tickBridge s.bridges }
  let s2 := (s.cells.map (·.1)).foldl (fun s i =>
    if (s.cell (i % 576) (i / 576)).owes then s.retireReport (i % 576) (i / 576) else s) s1
  let s3 := (s.partitions.map (·.1)).foldl State.endOverdue s2
  let s4 := s3.tickMono
  { s4 with cycle := s.cycle + 1, helm := { s4.helm with clocks := s4.helm.clocks.tick s.cycle } }

end Sys2Proof.Machine
end

