-- ==== Sys2Proof/Machine/Step.lean ====
section
/-!
DEFINITION. One step of the block: the command at the front of the queue, or one core cycle when the queue is empty (DESIGN CHOICE, log 2).
-/
namespace Sys2Proof.Machine

/-- Take the command at the front and run it on the state with the queue's rest; with no command waiting, one core cycle
passes (DESIGN CHOICE, log 2). In part DESIGN CHOICE, log 1. -/
def step (s : State) : Host.Outcome State Fault Refusal :=
  match s.pending with
  | [] => .next (tickCycle s)
  | c :: rest => exec c { s with pending := rest }

/-- `s` with the command that a word spells put at the front of its queue; the table gives no bits, so no word spells one. In part DESIGN CHOICE, log 1. -/
def State.withFetchWord (s : State) (nbits w : Nat) : State :=
  match decodeTableWord nbits w with
  | some c => { s with pending := c :: s.pending }
  | none => s

end Sys2Proof.Machine
end

