-- ==== Sys2Proof/WellFormed.lean ====
section
/-!
DEFINITION. Well-formed commands: every operand that names an object names one the module has (R6, R17, R23, R30, R132, R291).
-/
namespace Sys2Proof
open Machine

/-- A site of the 576 x 576 mesh (R6). -/
def okSite (x y : Nat) : Bool := siteOk x y
/-- A slot of a cell (R30). -/
def okSlot (x y n : Nat) : Bool := okSite x y && decide (n < 64)
/-- One of `k` parts of a site: 8 queues, 20 lanes, 4 sight entries, 2 sync words, a port. -/
def okPart (x y n k : Nat) : Bool := okSite x y && decide (n < k)
/-- A host site, and so a partition (R23, R241). -/
def okHost (h : Nat) : Bool := decide (h < 4)
/-- A field (R6). -/
def okField (f : Nat) : Bool := decide (f < 144)
/-- A lane of a peer port (R291). -/
def okLane (k n : Nat) : Bool := decide (k < 6) && decide (n < 96)
/-- An aligned 32-bit register below an offset (R9). -/
def okReg (off n : Nat) : Bool := decide (off % 4 = 0) && decide (off < n)

/-- A register that a REGISTER_WRITE can name (R168, R270, R271). -/
def RegTarget.wf : RegTarget → Bool
  | .bar0 h off => okReg off 0x4000000 && okHost h
  | .config h (.bar k) => okHost h && decide (2 ≤ k) && decide (k < 6)
  | .config h (.dvsec k _) => okHost h && decide (k < 3)
  | .config h _ => okHost h
  | .clkStatus => true
  | .brw h off => okReg off 0x10000 && okHost h
  | .image h off => okReg off 0x800000 && okHost h
  | .msix h off => okReg off 0x40 && okHost h
  | .component h off => okReg off 0x10000 && okHost h
  | .unit0 x y off => okSite x y && okReg off 0x10000
  | .baseDie f off => okReg off 0x10000 && okField f
  | .store f off => okReg off 0x10000 && okField f

/-- What a scrub access can name (R162, R184). -/
def ScrubTarget.wf (x y : Nat) : ScrubTarget → Bool
  | .data w => decide (8 * w < storeSize (clsOf x y))
  | .store w => decide (w < 1024)
  | .queue q _ => decide (q < 8)
  | .acc w => decide (clsOf x y = .c) && decide (w < 2048)
  | .hash w => decide (clsOf x y = .g) && decide (w < 8192)
  | .line i w => decide (clsOf x y = .p) && decide (i < 256) && decide (w < 32)
  | .pwb i w => decide (clsOf x y = .p) && decide (i < 16) && decide (w < 8)
  | .hidden => true

/-- A command whose operands name objects of the module. -/
def Instr.wf : Instr → Bool
  | .hello h _ | .queryInfo h _ | .partitionSet h _ | .programLoad h _ _ | .programUnload h _ | .sessionOpen h _
  | .sessionClose h _ | .run h _ | .runCancel h _ | .sound h _ | .pairSet h _ | .fixFetch h _ | .attest h _ | .logRead h _
  | .countersRead h _ | .linkStatus h _ | .powerPolicy h _ | .partitionReset h _ => okHost h
  | .mbxDoorbell h _ | .slotTake h | .completionRecordWrite h | .cringHeadWrite h _ | .cringCfgWrite h _ | .brwClrCnt h => okHost h
  | .mbxSlotWrite h slot off data => okHost h && decide (slot < 16) && decide (off + data.length ≤ 256)
  | .gatedAccess h block _ => okHost h && decide (1 ≤ block) && decide (block < 7)
  | .registerWrite r _ => r.wf
  | .clocks _ _ links => links.all (fun v => okHost v.1)
  | .helmLoad h _ => okHost h
  | .towers bad => bad.all (fun v => okField v.1 && decide (v.2 < 64))
  | .fieldsPower bad | .roseLock bad => bad.all okField
  | .meshTest bad tables => bad.all (fun v => okSite v.1 v.2.1) && tables.all (fun v => okSite v.1 v.2.1)
  | .cellMicrocode l => l.all (fun v => okSite v.1 v.2)
  | .peers good => good.all (fun v => okLane v.1 v.2.1)
  | .helmVerify | .defects | .ready | .moduleReset _ | .runOnNextStep | .stepTimeout _ => true
  | .dot x y n | .accOut x y n | .accClr x y n | .vadd x y n _ | .vmul x y n _ | .vmax x y n _ | .vscale x y n | .cvt x y n
  | .load x y n | .store x y n | .fwd x y n | .sel x y n | .merge x y n | .route x y n | .token x y n | .cmp x y n | .sync x y n
  | .sread x y n | .swrite x y n | .dma x y n | .dmaCompletion x y n | .exp2 x y n _ | .log2 x y n _ | .rcp x y n _
  | .rsqrt x y n _ | .sigm x y n _ | .tanh x y n _ | .sincos x y n _ | .rsum x y n _ | .rmax x y n _ | .topk x y n _
  | .chRead x y n | .chWrite x y n | .gatherExpand x y n | .gatherSpan x y n | .plan x y n | .check x y n | .hashAdd x y n
  | .hashDrain x y n => okSlot x y n
  | .resultWrite x y _ | .start x y | .stop x y | .apply x y | .clrCnt x y | .applyComplete x y | .idlePoint x y
  | .wdogTrip x y => okSite x y
  | .streamItemSend x y q | .creditReturn x y q | .qextGranuleMove x y q => okPart x y q 8
  | .streamItemArrive x y l _ | .staticFlitHop x y l _ | .joinItemArrive x y l _ _ | .joinOutput x y l => okPart x y l 20
  | .packetInject x y port _ => okPart x y port 6
  | .packetHop x y port vc _ | .packetEject x y port vc _ => okPart x y port 6 && decide (vc < 8)
  | .rd x y port | .rdata x y port | .wr x y port | .wrack x y port | .fault x y port | .syncrsp x y port | .mwr x y port
  | .mrd x y port | .mcMiss x y port | .mcDone x y port => okPart x y port 7
  | .multicastForward x y t port _ | .mcHoldExpiry x y t port => okPart x y port 5 && decide (t < 256)
  | .linkAliveLoss x y port => okPart x y port 4
  | .flushStatic x y | .rtrClrCnt x y => okSite x y
  | .laneMapWrite x y l _ => okPart x y l 20
  | .transferTimeout x y _ | .syncAdd x y | .syncSub x y | .syncSet x y | .syncSetConfigure x y | .arrive x y | .waitGe x y
  | .waitResend x y _ | .clr0 x y | .clr1 x y | .swClrCnt x y => okSite x y
  | .swWordHiWrite x y k _ | .swWordLoRead x y k => okPart x y k 2
  | .pwbDrain x y | .streamLineArrive x y _ | .invAll x y | .pcClrCnt x y | .gcClrCnt x y | .sgClrCnt x y => okSite x y
  | .streamLineFetch x y n => okPart x y n 8
  | .sightCompare x y k => okPart x y k 4
  | .sramScrub x y t _ => okSite x y && t.wf x y
  | .dramScrub f ch _ | .dramRefresh f ch _ => okField f && decide (ch < 64)
  | .cxlMemRead h _ | .cxlMemWrite h _ _ _ | .inputRead h _ | .slackTimeout h | .outputFinalise h _ => okHost h
  | .egressWrite h x y => okHost h && okSite x y
  | .helmReport => true
  | .programSwitch p | .runStart p | .runEnd p | .guardExpiry p | .fixSeal p | .partitionResetFinish p => okHost p
  | .drainFail p x y => okHost p && okSite x y
  | .sounding p failing => okHost p && failing.all (fun d => okSite d.1 d.2.1)
  | .frameSend k n | .frameReceive k n _ | .nak k n _ | .nakRepeat k n | .ackTimeout k n | .linkDown k n | .laneRetrain k n _
  | .peerHello k n _ => okLane k n
  | .keepAlive k => decide (k < 6)
  | .peerPacketArrive k n cls => okLane k n && decide (cls < 4)
  | .crystalFail _ | .crystalGoodAgain _ | .deadReckoningEntry => true
  | .deadReckoningExit _ unlocked => unlocked.all okField
  | .roseSlip bounds => bounds.all (fun v => okField v.1 && decide (v.2 < 4))
  | .ungate f | .lull f | .railsOff f | .railsOn f | .trip f | .srEnter f | .srExit f | .pwrGateWrite f _ _ => okField f
  | .cellGateClose x y | .cellGateOpen x y => okSite x y
  | .lullIdleExpiry f | .doldrumsIdleExpiry f | .wakeRequest f | .doldrumsWakeDone f _ | .reefPastFloorExpiry f
  | .tjHotReport f _ | .dramHotReport f _ | .thermalShutdown f | .hwThermalTrip f _ | .powerStageTrip f
  | .pwrReefWrite f _ => okField f
  | .reefStep _ => true
  | .inputInRange | .inputOutOfRange | .resetN | .rimDieOvertemp => true
  | .logRecordWrite | .fenceRenewal | .bootRomRecordDrop => true
  | .logWallLoWrite h _ | .logWallHiWrite h _ => okHost h
  | .logLoRead h off => okHost h && [0x08, 0x10, 0x18, 0x28].contains off
  | .serviceParentTimeout f => okField f
  | .hostModuleRetry h m _ => okHost h && decide (m < 4)
  | .hostLinkRetrain h _ _ _ | .linkDegraded h _ _ _ => okHost h
  | .mcPort x y _ | .mcClear x y | .mcVerify x y | .mcReport x y => okSite x y
  | .smbusBlockRead _ _ | .smbusBlockWrite _ _ _ | .alertResponse | .jtagInstruction _ => true
  | .telemetrySample _ _ _ _ _ td => okField td.1
  | .towerRailOvercurrent f => okField f
  | .hostDieStart h => okHost h
  | .hostReadCompletion h _ _ => okHost h

end Sys2Proof
end

