-- ==== Sys2Proof/Safety.lean ====
section
/-!
DEFINITION. What a safe run is: every step answers a next state.
-/
namespace Sys2Proof.Machine

/-- An outcome that is a next state. -/
def Res.isNext : Res → Bool
  | .next _ => true
  | _ => false

/-- A state from which one step answers a next state. -/
def State.safe (s : State) : Bool := Res.isNext (step s)

/-- Every waiting command is well formed. -/
def State.queueWf (s : State) : Bool := s.pending.all Instr.wf

end Sys2Proof.Machine
end

