-- ==== Sys2Proof/Certificates/Slice0/Obligations.lean ====
section
/-!
DEFINITION. The statements for the provers: what commands do, what they leave unchanged, where they complete, and what every step
keeps.
-/
/-! ### The terms of the statements -/

namespace Sys2Proof.Claims
open Sys2Proof.Machine

/-- Two states that agree on everything but the cell and the router of one site. -/
structure OnlySite (s t : State) (x y : Nat) : Prop where
  pending    : t.pending = s.pending
  cycle      : t.cycle = s.cycle
  mono       : t.mono = s.mono
  slowAt     : t.slowAt = s.slowAt
  fresh      : t.fresh = s.fresh
  fields     : t.fields = s.fields
  lanes      : t.lanes = s.lanes
  bridges    : t.bridges = s.bridges
  partitions : t.partitions = s.partitions
  sessions   : t.sessions = s.sessions
  helm       : t.helm = s.helm
  cells      : ∀ u v, siteIx u v ≠ siteIx x y → t.cell u v = s.cell u v
  routers    : ∀ u v, siteIx u v ≠ siteIx x y → t.router u v = s.router u v

/-- Only the cell of the site differs. -/
structure OnlyCell (s t : State) (x y : Nat) : Prop extends OnlySite s t x y where
  router : t.router x y = s.router x y

/-- Only the cell of the site differs, and packets that wait at its router. -/
structure CellSends (s t : State) (x y : Nat) (l : List Packet) : Prop extends OnlySite s t x y where
  router : t.router x y = { s.router x y with inject := (s.router x y).inject ++ l }

/-- Slot `n` of the cell at (x, y) holds an op that `isOp` accepts, is ready with plan `p` (R41), and is not beaten by a lower slot
(R43). -/
abbrev Issues (s : State) (x y n : Nat) (isOp : Cls → BitVec 128 → Bool) (p : Plan) : Prop :=
  siteOk x y = true ∧ n < 64 ∧ s.bodyOut x y = false ∧ s.clocked x y = true ∧ isOp (clsOf x y) ((s.cell x y).slot n) = true ∧
    slotReady (clsOf x y) (s.cell x y) n = some p ∧ beaten (clsOf x y) (s.cell x y) n p = false

/-- As `Issues`, and neither its words nor its queue entries are uncorrectable (R31). -/
abbrev Ready (s : State) (x y n : Nat) (isOp : Cls → BitVec 128 → Bool) (p : Plan) : Prop :=
  Issues s x y n isOp p ∧ storeHit (s.cell x y) n p = none ∧ queueHit (s.cell x y) p = false

/-- The items that a queue holds, oldest first. -/
def items (c : Cell) (q : Nat) : List Item := ((c.queue q).hw ++ (c.queue q).ring).map (·.data)

/-- What every issue does to its cell: the firing is counted (R59), its units are held (R49), the slot carries on as `r` with its
count advanced (R44), each queue it must pop gives up its head item, once (R32, R42), and owes its stream a credit when it is inbound (R33). -/
structure Issued (s : State) (x y : Nat) (d : Cell) (n : Nat) (p : Plan) (r : SlotRun) : Prop where
  firings : d.firings = satInc (s.cell x y).firings
  units   : ∀ u ∈ p.units, (u, (s.cell x y).pulse + p.hold) ∈ d.busy
  own     : d.run n = { r with count := r.count + 1, left := r.left - 1, retired := lastFiring ((s.cell x y).slot n) r }
  others  : ∀ m, m ≠ n → d.run m = (s.cell x y).run m
  popped  : ∀ q, (d.queue q).hw = if q ∈ p.pops then ((s.cell x y).queue q).hw.drop 1 else ((s.cell x y).queue q).hw
  ring    : ∀ q, (d.queue q).ring = ((s.cell x y).queue q).ring
  credits : ∀ q, (d.queue q).credits = ((s.cell x y).queue q).credits
  owed    : ∀ q, (d.queue q).owed = ((s.cell x y).queue q).owed ++
    if q ∈ p.pops ∧ qDir (s.cell x y) q = 1 then [(s.cycle, [])] else []

/-- One op more is in flight: its results, and the pulse in which it writes them (R42). -/
abbrev Promised (c d : Cell) (n due : Nat) (outs : List (Nat × Item)) : Prop :=
  ∃ o : Op, d.ops = c.ops ++ [o] ∧ o.id = c.nextOp ∧ o.slot = n ∧ o.due = due ∧ o.outs = outs ∧ o.waiting = false ∧
    o.fixed = true ∧ o.promised = true ∧ o.adds = [] ∧ o.pred = none

/-- A cell without what an issue changes: queues, slot runs, units, firings, ops in flight, and the flag word. -/
def rest (c : Cell) : Cell :=
  { c with queues := [], runs := [], busy := [], firings := 0, ops := [], nextOp := 0, aflags := 0,
           lastIssue := none }

/-- As `rest`, without what reading and writing storage through descriptors changes too. -/
def restMem (c : Cell) : Cell := { rest c with walk := [], data := Memory.zero, dataWas := none, eccFixed := 0 }

/-- As `restMem`, without the requests sent and the transfers open. -/
def restReq (c : Cell) : Cell := { restMem c with reqs := [], nextTag := 0, dmas := [] }

/-- The descriptor that a source names (R39). -/
def srcIx (code i : Nat) : List Nat := if code = 8 then [i] else []

/-- Walk positions after one step of each listed descriptor (R89). -/
def stepped (c : Cell) (l : List Nat) (i : Nat) : Nat := if i ∈ l then (c.walkPos i + 1) % (c.desc i).steps else c.walkPos i

/-- The firing of a slot that takes its operands from queues: nothing but the issue, one op more, and flags. -/
structure QueueFiring (s t : State) (x y n : Nat) (p : Plan) (r : SlotRun) (due : Nat) (outs : List (Nat × Item)) (fl : AFlags) : Prop where
  only   : OnlyCell s t x y
  issued : Issued s x y (t.cell x y) n p r
  op     : Promised (s.cell x y) (t.cell x y) n due outs
  flags  : (t.cell x y).aflags = (s.cell x y).aflags ||| fl
  rest   : rest (t.cell x y) = rest (s.cell x y)

/-- What reading granules through descriptors does to storage: every byte reads as before; the correctable words among those read are
corrected and counted (R94, R182); the walks stand as `w` says. -/
structure ReadThrough (c d : Cell) (gran : List Nat) (w : Nat → Nat) : Prop where
  walk  : ∀ i, d.walkPos i = w i
  bytes : ∀ a, d.data.byte a = c.data.byte a
  bad   : d.data.bad = c.data.bad
  weak  : ∀ v, v ∈ d.data.weak ↔ v ∈ c.data.weak ∧ v ∉ wordsOf gran
  fixed : d.eccFixed = c.eccFixed + (c.seen.weakOf gran).length

/-- The firing of a slot that may read storage through descriptors. -/
structure MemFiring (s t : State) (x y n : Nat) (p : Plan) (r : SlotRun) (due : Nat) (outs : List (Nat × Item)) (fl : AFlags)
    (gran : List Nat) (w : Nat → Nat) : Prop where
  only   : OnlyCell s t x y
  issued : Issued s x y (t.cell x y) n p r
  op     : Promised (s.cell x y) (t.cell x y) n due outs
  flags  : (t.cell x y).aflags = (s.cell x y).aflags ||| fl
  read   : ReadThrough (s.cell x y) (t.cell x y) gran w
  rest   : restMem (t.cell x y) = restMem (s.cell x y)

/-- What a freeze does to a cell: it is FROZEN with FAULT set and the code of its first fault, an APPLY is given up and open sight windows
are discarded (R55, R57, R59, R219; of the APPLY the model's choice, log 51). -/
structure FrozenCell (c d : Cell) (code : Code) : Prop where
  state : d.state = .frozen
  fault : d.faultSt = true
  code  : d.faultCode = if c.faultCode = 0 then code else c.faultCode
  apply : d.applyPending = false
  wins  : d.sg.wins = []
  rest  : { d with state := c.state, stopping := c.stopping, faultSt := c.faultSt, faultCode := c.faultCode, applyPending := c.applyPending,
                   sg := { d.sg with wins := c.sg.wins } } = c

/-- The cell of the site freezes, and reports it (R55, R226); nothing else changes. -/
structure Froze (s t : State) (x y : Nat) (code : Code) (ix detail : Nat) (a : Dword) : Prop where
  only : CellSends s t x y [reportPkt s.myMod x y portL (reportFlit 1 code x y ix 0 0 detail a)]
  cell : FrozenCell (s.cell x y) (t.cell x y) code

end Sys2Proof.Claims

open Sys2Proof Sys2Proof.Machine Sys2Proof.Claims

/-! ### Slot firings -/

/-- FWD, SEL, MERGE, ROUTE and TOKEN (R48, R51): a ready slot issues, pops the items its plan names, and one pulse later writes
the forwarded, chosen or token item to its queues; nothing else changes. -/
def Sys2Proof.Claims.SteeringSlotsWriteTheChosenItem : Prop :=
  ∀ (s : State) (x y n : Nat) (p : Plan),
    let c := s.cell x y
    let w := c.slot n
    let one := fun (i : Instr) (pops : List Nat) (outs : List (Nat × Item)) => p.pops = pops ∧
      ∃ t, exec i s = .next t ∧ QueueFiring s t x y n p (c.run n) (c.pulse + 1) outs 0
    let tok := (itemByte (c.headItem (sCtl w)) 0).toNat
    let pick := if bitB (c.headItem (sCtl w)) 0 then sSrc1 w else sSrc0 w
    (Ready s x y n (isAny 0x30) p → one (.fwd x y n) [sSrc0 w] (outsOf (dstQs w) (c.headItem (sSrc0 w)))) ∧
    (Ready s x y n (isAny 0x31) p → one (.sel x y n) [sCtl w, sSrc0 w, sSrc1 w] (outsOf (dstQs w) (c.headItem pick))) ∧
    (Ready s x y n (isAny 0x32) p → one (.merge x y n) [sCtl w, pick] (outsOf (dstQs w) (c.headItem pick))) ∧
    (Ready s x y n (isAny 0x33) p → one (.route x y n) [sCtl w, sSrc0 w] (match (dstQs w)[tok % (dstQs w).length]? with
      | some q => [(q, c.headItem (sSrc0 w))]
      | none => [])) ∧
    (Ready s x y n (isAny 0x34) p → one (.token x y n) (srcQ (sSrc0 w)) (outsOf (dstQs w) (BitVec.ofNat 256 (sOpa w % 256))))

/-- CMP (R45, R48, R414, R82): the predicate it sets and the item it forwards are due two pulses later; in a cell that has a flag word a
NaN operand raises NAN_IN. -/
def Sys2Proof.Claims.CmpWritesItsPredicateTwoPulsesLater : Prop :=
  ∀ (s : State) (x y n : Nat) (p : Plan),
    let c := s.cell x y
    let w := c.slot n
    let a := valOf (sFmt w) (elem (sFmt w) (c.headItem (sSrc0 w)) 0)
    let b := valOf (sFmt w) ((sOpbc w).toNat % 2 ^ elemBits (sFmt w))
    Ready s x y n (isAny 0x35) p → ∃ t o, exec (.cmp x y n) s = .next t ∧ OnlyCell s t x y ∧ Issued s x y (t.cell x y) n p (c.run n) ∧
      (t.cell x y).ops = c.ops ++ [o] ∧ o.id = c.nextOp ∧ o.slot = n ∧ o.due = c.pulse + 2 ∧ o.waiting = false ∧ o.adds = [] ∧
      o.outs = outsOf (dstQs w) (c.headItem (sSrc0 w)) ∧
      o.pred = (if sPwen w then some (sPwsel w, (cmpVals (sMod w % 4) a b).1) else none) ∧
      rest (t.cell x y) = rest c ∧ (t.cell x y).pred = c.pred ∧
      (t.cell x y).aflags = (if clsOf x y = .c ∨ clsOf x y = .f then c.aflags ||| flIf (cmpVals (sMod w % 4) a b).2 flNanIn else c.aflags)

/-- VADD, VMUL, VMAX and VSCALE (R47, R49, R77, R89, R94): lane by lane on the lanes live in every operand, due four pulses later, with the
flags that the lanes raise; a source descriptor steps once. The ops have one path, so the outcome of a comparison of paths changes nothing. -/
def Sys2Proof.Claims.VectorSlotsWriteLaneResults : Prop :=
  ∀ (s : State) (x y n : Nat) (p : Plan) (f : Fmt) (differ : Bool),
    let c := s.cell x y
    let w := c.slot n
    let a := vecSrc c (sSrc0 w) (sOpa w % 128)
    let b := vecSrc c (sSrc1 w) (sOpb w % 128)
    let k := vecSrc c (sSrc0 w) (sOpc w % 128)
    let two := fun (i : Instr) (g : Nat → Nat → Nat × AFlags) => c.seen.badWord (a.used ++ b.used) = none →
      let r := lanes2 (sFmt w) g (a.live &&& b.live) a.item b.item
      ∃ t, exec i s = .next t ∧ MemFiring s t x y n p (c.run n) (c.pulse + 4) (outsOf (dstQs w) r.1) r.2 (a.gran ++ b.gran)
        (stepped c (srcIx (sSrc0 w) (sOpa w % 128) ++ srcIx (sSrc1 w) (sOpb w % 128)))
    fmtOf (sFmt w) = some f →
    (Ready s x y n (isVec 0x10 0x08) p → two (.vadd x y n differ) f.add) ∧
    (Ready s x y n (isVec 0x11 0x09) p → two (.vmul x y n differ) f.mul) ∧
    (Ready s x y n (isVec 0x12 0x0A) p → two (.vmax x y n differ) f.max) ∧
    (Ready s x y n (isOf .c 0x13) p → c.seen.badWord k.used = none →
      let r := scaleItem (sFmt w) f (word (sOpa w * 2 ^ 16 + sOpb w)) k.live k.item
      ∃ t, exec (.vscale x y n) s = .next t ∧ MemFiring s t x y n p (c.run n) (c.pulse + 4) (outsOf (dstQs w) r.1) r.2 k.gran
        (stepped c (srcIx (sSrc0 w) (sOpc w % 128))))

/-- EXP2, LOG2, RCP, RSQRT, SIGM, TANH and SINCOS with paths that agree (R49, R78): the function of every lane, due eight pulses
later; SINCOS gives its sines and then its cosines to each queue. -/
def Sys2Proof.Claims.FunctionSlotsWriteTheFunctionOfTheirItem : Prop :=
  ∀ (s : State) (x y n : Nat) (p : Plan),
    let c := s.cell x y
    let w := c.slot n
    let it := c.headItem (sSrc0 w)
    let one := fun (i : Instr) (g : Word → Nat × AFlags) => ∃ t, exec i s = .next t ∧
      QueueFiring s t x y n p (c.run n) (c.pulse + 8) (outsOf (dstQs w) (fnLanes g it).1) (fnLanes g it).2
    (Ready s x y n (isOf .f 0x01) p → one (.exp2 x y n false) fnExp2) ∧
    (Ready s x y n (isOf .f 0x02) p → one (.log2 x y n false) fnLog2) ∧
    (Ready s x y n (isOf .f 0x03) p → one (.rcp x y n false) fnRcp) ∧
    (Ready s x y n (isOf .f 0x04) p → one (.rsqrt x y n false) fnRsqrt) ∧
    (Ready s x y n (isOf .f 0x05) p → one (.sigm x y n false) fnSigm) ∧
    (Ready s x y n (isOf .f 0x06) p → one (.tanh x y n false) fnTanh) ∧
    (Ready s x y n (isOf .f 0x07) p → ∃ t, exec (.sincos x y n false) s = .next t ∧
      QueueFiring s t x y n p (c.run n) (c.pulse + 8) (outsOf (dstQs w) (sincosLanes it).1.1 ++ outsOf (dstQs w) (sincosLanes it).1.2)
        (sincosLanes it).2)

/-- RSUM, RMAX and TOPK with paths that agree (R49, R80): an item that is not the last of its OPB items joins the partial
reduction and writes nothing; the last one gives the result and leaves nothing held. Each raises the flags of its own additions. -/
def Sys2Proof.Claims.ReductionSlotsWriteAfterTheirLastItem : Prop :=
  ∀ (s : State) (x y n : Nat) (p : Plan),
    let c := s.cell x y
    let w := c.slot n
    let r := c.run n
    let it := redLanes (c.headItem (sSrc0 w))
    let step := fun (isMax : Bool) => if r.red = [] then it else redStep isMax r.red it.1
    let out := fun (isMax : Bool) => redOut isMax (bitB (BitVec.ofNat 4 (sMod w)) 0) (step isMax).1
    let best := ((List.range 8).map (fun l => (8 * (sOpc w + r.count % max 1 (sOpb w)) + l, lgetD it.1 l 0))).foldl
      (topkInsert (sOpa w)) r.pairs
    let red := fun (i : Instr) (isMax : Bool) =>
      (redLast w r = true → ∃ t, exec i s = .next t ∧ QueueFiring s t x y n p { r with red := [] } (c.pulse + 6)
        (outsOf (dstQs w) (out isMax).1) ((step isMax).2 ||| (out isMax).2)) ∧
      (redLast w r = false → ∃ t, exec i s = .next t ∧ QueueFiring s t x y n p { r with red := (step isMax).1 } (c.pulse + 6) []
        (step isMax).2)
    (Ready s x y n (isOf .f 0x10) p → red (.rsum x y n false) false) ∧
    (Ready s x y n (isOf .f 0x11) p → red (.rmax x y n false) true) ∧
    (Ready s x y n (isOf .f 0x12) p →
      (redLast w r = true → ∃ t, exec (.topk x y n false) s = .next t ∧ QueueFiring s t x y n p { r with pairs := [] } (c.pulse + 10)
        ((topkItems ((sOpa w + 3) / 4) best).flatMap (fun v => outsOf (dstQs w) v)) it.2) ∧
      (redLast w r = false → ∃ t, exec (.topk x y n false) s = .next t ∧ QueueFiring s t x y n p { r with pairs := best } (c.pulse + 10)
        [] it.2))

/-- The two paths of an F-cell's functions and reductions differ (R49): the cell freezes with FUNCTION_MISMATCH, the items have
been popped, and no result is in flight. A slot whose own words, descriptors or queue entries are uncorrectable, or whose operand is, does not
issue: its cell freezes with MEM_UNCORRECTABLE and reports where (R31, R182, R183). -/
def Sys2Proof.Claims.FaultyFiringsFreezeTheCell : Prop :=
  ∀ (s : State) (x y n : Nat) (p : Plan) (i : Instr),
    let c := s.cell x y
    let w := c.slot n
    let at_ := cellAddr s.myMod x y
    let stops := fun (ix : Nat) (a : Dword) => ∃ t, exec i s = .next t ∧ Froze s t x y memUncorrectable ix 0 a
    (∀ op, (op, i) ∈ [(0x01, Instr.exp2 x y n true), (0x02, .log2 x y n true), (0x03, .rcp x y n true), (0x04, .rsqrt x y n true),
      (0x05, .sigm x y n true), (0x06, .tanh x y n true), (0x07, .sincos x y n true), (0x10, .rsum x y n true),
      (0x11, .rmax x y n true), (0x12, .topk x y n true)] →
      Ready s x y n (isOf .f op) p → ∃ t d, exec i s = .next t ∧ Issued s x y d n p (c.run n) ∧ rest d = rest c ∧ d.ops = c.ops ∧
        d.aflags = c.aflags ∧ FrozenCell d (t.cell x y) functionMismatch ∧
        CellSends s t x y [reportPkt s.myMod x y portL (reportFlit 1 functionMismatch x y n 0 0 0 0)]) ∧
    (∀ isOp b, (i, isOp) ∈ [(Instr.dot x y n, isOf .c 0x01), (.accOut x y n, isOf .c 0x02), (.accClr x y n, isOf .c 0x03),
      (.vadd x y n b, isVec 0x10 0x08), (.vmul x y n b, isVec 0x11 0x09), (.vmax x y n b, isVec 0x12 0x0A), (.vscale x y n, isOf .c 0x13),
      (.cvt x y n, isOf .c 0x18), (.load x y n, isOf .c 0x20), (.store x y n, isOf .c 0x21), (.fwd x y n, isAny 0x30),
      (.sel x y n, isAny 0x31), (.merge x y n, isAny 0x32), (.route x y n, isAny 0x33), (.token x y n, isAny 0x34), (.cmp x y n, isAny 0x35),
      (.sync x y n, isSync), (.sread x y n, isOf .m 0x01), (.swrite x y n, isOf .m 0x02), (.dma x y n, isOf .m 0x03),
      (.exp2 x y n b, isOf .f 0x01), (.log2 x y n b, isOf .f 0x02), (.rcp x y n b, isOf .f 0x03), (.rsqrt x y n b, isOf .f 0x04),
      (.sigm x y n b, isOf .f 0x05), (.tanh x y n b, isOf .f 0x06), (.sincos x y n b, isOf .f 0x07), (.rsum x y n b, isOf .f 0x10),
      (.rmax x y n b, isOf .f 0x11), (.topk x y n b, isOf .f 0x12), (.chRead x y n, isOf .p 0x01), (.chWrite x y n, isOf .p 0x02),
      (.gatherSpan x y n, isSpan), (.plan x y n, isPlan), (.check x y n, isCheck), (.hashAdd x y n, isOf .g 0x03)] →
      Issues s x y n isOp p →
        (∀ v, storeHit c n p = some v → stops 0xFF (mgmtAddr s.myMod x y 0 (8 * v))) ∧
        (storeHit c n p = none → queueHit c p = true → stops 0xFF 0)) ∧
    (∀ v, (i = .load x y n ∧ Ready s x y n (isOf .c 0x20) p) ∨ (i = .sread x y n ∧ Ready s x y n (isOf .m 0x01) p) →
      let d := c.desc (sOpa w % 128)
      c.seen.badWord (readDesc c.seen (storeSize (clsOf x y)) (c.maskOf d) d.bare (c.walkPos (sOpa w % 128)) 0).used = some v →
        stops n (at_ (8 * v))) ∧
    (∀ v, (i = .store x y n ∧ Ready s x y n (isOf .c 0x21) p) ∨ (i = .swrite x y n ∧ Ready s x y n (isOf .m 0x02) p) →
      let d := c.desc (sOpa w % 128)
      partialBad c.data (writeDesc c.data (storeSize (clsOf x y)) (c.maskOf d) d (c.walkPos (sOpa w % 128)) (c.headItem (sSrc0 w))) = some v →
        stops n (at_ (8 * v))) ∧
    (∀ b v, (i = .vadd x y n b ∧ Ready s x y n (isVec 0x10 0x08) p) ∨ (i = .vmul x y n b ∧ Ready s x y n (isVec 0x11 0x09) p) ∨
        (i = .vmax x y n b ∧ Ready s x y n (isVec 0x12 0x0A) p) →
      c.seen.badWord ((vecSrc c (sSrc0 w) (sOpa w % 128)).used ++ (vecSrc c (sSrc1 w) (sOpb w % 128)).used) = some v →
        stops n (at_ (8 * v))) ∧
    (∀ v, i = .vscale x y n ∧ Ready s x y n (isOf .c 0x13) p → c.seen.badWord (vecSrc c (sSrc0 w) (sOpc w % 128)).used = some v →
      stops n (at_ (8 * v))) ∧
    (∀ v, i = .dot x y n ∧ Ready s x y n (isOf .c 0x01) p → c.seen.badWord ((dotForm c w (c.run n)).flatMap (fun u => u.used)) = some v →
      stops n (at_ (8 * v))) ∧
    (i = .accOut x y n ∧ Ready s x y n (isOf .c 0x02) p → (c.accHit (span (accOutBase w (c.run n)) 8)).isSome = true → stops n 0)

/-- LOAD and SREAD deliver what their descriptor reads, three and four pulses later; STORE and SWRITE store the listed bytes and no other;
a descriptor steps once (R47, R49, R89, R94, R96). -/
def Obligations.StorageSlotsReadAndWriteThroughDescriptors : Prop :=
  ∀ (s : State) (x y n : Nat) (p : Plan),
    let c := s.cell x y
    let w := c.slot n
    let i := sOpa w % 128
    let d := c.desc i
    let rd := readDesc c.seen (storeSize (clsOf x y)) (c.maskOf d) d.bare (c.walkPos i) 0
    let l := writeDesc c.data (storeSize (clsOf x y)) (c.maskOf d) d (c.walkPos i) (c.headItem (sSrc0 w))
    let loads := fun (ins : Instr) (lat : Nat) => c.seen.badWord rd.used = none → ∃ t, exec ins s = .next t ∧
      MemFiring s t x y n p (c.run n) (c.pulse + lat) (outsOf (dstQs w) rd.item) 0 rd.gran (stepped c [i])
    let stores := fun (ins : Instr) => partialBad c.data l = none → ∃ t, exec ins s = .next t ∧
      OnlyCell s t x y ∧ Issued s x y (t.cell x y) n p (c.run n) ∧ Promised c (t.cell x y) n (c.pulse + 2) [] ∧
      (∀ j, (t.cell x y).walkPos j = stepped c [i] j) ∧ (t.cell x y).data = c.data.write l ∧ (t.cell x y).seen = c.seen ∧
      (∀ a, (∀ q ∈ l, q.1 ≠ a) → (t.cell x y).data.byte a = c.data.byte a) ∧
      (t.cell x y).eccFixed = c.eccFixed + (c.data.weakPartial l).length ∧
      restMem (t.cell x y) = restMem c ∧ (t.cell x y).aflags = c.aflags
    (Ready s x y n (isOf .c 0x20) p → loads (.load x y n) 3) ∧
    (Ready s x y n (isOf .m 0x01) p → loads (.sread x y n) 4) ∧
    (Ready s x y n (isOf .c 0x21) p → stores (.store x y n)) ∧
    (Ready s x y n (isOf .m 0x02) p → stores (.swrite x y n))

/-- CVT (R66, R72-R75, R89). Narrowing: a firing that does not complete its target item holds eight more values and writes nothing; one
that does writes the packed item, and a filled scale item to the scale queue. Widening: every firing writes eight FP32 values of its source
item, which is kept until its last firing; a descriptor steps with the first. -/
def Obligations.CvtNarrowsAndWidens : Prop :=
  ∀ (s : State) (x y n : Nat) (p : Plan),
    let c := s.cell x y
    let w := c.slot n
    let r := c.run n
    let ix := sOpc w % 128
    let a := vecSrc c (sSrc0 w) ix
    let block := r.block ++ (List.range 8).map (fun k => word (if a.live.testBit k then elem 0 a.item k else 0))
    let pack := cvtPack w block
    let sp := r.scPart ++ pack.2.1.map (fun v => BitVec.ofNat 8 v)
    let fires := fun (r' : SlotRun) (outs : List (Nat × Item)) (fl : AFlags) (gran : List Nat) (l : List Nat) =>
      ∃ t, exec (.cvt x y n) s = .next t ∧ MemFiring s t x y n p r' (c.pulse + 4) outs fl gran (stepped c l)
    let done := r.wide + 1 = widenN w || lastFiring w r
    let sc0 := match (if sSrc0 w < 8 then cvtScq w else none) with
      | some _ => if lastFiring w r then 0 else if blockEnd w r.wide then (scaleStep r.sc0 1).1 else r.sc0
      | none => r.sc0
    let wides := fun (it : Item) (live : Nat) (sc : List Nat) (gran l : List Nat) =>
      let vs := cvtWiden w it live r.wide sc
      fires { r with wide := if done then 0 else r.wide + 1, held := if done || sSrc0 w ≠ 8 then none else some (it, live),
                     block := if done then [] else sc.map (fun v => word v), sc0 := sc0 }
        (outsOf (dstQs w) (packItem 0 (vs.map (·.1)))) (flAll vs) gran l
    Ready s x y n (isOf .c 0x18) p →
    (isNarrow w = true → c.seen.badWord a.used = none →
      (fills w r = false → fires { r with block := block } [] 0 a.gran (srcIx (sSrc0 w) ix)) ∧
      (fills w r = true → fires { r with block := [], scPart := if fillsScale w r then [] else sp }
        (outsOf (dstQs w) pack.1 ++ (if fillsScale w r then outsOf (cvtScq w).toList (itemOf (sp ++ copies (32 - sp.length) 0x7F)) else []))
        pack.2.2 a.gran (srcIx (sSrc0 w) ix))) ∧
    (isNarrow w = false →
      (sSrc0 w < 8 → wides (c.headItem (sSrc0 w)) (2 ^ 64 - 1)
        (match cvtScq w with
          | some q => copies 2 (itemByte (c.headItem q) r.sc0).toNat
          | none => []) [] []) ∧
      (sSrc0 w = 8 → r.wide = 0 →
        let rd := readDesc c.seen (storeSize .c) (c.maskOf (c.desc ix)) (c.desc ix) (c.walkPos ix) 0
        (c.seen.badWord rd.used = none → wides rd.item rd.live rd.sc rd.gran [ix]) ∧
        (∀ v, c.seen.badWord rd.used = some v → ∃ t, exec (.cvt x y n) s = .next t ∧
          Froze s t x y memUncorrectable n 0 (cellAddr s.myMod x y (8 * v)))) ∧
      (sSrc0 w = 8 → r.wide ≠ 0 → ∀ it live, r.held = some (it, live) → wides it live (r.block.map (·.toNat)) [] []))

/-- DOT, ACC_OUT and ACC_CLR (R47, R64, R66, R73, R82, R89, R91, R94, R215, R217). The live group results of a DOT that carry no checksum row are due
in their accumulators six pulses later, and a relayed item in DST one pulse later; the windows of a checked slot take them; ACC_OUT converts
eight accumulators and writes when its item is full; ACC_CLR clears its range and no other accumulator. -/
def Obligations.AccumulatorSlotsWork : Prop :=
  ∀ (s : State) (x y n : Nat) (p : Plan),
    let c := s.cell x y
    let w := c.slot n
    let r := c.run n
    let us := dotForm c w r
    let keep : List UnitOut := us.filter (fun u => u.live && (match sightEntry c n with
      | some k => ! isChecksum c w k u.unit r.count
      | none => true))
    let relay := if (sMod w).testBit 3 then outsOf (dstQs w) (c.headItem (sSrc1 w)) else []
    let walked := fun (i : Nat) => if sSrc1 w = 8 ∧ i = sOpb w % 128 then (c.walkPos i + dotSteps c w) % (c.desc i).steps
      else stepped c (srcIx (sSrc0 w) (sOpa w % 128)) i
    let conv := ((List.range 8).map (fun k => c.accAt (accOutBase w r + k))).map (accConv w)
    let block := r.block ++ conv.map (fun v => word v.1)
    let whole := fun (v : Nat) => (span (sOpc w) (sOpb w)).contains (2 * v) && (span (sOpc w) (sOpb w)).contains (2 * v + 1)
    (Ready s x y n (isOf .c 0x01) p → c.seen.badWord (us.flatMap (fun u => u.used)) = none →
      ∃ t o, exec (.dot x y n) s = .next t ∧ OnlyCell s t x y ∧ Issued s x y (t.cell x y) n p (dotScales w r) ∧
        o.due = c.pulse + 6 ∧ o.outs = [] ∧ o.isDot = true ∧ o.waiting = false ∧
        o.adds = keep.map (fun u => (u.acc, decide (sFmt w = 8), u.g)) ∧ (t.cell x y).acc = c.acc ∧
        (relay = [] → (t.cell x y).ops = c.ops ++ [o]) ∧
        (relay ≠ [] → ∃ o', (t.cell x y).ops = c.ops ++ [o, o'] ∧ o'.due = c.pulse + 1 ∧ o'.outs = relay ∧ o'.waiting = false) ∧
        (t.cell x y).aflags = c.aflags ||| us.foldl (fun f u => f ||| u.fl) 0 ∧
        ReadThrough c (t.cell x y) (us.flatMap (fun u => u.gran)) walked ∧
        (t.cell x y).sg = (match sightEntry c n with
          | some k => { c.sg with wins := sightTake c w k r.count us }
          | none => c.sg) ∧
        restMem { t.cell x y with sg := c.sg } = restMem c) ∧
    (Ready s x y n (isOf .c 0x02) p → c.accHit (span (accOutBase w r) 8) = none →
      (fills w r = true → ∃ t, exec (.accOut x y n) s = .next t ∧ OnlyCell s t x y ∧ Issued s x y (t.cell x y) n p { r with block := [] } ∧
        (∃ o, (t.cell x y).ops = c.ops ++ [o] ∧ o.due = c.pulse + 3 ∧ o.outs = outsOf (dstQs w) (packItem (sFmt w) (block.map (·.toNat))) ∧
          o.waiting = false ∧ o.accLo = accOutBase w r ∧ o.accLen = 8) ∧
        rest (t.cell x y) = rest c ∧ (t.cell x y).aflags = c.aflags ||| flAll conv) ∧
      (fills w r = false → ∃ t, exec (.accOut x y n) s = .next t ∧ OnlyCell s t x y ∧ Issued s x y (t.cell x y) n p { r with block := block } ∧
        (∃ o, (t.cell x y).ops = c.ops ++ [o] ∧ o.due = c.pulse + 3 ∧ o.outs = [] ∧ o.waiting = false ∧ o.accLo = accOutBase w r ∧ o.accLen = 8) ∧
        rest (t.cell x y) = rest c ∧ (t.cell x y).aflags = c.aflags ||| flAll conv)) ∧
    (Ready s x y n (isOf .c 0x03) p →
      let part := c.accHit ((span (sOpc w) (sOpb w)).filter (fun i => ! whole (i / 2)))
      (part = none → ∃ t, exec (.accClr x y n) s = .next t ∧ OnlyCell s t x y ∧ Issued s x y (t.cell x y) n p r ∧
        (∀ i, (t.cell x y).accAt i = if sOpc w ≤ i ∧ i < sOpc w + sOpb w ∧ i < 4096 then 0 else c.accAt i) ∧
        (∃ o, (t.cell x y).ops = c.ops ++ [o] ∧ o.due = c.pulse + p.hold ∧ o.outs = [] ∧ o.accLo = sOpc w ∧ o.accLen = sOpb w) ∧
        (t.cell x y).accBad = c.accBad.filter (fun v => ! whole v) ∧ (t.cell x y).aflags = c.aflags ∧
        rest { t.cell x y with acc := c.acc, accBad := c.accBad } = rest c) ∧
      (part.isSome = true → ∃ t, exec (.accClr x y n) s = .next t ∧ Froze s t x y memUncorrectable n 0 0))

/-- SYNC (R48, R200, R208) and DMA (R89, R164, R182, R415): the op stays in flight with its places promised; a SYNC sends its one request; a DMA
opens one transfer of the next tile of each descriptor, numbered by the slot's firings: a DEVICE source is read by RD requests of the
granules with a live element, and a LOCAL source at once, whose bytes then go to a LOCAL destination or out as WR requests. -/
def Sys2Proof.Claims.SyncAndDmaSlotsStayInFlight : Prop :=
  ∀ (s : State) (x y n : Nat) (p : Plan),
    let c := s.cell x y
    let w := c.slot n
    let si := sOpa w % 128
    let di := sOpb w % 128
    let sd := c.desc si
    let dd := c.desc di
    let it := c.headItem (sSrc0 w)
    let tile := fun (i : Nat) => c.walkPos i / (c.desc i).tileSteps
    let bytes := dmaSrc c sd (tile si)
    let runs := runs4 (granules (bytes.map (fun a => a + spaceBase sd (dword (itemLe it 0 8)))))
    let tr : Dma :=
      { opId := c.nextOp, slot := n, srcDesc := si, dstDesc := di, srcAddr := dword (itemLe it 0 8), dstAddr := dword (itemLe it 8 8),
        srcTile := tile si, dstTile := tile di, number := (c.run n).count, buf := [], reads := 0, writes := 0, issued := false, bytes := 0 }
    let waits := fun (d : Cell) => ∃ o, d.ops = c.ops ++ [o] ∧ o.waiting = true ∧ o.fixed = false ∧ o.promised = true ∧ o.id = c.nextOp ∧
      o.slot = n ∧ o.outs = outsOf (dstQs w) 0
    let walks := fun (d : Cell) => (∀ j, j ≠ si → j ≠ di → d.walkPos j = c.walkPos j) ∧
      (di ≠ si → d.walkPos si = (c.walkPos si + sd.tileSteps) % sd.steps ∧ d.walkPos di = (c.walkPos di + dd.tileSteps) % dd.steps)
    let local_ : Dma := { tr with buf := if sd.space = 2 then [] else orderCells (bytes.map (fun a => (a, c.seen.byte a))) }
    let out := orderCells (dmaDst c local_)
    let here := out.filter (fun q => q.1 < storeSize .m)
    let away := writeRuns (out.map (fun q => (q.1 + spaceBase dd tr.dstAddr, q.2)))
    (Ready s x y n isSync p → ∃ t, exec (.sync x y n) s = .next t ∧ Issued s x y (t.cell x y) n p (c.run n) ∧ waits (t.cell x y) ∧
      (t.cell x y).reqs = c.reqs ++ [{ tag := c.tag, slot := n, opId := c.nextOp, kind := .sync (sMod w = 4) (sOpbc w),
                                       dest := syncAddr s.myMod (sOpa w), age := 0, resend := none }] ∧
      (t.cell x y).nextTag = (c.nextTag + 1) % 1024 ∧ (t.cell x y).aflags = c.aflags ∧
      rest { t.cell x y with reqs := c.reqs, nextTag := c.nextTag } = rest c ∧
      CellSends s t x y [{ pktOf s.myMod x y portL with
        dest := syncAddr s.myMod (sOpa w), cls := clsSync, op := 8 + sMod w, tag := c.tag, arg := dword (sOpbc w).toNat }]) ∧
    (Ready s x y n (isOf .m 0x03) p →
      (sd.space = 2 → runs ≠ [] → ∃ t l, exec (.dma x y n) s = .next t ∧ Issued s x y (t.cell x y) n p (c.run n) ∧ waits (t.cell x y) ∧
        CellSends s t x y l ∧ l.map (fun q => (q.op, q.dest, q.arg)) = runs.map (fun v => (opRd, dword (64 * v.1), dword (v.2 - 1))) ∧
        (t.cell x y).dmas = c.dmas ++ [{ tr with reads := runs.length }] ∧ (t.cell x y).reqs.length = c.reqs.length + runs.length ∧
        walks (t.cell x y) ∧ (t.cell x y).data = c.data ∧ (t.cell x y).aflags = c.aflags ∧ restReq (t.cell x y) = restReq c) ∧
      ((sd.space = 2 ∧ runs = []) ∨ (sd.space ≠ 2 ∧ c.seen.badWord bytes = none) →
        (∀ v, dd.space ≠ 2 → partialBad c.data here = some v → ∃ t, exec (.dma x y n) s = .next t ∧
          Froze s t x y memUncorrectable n 0 (cellAddr s.myMod x y (8 * v))) ∧
        (dd.space ≠ 2 → partialBad c.data here = none → ∃ t, exec (.dma x y n) s = .next t ∧
          Issued s x y (t.cell x y) n p (c.run n) ∧ waits (t.cell x y) ∧ OnlyCell s t x y ∧
          (t.cell x y).dmas = c.dmas ++ [{ local_ with issued := true, bytes := out.length }] ∧ (t.cell x y).reqs = c.reqs ∧
          (∀ a, (t.cell x y).data.byte a = (tget here a).getD (c.data.byte a)) ∧
          walks (t.cell x y) ∧ (t.cell x y).aflags = c.aflags ∧ restReq (t.cell x y) = restReq c) ∧
        (dd.space = 2 → ∃ t l, exec (.dma x y n) s = .next t ∧ Issued s x y (t.cell x y) n p (c.run n) ∧ waits (t.cell x y) ∧
          CellSends s t x y l ∧
          l.map (fun q => (q.op, q.dest, q.arg, q.payload)) =
            away.map (fun v => (opWr, dword (64 * v.1), dword v.2.2.1, bytesFlits (2 * v.2.1) v.2.2.2)) ∧
          (t.cell x y).dmas = c.dmas ++ [{ local_ with issued := true, writes := away.length, bytes := out.length }] ∧
          (∀ a, (t.cell x y).data.byte a = c.data.byte a) ∧ walks (t.cell x y) ∧ (t.cell x y).aflags = c.aflags ∧
          restReq (t.cell x y) = restReq c)) ∧
      (∀ v, sd.space ≠ 2 → c.seen.badWord bytes = some v → ∃ t, exec (.dma x y n) s = .next t ∧
        Froze s t x y memUncorrectable n 0 (cellAddr s.myMod x y (8 * v))))

/-- DMA_COMPLETION (R194, R415): once the oldest issued transfer of the slot has every write acknowledged, it and its op leave
and each promised place takes its completion item: bytes moved, number, device address of the destination tile. -/
def Sys2Proof.Claims.DmaCompletionFillsThePromisedPlaces : Prop :=
  ∀ (s : State) (x y n : Nat), siteOk x y = true → n < 64 →
    let c := s.cell x y
    (∀ tr rest o ops, takeFirst (fun (t : Dma) => t.slot = n && t.issued && t.writes = 0) c.dmas = some (tr, rest) →
      takeFirst (fun (o : Op) => o.id = tr.opId) c.ops = some (o, ops) →
      o.outs.any (fun q => (c.queue q.1).lastPut = some c.pulse) = false →
      let dd := c.desc tr.dstDesc
      let first := dd.tileAddr (dd.pos (tr.dstTile * dd.tileSteps) 0)
      let dev := if dd.space = 2 then tr.dstAddr.toNat / 64 * 64 + first else (cellAddr s.myMod x y first).toNat
      let item := itemOf (leBytes 4 tr.bytes ++ leBytes 4 tr.number ++ leBytes 8 dev)
      ∃ t, exec (.dmaCompletion x y n) s = .next t ∧ OnlyCell s t x y ∧ (t.cell x y).dmas = rest ∧ (t.cell x y).ops = ops ∧
        (∀ q, items (t.cell x y) q = items c q ++ List.replicate (o.outsTo q) item ∧
          ((t.cell x y).queue q).credits = (c.queue q).credits) ∧
        { t.cell x y with dmas := c.dmas, ops := c.ops, queues := c.queues, bankUse := c.bankUse } = c) ∧
    (c.dmas.any (fun t => t.slot = n && t.issued && t.writes = 0) = false → exec (.dmaCompletion x y n) s = .next s)

/-- CH_READ (R89, R94, R98, R175, R178, R183) and CH_WRITE (R89, R96, R173, R180): an item whose lines are buffered is due in three pulses and
counted a hit; one that lacks a line waits for it and is counted a miss, and what it asks for is what the channel holds now; one with no live
element reads nothing. A write enters the posted write buffer, granule by granule, and in a host-scope page waits there. -/
def Obligations.ChannelSlotsReadAndPost : Prop :=
  ∀ (s : State) (x y n : Nat) (p : Plan),
    let c := s.cell x y
    let w := c.slot n
    let i := sOpa w % 128
    let d := c.desc i
    let lines := itemLines c d (c.walkPos i)
    let st := (strmOf c i).getD 8
    let tw := (s.field (fieldOf x y)).tower
    let now := lineNow c tw (chanOf x y)
    let need := lines.filter (fun a => st = 8 || ! (heldLines c st).contains a)
    let l := chWriteCells c n
    let keeps := fun (t : State) => OnlyCell s t x y ∧ Issued s x y (t.cell x y) n p (c.run n) ∧
      (∀ j, (t.cell x y).walkPos j = stepped c [i] j) ∧ (t.cell x y).aflags = c.aflags ∧
      rest { t.cell x y with pc := c.pc, walk := c.walk } = rest c
    (Ready s x y n (isOf .p 0x01) p →
      (lines = [] → ∃ t, exec (.chRead x y n) s = .next t ∧ keeps t ∧
        Promised c (t.cell x y) n (c.pulse + 3) (outsOf (dstQs w) 0) ∧ (t.cell x y).pc = c.pc) ∧
      (lines ≠ [] → st < 8 → lines.all (fun a => (lineAt c st a).isSome) = true →
        (badInLines c (lineAt c st) d (c.walkPos i) = none → ∃ t, exec (.chRead x y n) s = .next t ∧ keeps t ∧
          Promised c (t.cell x y) n (c.pulse + 3) (outsOf (dstQs w) (itemFromLines c (lineAt c st) d (c.walkPos i))) ∧
          (t.cell x y).pc = { c.pc with cnt := cntAdd c.pc.cnt 0 1, lines := freeLines (c.advance i 1) st i }) ∧
        (∀ b, badInLines c (lineAt c st) d (c.walkPos i) = some b → ∃ t, exec (.chRead x y n) s = .next t ∧
          Froze s t x y memUncorrectable n 0 (towerAddr s.myMod (fieldOf x y) (towerOff (chanOf x y) (8 * b))))) ∧
      (lines ≠ [] → ¬ (st < 8 ∧ lines.all (fun a => (lineAt c st a).isSome) = true) →
        ∃ t o, exec (.chRead x y n) s = .next t ∧ keeps t ∧ (t.cell x y).ops = c.ops ++ [o] ∧ o.id = c.nextOp ∧ o.waiting = true ∧
          o.fixed = false ∧ o.outs = outsOf (dstQs w) 0 ∧
          (t.cell x y).pc = { c.pc with
            cnt := cntAdd c.pc.cnt 1 1,
            waits := c.pc.waits ++ [{ opId := c.nextOp, stream := st, step := c.walkPos i, desc := i, lines := lines }],
            fetches := c.pc.fetches.map (fun q => if q.stream = st && ! q.dead && q.taken.isNone && lines.contains q.addr then
              { q with taken := some (now st q.addr) } else q) ++ missFetches c st c.nextOp now need })) ∧
    (Ready s x y n (isOf .p 0x02) p →
      (l = [] → ∃ t, exec (.chWrite x y n) s = .next t ∧ keeps t ∧ Promised c (t.cell x y) n (c.pulse + 3) [] ∧ (t.cell x y).pc = c.pc) ∧
      (∀ q u, l = q :: u → ∃ t o, exec (.chWrite x y n) s = .next t ∧ keeps t ∧
        (t.cell x y).ops = c.ops ++ [o] ∧ o.id = c.nextOp ∧ o.due = c.pulse + 3 ∧ o.outs = [] ∧ o.waiting = hostScope c q.1 ∧
        (t.cell x y).pc = { c.pc with
          pwb := c.pc.pwb ++ pwbOf (chanOf x y) l none (if hostScope c q.1 then some c.nextOp else none) }))

/-- GATHER (R115, R116, R123), PLAN (R117, R118, R120) and CHECK (R121, R122): an EXPAND slot first has its engine read ahead, and then emits
the next item of its stored tile, unless the tile is malformed; a SPAN slot emits the next row of its span; PLAN opens a span and reads its
history record; CHECK classifies the groups of its item and forwards it. -/
def Sys2Proof.Claims.GatherSlotsWork : Prop :=
  ∀ (s : State) (x y n : Nat) (p : Plan),
    let c := s.cell x y
    let w := c.slot n
    let i := sOpa w % 128
    let m := s.myMod
    let e := expandEngine m x y n c
    let s1 := (s.setCell x y e.1).inject x y e.2
    let cmd := SpanCmd.of (c.headItem (sSrc0 w))
    let scaled := (scqOf (sOpb w)).isSome
    (siteOk x y = true → n < 64 → s.bodyOut x y = false → s.clocked x y = true → isExpand (clsOf x y) w = true → slotOn c n = true →
      e.1.data = c.data ∧ e.1.queues = c.queues ∧ e.1.slots = c.slots ∧ e.1.ops = c.ops ∧ e.1.runs = c.runs ∧
      (∀ k ∈ e.2, k.op = opRd ∧ k.cls = clsReq ∧ k.srcPort = portL) ∧
      (∀ b, expandHit e.1 n = some b → ∃ t, exec (.gatherExpand x y n) s = .next t ∧ Froze s1 t x y memUncorrectable n 0 (cellAddr m x y (8 * b))) ∧
      (expandHit e.1 n = none → expandBad e.1 n = true → ∃ t, exec (.gatherExpand x y n) s = .next t ∧ Froze s1 t x y loadFormat n 0 0) ∧
      (expandHit e.1 n = none → expandBad e.1 n = false →
        (slotReady .g e.1 n = none → exec (.gatherExpand x y n) s = .next s1) ∧
        (Ready s1 x y n isExpand p → ∀ q h, expTile e.1 n = some (q, h) →
          let rd := fun (o : Nat) => ringByte e.1 (e.1.desc i) (q.tileOff + o)
          let used := ringAddrs (e.1.desc i) q.tileOff ((if q.item = 0 then span 0 32 else []) ++ span 32 h.sec0 ++ h.used rd q.item scaled)
          let sf := scaleFill (e.1.run n) (if scaled then h.scales rd q.item else [])
          (∀ b, e.1.data.badWord used = some b → ∃ t, exec (.gatherExpand x y n) s = .next t ∧
            Froze s1 t x y memUncorrectable n 0 (cellAddr m x y (8 * b))) ∧
          (e.1.data.badWord used = none →
            let last := q.item + 1 = h.items
            ∃ t, exec (.gatherExpand x y n) s = .next t ∧ OnlyCell s1 t x y ∧
              Issued s1 x y (t.cell x y) n p { e.1.run n with scPart := sf.2 } ∧
              Promised e.1 (t.cell x y) n (e.1.pulse + 4) (gatherOuts w (h.item rd q.item) sf.1) ∧
              (t.cell x y).gc = { e.1.gc with
                expands := if ¬ last then tset e.1.gc.expands n { q with item := q.item + 1 }
                  else if q.left = 1 then tdel e.1.gc.expands n
                  else tset e.1.gc.expands n { q with left := q.left - 1, tileOff := up64 (q.tileOff + h.size), item := 0, hdr := none },
                cnt := if last then cntAdd (cntAdd e.1.gc.cnt 0x44 1) 0x48 (b2n h.dense) else e.1.gc.cnt } ∧
              (t.cell x y).aflags = e.1.aflags ∧ ReadThrough e.1 (t.cell x y) used (stepped e.1 [i]) ∧
              restMem { t.cell x y with gc := e.1.gc } = restMem e.1)))) ∧
    (Ready s x y n isSpan p → ∀ q, spanToEmit c i = some q →
      let used := spanUsed (c.desc q.desc) q scaled
      let v := spanItem c (c.desc q.desc) q
      let sf := scaleFill (c.run n) (if scaled then v.2 else [])
      (∀ b, c.data.badWord used = some b → ∃ t, exec (.gatherSpan x y n) s = .next t ∧
        Froze s t x y memUncorrectable n 0 (cellAddr m x y (8 * b))) ∧
      (c.data.badWord used = none → ∃ t, exec (.gatherSpan x y n) s = .next t ∧ OnlyCell s t x y ∧
        Issued s x y (t.cell x y) n p { c.run n with scPart := sf.2 } ∧
        Promised c (t.cell x y) n (c.pulse + 4) (gatherOuts w v.1 sf.1) ∧
        (t.cell x y).gc = { c.gc with spans := closeSpans (updSpan c.gc.spans q { q with emitted := q.emitted + 1 }) } ∧
        (t.cell x y).aflags = c.aflags ∧ ReadThrough c (t.cell x y) used (stepped c [i]) ∧
        restMem { t.cell x y with gc := c.gc } = restMem c)) ∧
    (Ready s x y n isPlan p →
      (cmd.resv = true ∨ cmd.fmt ≠ sFmt w → ∃ t, exec (.plan x y n) s = .next t ∧ Froze s t x y loadFormat n 0 0) ∧
      (cmd.resv = false → cmd.fmt = sFmt w →
        ((c.desc i).bound < cmd.groups * gLen cmd.fmt cmd.rows cmd.mx → ∃ t, exec (.plan x y n) s = .next t ∧
          Froze s t x y loadBufferSize n 0 0) ∧
        (cmd.groups * gLen cmd.fmt cmd.rows cmd.mx ≤ (c.desc i).bound →
          let g := dword ((c.gc.histBase.toNat / 16 * 16 + 16 * cmd.hist) / 64 * 64)
          ∃ t, exec (.plan x y n) s = .next t ∧ Issued s x y (t.cell x y) n p (c.run n) ∧
            Promised c (t.cell x y) n (c.pulse + 2) [] ∧
            (t.cell x y).gc = { c.gc with
              nextSpan := c.gc.nextSpan + 1,
              fallback := c.gc.fallback && c.gc.fbLayer = cmd.layer,
              spans := c.gc.spans ++ [{
                num := c.gc.nextSpan, desc := i, slot := n, base := cmd.base, gstride := cmd.gstride, hist := cmd.hist, layer := cmd.layer,
                groups := cmd.groups, rows := cmd.rows, fmt := cmd.fmt, mx := cmd.mx, planned := false, fetched := 0, missing := [],
                live := 0, checked := 0, misses := 0, emitted := 0 }] } ∧
            (t.cell x y).reqs = c.reqs ++ [{ tag := c.tag, slot := n, opId := 0, kind := .histRead c.gc.nextSpan, dest := g, age := 0,
                                             resend := none }] ∧
            (t.cell x y).aflags = c.aflags ∧ rest { t.cell x y with gc := c.gc, reqs := c.reqs, nextTag := c.nextTag } = rest c ∧
            CellSends s t x y [{ pktOf m x y portL with dest := g, cls := clsReq, op := opRd, tag := c.tag }]))) ∧
    (Ready s x y n isCheck p → ∀ q, spanToCheck c i = some q →
      let r := c.run n
      let it := c.headItem (sSrc0 w)
      let sc := match scqOf (sOpb w) with
        | some k => (scaleBytes c k r.sc0 (blocks (sFmt w))).map some
        | none => copies 2 none
      let k := min (gpi q.fmt) (q.groups - q.checked)
      let isLive := fun (g : Nat) => groupLive q.fmt it (g - q.checked) (lgetD sc (g - q.checked) none)
      ∃ t u l v, exec (.check x y n) s = .next t ∧ CellSends s t x y l ∧
        Issued s x y (t.cell x y) n p { r with sc0 := match scqOf (sOpb w) with
          | some _ => if lastFiring w r then 0 else (scaleStep r.sc0 (blocks (sFmt w))).1
          | none => r.sc0 } ∧
        (t.cell x y).ops = c.ops ++ u ∧ (∃ o, u.head? = some o ∧ o.due = c.pulse + 2 ∧ o.outs = outsOf (dstQs w) it) ∧
        (t.cell x y).gc.spans = closeSpans (updSpan c.gc.spans q v) ∧ v.checked = q.checked + k ∧ v.emitted = q.emitted ∧ v.num = q.num ∧
        (∀ g, g < 64 → v.live.getLsbD g = if q.checked ≤ g ∧ g < q.checked + k then isLive g || q.live.getLsbD g else q.live.getLsbD g) ∧
        (∀ g, q.checked ≤ g → g < q.checked + k → g < 64 → isLive g = true → v.fetched.getLsbD g = true) ∧
        (∀ g, q.fetched.getLsbD g = true → v.fetched.getLsbD g = true) ∧
        (v.checked < q.groups → ∀ o ∈ l, o.op = opRd) ∧
        (q.groups ≤ v.checked → ∃ o, l.getLast? = some o ∧ o.op = opWr) ∧
        (t.cell x y).data = c.data ∧ (t.cell x y).gc.hash = c.gc.hash ∧ (t.cell x y).walk = c.walk ∧ (t.cell x y).aflags = c.aflags)

/-- HASH_ADD (R49, R125, R127, R128) and HASH_DRAIN (R129): a valid record joins the table or is spilled, in three pulses for each probe; a drain
whose spill writes are all acknowledged empties the table and hands every record, two an item, and a terminator to its op; one with spill writes
still out holds the unit and waits. -/
def Sys2Proof.Claims.HashSlotsAddAndDrain : Prop :=
  ∀ (s : State) (x y n : Nat) (p : Plan),
    let c := s.cell x y
    let w := c.slot n
    let r : BitVec 128 := BitVec.ofNat 128 (c.headItem (sSrc0 w)).toNat
    let at_ := spillSite c
    let mem := (s.cell at_.1 at_.2.1).data
    let add := hAdd c.gc.hash r [0, 1, 2, 3]
    let v := hDrain c.gc.hash (spillRecs mem c)
    (Ready s x y n (isOf .g 0x03) p →
      (hValid r = false → ∃ t, exec (.hashAdd x y n) s = .next t ∧ OnlyCell s t x y ∧ Issued s x y (t.cell x y) n p (c.run n) ∧
        (t.cell x y).ops = c.ops ∧ (t.cell x y).aflags = c.aflags ∧ rest (t.cell x y) = rest c) ∧
      (hValid r = true → c.gc.hashBad = [] →
        let due := c.pulse + 3 * hTries c.gc.hash r [0, 1, 2, 3]
        (add.2 = true → ∃ t, exec (.hashAdd x y n) s = .next t ∧ OnlyCell s t x y ∧ Issued s x y (t.cell x y) n p (c.run n) ∧
          Promised c (t.cell x y) n due [] ∧ (t.cell x y).gc = { c.gc with cnt := cntAdd c.gc.cnt 0x4C 1, hash := add.1 } ∧
          (t.cell x y).aflags = c.aflags ∧ rest { t.cell x y with gc := c.gc } = rest c) ∧
        (add.2 = false →
          let a := c.gc.spillBase.toNat / 64 * 64 + 16 * c.gc.spillCount
          let l := cellsAt a (leBytes 16 r.toNat)
          ∃ t, exec (.hashAdd x y n) s = .next t ∧ Issued s x y (t.cell x y) n p (c.run n) ∧ Promised c (t.cell x y) n due [] ∧
            (t.cell x y).gc = { c.gc with cnt := cntAdd (cntAdd c.gc.cnt 0x4C 1) 0x50 1, hash := add.1, spillCount := c.gc.spillCount + 1 } ∧
            (t.cell x y).reqs = c.reqs ++ [{ tag := c.tag, slot := n, opId := 0, kind := .spill, dest := dword (64 * (a / 64)), age := 0,
                                             resend := none }] ∧
            (t.cell x y).aflags = c.aflags ∧ rest { t.cell x y with gc := c.gc, reqs := c.reqs, nextTag := c.nextTag } = rest c ∧
            CellSends s t x y [{ pktOf s.myMod x y portL with
              dest := dword (64 * (a / 64)), cls := clsReq, op := opWr, tag := c.tag,
              arg := dword (granuleEn l (a / 64)), payload := bytesFlits 2 (granuleData l (a / 64)) }]))) ∧
    (Ready s x y n (isOf .g 0x04) p → c.gc.drain = none →
      (c.reqs.any (fun q => q.kind = .spill) = true → ∃ t o, exec (.hashDrain x y n) s = .next t ∧ OnlyCell s t x y ∧
        Issued s x y (t.cell x y) n p (c.run n) ∧ (t.cell x y).ops = c.ops ++ [o] ∧ o.waiting = true ∧ o.promised = false ∧ o.outs = [] ∧
        (t.cell x y).gc = { c.gc with drain := some { opId := c.nextOp, slot := n, residue := none } } ∧
        rest { t.cell x y with gc := c.gc } = rest c) ∧
      (c.reqs.any (fun q => q.kind = .spill) = false → c.gc.hashBad = [] → mem.badWord (spillSpan c) = none →
        siteOk at_.1 at_.2.1 = true → clsOf at_.1 at_.2.1 = .m →
        ∃ t o, exec (.hashDrain x y n) s = .next t ∧ Issued s x y (t.cell x y) n p (c.run n) ∧
          (t.cell x y).ops = c.ops ++ [o] ∧ o.id = c.nextOp ∧ o.due = c.pulse + 4 ∧ o.waiting = false ∧ o.promised = false ∧
          o.outs = v.1.flatMap (outsOf (dstQs w)) ∧
          (t.cell x y).gc = { c.gc with
            hash := [], spillCount := if v.1.length ≤ 1 then 0 else c.gc.spillCount,
            drain := some { opId := c.nextOp, slot := n, residue := some (v.2.length, (pairItems v.2).length) } } ∧
          (t.cell at_.1 at_.2.1).data = mem.write (cellsAt at_.2.2 (v.2.flatMap (fun r => leBytes 16 r.toNat))) ∧
          (∀ a b, siteIx a b ≠ siteIx x y → siteIx a b ≠ siteIx at_.1 at_.2.1 → t.cell a b = s.cell a b) ∧
          (∀ a b, t.router a b = s.router a b) ∧ t.helm = s.helm ∧ t.fields = s.fields ∧
          (t.cell x y).aflags = c.aflags ∧ rest { t.cell x y with gc := c.gc } = rest c))

/-! ### Cell control -/

/-- START, STOP, APPLY, CLR_CNT and APPLY_COMPLETE on a body in service (R44, R57, R59, R60, R66, R82, R89, R120, R130, R198, R219): no router,
no storage byte, no accumulator, no predicate and no queue changes; a START of a cell that is not IDLE has no effect, and a fenced body
takes no state. From the pulse after a STOP or an APPLY on no slot issues. -/
def Obligations.CellCommandsChangeTheCellsState : Prop :=
  ∀ (s : State) (x y : Nat), siteOk x y = true →
    let c := s.cell x y
    let keeps := fun (t : State) => OnlyCell s t x y ∧ (t.cell x y).data = c.data ∧ (t.cell x y).acc = c.acc ∧
      (t.cell x y).pred = c.pred ∧ (t.cell x y).queues = c.queues ∧ (t.cell x y).slots = c.slots ∧ (t.cell x y).descs = c.descs
    let halts := fun (d : Cell) => (c.stopping = false → c.applyPending = false → d.haltFrom = c.pulse + 1) ∧
      ∀ n k, d.haltFrom ≤ k → slotOn { d with pulse := k } n = false
    (s.bodyOut x y = true → ∀ i ∈ [Instr.start x y, .stop x y, .apply x y, .applyComplete x y, .clrCnt x y], exec i s = .next s) ∧
    (s.bodyOut x y = false →
      (∃ t, exec (.start x y) s = .next t ∧ keeps t ∧
        (c.state = .idle → (t.cell x y).state = .active ∧ (t.cell x y).stopping = false ∧ (t.cell x y).faultCode = 0 ∧ (t.cell x y).aflags = 0 ∧
          (t.cell x y).owes = true ∧ (t.cell x y).issueFrom = c.pulse + 1 ∧ (t.cell x y).wdogCount = 0 ∧
          (∀ i, (t.cell x y).walkPos i = 0) ∧
          (∀ n, n < 64 → (t.cell x y).run n = { SlotRun.reset with left := sRepeat (c.slot n) }) ∧
          (clsOf x y = .g → (t.cell x y).gc.hash = [] ∧ (t.cell x y).gc.spans = [] ∧ (t.cell x y).gc.spillCount = 0 ∧
            (t.cell x y).gc.fallback = false ∧ (t.cell x y).gc.drain = none ∧ (t.cell x y).gc.hashFree = c.pulse + 1025) ∧
          (clsOf x y = .p → (t.cell x y).pc.lines = [] ∧ (t.cell x y).pc.pwb = c.pc.pwb ∧ ∀ f ∈ (t.cell x y).pc.fetches, f.dead = true) ∧
          (clsOf x y = .c → (t.cell x y).sg.wins = [] ∧ (t.cell x y).sg.captured = false ∧ (t.cell x y).sg.entry = c.sg.entry) ∧
          (t.cell x y).slotEn = c.slotEn ∧ (t.cell x y).ops = c.ops ∧ (t.cell x y).reqs = c.reqs) ∧
        (c.state ≠ .idle → t.cell x y = c)) ∧
      (∃ t, exec (.stop x y) s = .next t ∧ keeps t ∧
        (c.state = .idle → t.cell x y = c) ∧
        (c.state ≠ .idle → t.cell x y = { c with haltFrom := (t.cell x y).haltFrom, stopping := true, sg := { c.sg with wins := [] } } ∧
          halts (t.cell x y))) ∧
      (∃ t, exec (.apply x y) s = .next t ∧ keeps t ∧
        (c.state = .active → t.cell x y = { c with haltFrom := (t.cell x y).haltFrom, applyPending := true } ∧ halts (t.cell x y)) ∧
        (c.state ≠ .active → t.cell x y = { c with slotEn := c.slotEnShadow, applyPending := false })) ∧
      (∃ t, exec (.applyComplete x y) s = .next t ∧ keeps t ∧
        (c.applyPending = true → c.ops.all (fun o => ! o.fixed) = true →
          t.cell x y = { c with slotEn := c.slotEnShadow, applyPending := false, issueFrom := c.pulse + 1 }) ∧
        (c.applyPending = false ∨ c.ops.any (fun o => o.fixed) = true → t.cell x y = c)) ∧
      (∃ t, exec (.clrCnt x y) s = .next t ∧ keeps t ∧
        t.cell x y = { c with lockedWrites := 0, firings := 0, outStalls := 0, inStalls := 0 }))

/-- RESULT_WRITE (R32, R42, R45, R46, R69, R71, R183): each queue that an op has results for takes one item, the accumulators its sums, the
predicate its value, which slots read from the next pulse on; an op with nothing left leaves flight, one with a second item for a queue
writes that a pulse later; one that would add into an uncorrectable word freezes the cell. -/
def Sys2Proof.Claims.ResultWriteDeliversAnOp : Prop :=
  ∀ (s : State) (x y id : Nat) (o : Op),
    let c := s.cell x y
    let d := dueOuts [] o.outs
    siteOk x y = true → c.ops.find? (fun o => o.id = id) = some o →
    (canWrite c o = false → exec (.resultWrite x y id) s = .next s) ∧
    (canWrite c o = true →
      (c.accHit (o.adds.map (·.1)) = none → ∃ t, exec (.resultWrite x y id) s = .next t ∧ OnlyCell s t x y ∧
        (d.2 = [] → (t.cell x y).ops = c.ops.filter (fun e => e.id ≠ o.id)) ∧
        (d.2 ≠ [] → (t.cell x y).ops = c.ops.map (fun e => if e.id = o.id then
          { e with outs := d.2, due := c.pulse + 1, adds := [], pred := none } else e)) ∧
        (∀ q, items (t.cell x y) q = items c q ++ (d.1.filter (fun v => v.1 = q)).map (·.2)) ∧
        (t.cell x y).acc = (c.addAll o.adds).acc ∧ (t.cell x y).aflags = (c.addAll o.adds).aflags ∧
        (t.cell x y).pred = (match o.pred with
          | some (k, b) => setBit c.pred k b
          | none => c.pred) ∧
        (∀ k b, o.pred = some (k, b) → (t.cell x y).predWas = some (c.predWas.getD c.pred)) ∧
        (t.cell x y).data = c.data ∧ (t.cell x y).state = c.state ∧ (t.cell x y).reqs = c.reqs ∧ (t.cell x y).runs = c.runs ∧
        (t.cell x y).slotEn = c.slotEn ∧ (t.cell x y).walk = c.walk ∧ (t.cell x y).pc = c.pc ∧ (t.cell x y).sg = c.sg ∧
        (t.cell x y).gc.hash = c.gc.hash ∧ (t.cell x y).gc.spans = c.gc.spans) ∧
      ((c.accHit (o.adds.map (·.1))).isSome = true → ∃ t, exec (.resultWrite x y id) s = .next t ∧
        CellSends s t x y [reportPkt s.myMod x y portL (reportFlit 1 memUncorrectable x y o.slot 0 0 0 0)] ∧
        FrozenCell { c with ops := c.ops.filter (fun e => e.id ≠ id) } (t.cell x y) memUncorrectable))

/-- IDLE_POINT, WDOG_TRIP, SIGHT_COMPARE and SG_CLR_CNT (R54, R55, R56, R57, R58, R60, R82, R217-R221, R226, R416): an idle point applies the
shadow and sends the reports that are owed; a trip freezes the cell and says where; a window that passes, is not compared or fails is
counted so, and the first that fails is captured. -/
def Sys2Proof.Claims.CellEventsHappen : Prop :=
  ∀ (s : State) (x y : Nat), siteOk x y = true →
    let c := s.cell x y
    let rep := fun (kind : Nat) (code : Code) (ix fl det : Nat) => reportPkt s.myMod x y portL (reportFlit kind code x y ix fl 0 det 0)
    (s.bodyOut x y = false → idleDue c = true → ∃ t, exec (.idlePoint x y) s = .next t ∧
      CellSends s t x y ((if c.owes && retiredAll c then [rep 5 0 0xFF 0 0] else []) ++
        (if c.aflags = 0 ∧ c.eccFixed = 0 then [] else [rep 2 0 0xFF c.aflags.toNat (min c.eccFixed (2 ^ 32 - 1))])) ∧
      t.cell x y = { c with state := .idle, stopping := false, slotEn := c.slotEnShadow, applyPending := false, quietSince := c.pulse,
                            owes := c.owes && ! retiredAll c }) ∧
    (idleDue c = false → exec (.idlePoint x y) s = .next s) ∧
    (let lim := c.wdogWas.getD c.wdogLimit;
      (lim = 0 ∨ c.wdogCount < max 4096 lim.toNat ∨ wdogHit (clsOf x y) c = none → exec (.wdogTrip x y) s = .next s) ∧
      (∀ n f e, s.bodyOut x y = false → lim ≠ 0 → max 4096 lim.toNat ≤ c.wdogCount → wdogHit (clsOf x y) c = some (n, f, e) →
        let info := word (n * 256 + f * 16 + e)
        ∃ t, exec (.wdogTrip x y) s = .next t ∧ CellSends s t x y [rep 1 fabReconvergenceStall n 0 info.toNat] ∧
          FrozenCell { c with wdogInfo := info, wdogTrip := true, wdogCount := 0 } (t.cell x y) fabReconvergenceStall)) ∧
    (∀ k, clsOf x y = .c → k < 4 →
      (fullWin c k = none → exec (.sightCompare x y k) s = .next s) ∧
      (∀ key v, fullWin c k = some (key, v) →
        let fm := sightFmt c k
        let info := word (min (key / 4) 0xFFFF * 2 ^ 16 + sgSlot (tgetD c.sg.entry k 0) * 256 + k)
        let g := { c.sg with wins := tdel c.sg.wins key, done := tset c.sg.done k (tgetD c.sg.done k 0 + 1) }
        let cap := fun (d : Sys2Proof.Machine.Dyadic) => if fm = 8 then word (twos 8 d.m) else word (fp32.roundD d).1
        (v.skip = true → ∃ t, exec (.sightCompare x y k) s = .next t ∧ OnlyCell s t x y ∧
          t.cell x y = { c with sg := { g with skipped := satInc c.sg.skipped, skipSum := c.sg.skipSum + 1 } }) ∧
        (v.skip = false → sightPass fm v = true → ∃ t, exec (.sightCompare x y k) s = .next t ∧ OnlyCell s t x y ∧
          t.cell x y = { c with sg := { g with windows := satInc c.sg.windows, winSum := c.sg.winSum + 1 } }) ∧
        (v.skip = false → sightPass fm v = false → ∃ t d, exec (.sightCompare x y k) s = .next t ∧
          CellSends s t x y [rep 1 sightMismatch (sgSlot (tgetD c.sg.entry k 0)) 0 d.sg.capInfo.toNat] ∧
          FrozenCell d (t.cell x y) sightMismatch ∧ { d with sg := c.sg } = c ∧
          d.sg.mismatch = satInc c.sg.mismatch ∧ d.sg.windows = satInc c.sg.windows ∧ d.sg.skipped = c.sg.skipped ∧ d.sg.captured = true ∧
          (c.sg.captured = false → d.sg.capInfo = info ∧ d.sg.capD = cap v.d ∧ d.sg.capC = cap v.c ∧
            d.sg.capTol = (if fm = 8 then 0 else roundUp (sightTol fm v.p v.q v.n))) ∧
          (c.sg.captured = true → d.sg.capInfo = c.sg.capInfo ∧ d.sg.capD = c.sg.capD ∧ d.sg.capC = c.sg.capC ∧ d.sg.capTol = c.sg.capTol)))) ∧
    (clsOf x y = .c → ∃ t, exec (.sgClrCnt x y) s = .next t ∧ OnlyCell s t x y ∧
      t.cell x y = { c with sg := { c.sg with windows := 0, skipped := 0, mismatch := 0 } })

/-! ### Streams and joins -/

namespace Sys2Proof.Claims
open Sys2Proof.Machine

/-- Two states that agree on everything but the cells and routers of the listed sites. -/
structure OnlySites (s t : State) (l : List (Nat × Nat)) : Prop where
  pending    : t.pending = s.pending
  cycle      : t.cycle = s.cycle
  mono       : t.mono = s.mono
  slowAt     : t.slowAt = s.slowAt
  fresh      : t.fresh = s.fresh
  fields     : t.fields = s.fields
  lanes      : t.lanes = s.lanes
  bridges    : t.bridges = s.bridges
  partitions : t.partitions = s.partitions
  sessions   : t.sessions = s.sessions
  helm       : t.helm = s.helm
  cells      : ∀ u v, (∀ p ∈ l, siteIx u v ≠ siteIx p.1 p.2) → t.cell u v = s.cell u v
  routers    : ∀ u v, (∀ p ∈ l, siteIx u v ≠ siteIx p.1 p.2) → t.router u v = s.router u v

/-- As `OnlySites`, with no cell changed. -/
structure OnlyRouters (s t : State) (l : List (Nat × Nat)) : Prop extends OnlySites s t l where
  allCells : ∀ u v, t.cell u v = s.cell u v

/-- The objects that a command may change. -/
structure Parts where
  sites    : List (Nat × Nat) := []
  fields   : List Nat := []
  lanes    : List Nat := []
  bridges  : List Nat := []
  parts    : List Nat := []
  sessions : List Nat := []
  helm     : Bool := false
  fresh    : Bool := false

/-- Two states that agree on everything but the named objects. Clocks and the queue of commands never differ. -/
structure Only (s t : State) (p : Parts) : Prop where
  pending  : t.pending = s.pending
  cycle    : t.cycle = s.cycle
  mono     : t.mono = s.mono
  slowAt   : t.slowAt = s.slowAt
  fresh    : p.fresh = false → t.fresh = s.fresh
  cells    : ∀ u v, (∀ q ∈ p.sites, siteIx u v ≠ siteIx q.1 q.2) → t.cell u v = s.cell u v
  routers  : ∀ u v, (∀ q ∈ p.sites, siteIx u v ≠ siteIx q.1 q.2) → t.router u v = s.router u v
  fields   : ∀ f, f ∉ p.fields → t.field f = s.field f
  lanes    : ∀ k n, 96 * k + n ∉ p.lanes → t.lane k n = s.lane k n
  bridges  : ∀ h, h ∉ p.bridges → t.bridge h = s.bridge h
  parts    : ∀ k, k ∉ p.parts → t.part k = s.part k
  sessions : ∀ k, k ∉ p.sessions → t.session k = s.session k
  helm     : p.helm = false → t.helm = s.helm

/-- A router whose counter `k` has counted one more, if `b`. -/
def counted (r : Router) (k : Nat) (b : Bool) : Router := if b then r.count k else r

/-- Router `q` is `r` but for what a static flit changes: lane buffers, the cycle of its link, the turn of the link's lanes. -/
structure FlitMoved (r q : Router) : Prop where
  rest : { q with lanes := r.lanes, used := r.used, rrLane := r.rrLane } = r

/-- Input lane `l` of router (x, y) has flit `f` at its head, which goes out by output lane `o` in this cycle (R133-R135). -/
abbrev Hops (s : State) (x y l o : Nat) (f : Flit) : Prop :=
  (s.router x y).laneHead l s.cycle = some f ∧ lmValid ((s.router x y).lmap l) = true ∧ lmJoin ((s.router x y).lmap l) = false ∧
    lmOut ((s.router x y).lmap l) = o ∧ s.laneGo x y o = true

/-- A flit with data `it` stands at the end of lane `k` of router `q`, which was `r`: it can go on in cycle `at_`. -/
structure FlitIn (r q : Router) (k : Nat) (it : Item) (bad : Bool) (at_ : Nat) : Prop where
  lane : q.lane k = r.lane k ++ [{ data := it, bad := bad, ready := at_ }]
  other : ∀ j, j ≠ k → q.lane j = r.lane j
  rest : { q with lanes := r.lanes } = r

/-- A queue of a cell after one item more: it is the youngest, nothing else changes but the ring's bank in use (R34). -/
structure ItemIn (c d : Cell) (q : Nat) (it : Item) (bad : Bool) : Prop where
  items : ((d.queue q).hw ++ (d.queue q).ring).map (fun i => (i.data, i.bad)) =
    ((c.queue q).hw ++ (c.queue q).ring).map (fun i => (i.data, i.bad)) ++ [(it, bad)]
  put   : (d.queue q).lastPut = some c.pulse
  same  : (d.queue q).credits = (c.queue q).credits ∧ (d.queue q).owed = (c.queue q).owed ∧ (d.queue q).lastPop = (c.queue q).lastPop
  other : ∀ j, j ≠ q → d.queue j = c.queue j
  rest  : { d with queues := c.queues, bankUse := c.bankUse } = c

end Sys2Proof.Claims

/-- STREAM_ITEM_SEND, STREAM_ITEM_ARRIVE, STATIC_FLIT_HOP (R31, R33, R57, R133-R135, R140, R353): an item leaves an outbound queue for one
credit, crosses link by link in order, and enters the inbound queue, or the staging store of a report collector, as it was sent; an
uncorrectable entry freezes the cell instead; a corrected flit is counted, an uncorrectable one goes on marked. What cannot move
waits, and nothing changes. -/
def Sys2Proof.Claims.StreamItemsMoveUnderCredits : Prop :=
  ∀ (s : State) (x y : Nat), siteOk x y = true →
    let c := s.cell x y
    let r := s.router x y
    (∀ q, q < 8 →
      let l := 16 + qLane c q
      let free := s.bodyOut x y = false ∧ s.routerUp x y = true ∧ qDir c q = 2 ∧ c.state ≠ .frozen ∧ (c.queue q).credits ≠ 0 ∧
        (r.lane l).length < 4 ∧ r.linkFree 5 s.cycle = true
      ((c.queue q).head c.pulse = none ∨ ¬ free → exec (.streamItemSend x y q) s = .next s) ∧
      (∀ it, (c.queue q).head c.pulse = some it → free →
        (it.bad = true → ∃ t, exec (.streamItemSend x y q) s = .next t ∧ Froze s t x y memUncorrectable 0xFF 0 0) ∧
        (it.bad = false → ∃ t, exec (.streamItemSend x y q) s = .next t ∧ OnlySite s t x y ∧
          (t.cell x y).queue q = { c.queue q with hw := (c.queue q).hw.drop 1, lastPop := some c.pulse, credits := (c.queue q).credits - 1 } ∧
          (∀ j, j ≠ q → (t.cell x y).queue j = c.queue j) ∧ { t.cell x y with queues := c.queues } = c ∧
          (t.router x y).lane l = r.lane l ++ [{ data := it.data, bad := false, ready := s.cycle }] ∧
          (∀ k, k ≠ l → (t.router x y).lane k = r.lane k) ∧ (t.router x y).linkFree 5 s.cycle = false ∧
          (∀ k, k ≠ 5 → (t.router x y).linkFree k s.cycle = r.linkFree k s.cycle) ∧ FlitMoved r (t.router x y)))) ∧
    (∀ l e, l < 20 →
      (r.laneHead l s.cycle = none ∨ lmValid (r.lmap l) = false ∨ lmJoin (r.lmap l) = true ∨ s.laneGo x y (lmOut (r.lmap l)) = false →
        exec (.streamItemArrive x y l e) s = .next s ∧ exec (.staticFlitHop x y l e) s = .next s) ∧
      (∀ f o, Hops s x y l o f →
        let left := fun (t : State) => (t.router x y).lane l = (r.lane l).drop 1 ∧ (∀ k, k ≠ l → (t.router x y).lane k = r.lane k) ∧
          (t.router x y).linkFree (o / 4) s.cycle = false ∧ FlitMoved (counted r 4 (e = .corrected)) (t.router x y)
        let bad := f.bad || e = .uncorrectable
        (o / 4 ≠ 4 → exec (.streamItemArrive x y l e) s = .next s) ∧ (4 ≤ o / 4 → exec (.staticFlitHop x y l e) s = .next s) ∧
        (∀ q, o / 4 = 4 → inQueue c (o % 4) = some q → ∃ t, exec (.streamItemArrive x y l e) s = .next t ∧ OnlySite s t x y ∧
          ItemIn c (t.cell x y) q f.data bad ∧ left t) ∧
        (o / 4 = 4 → inQueue c (o % 4) = none → ∃ t, exec (.streamItemArrive x y l e) s = .next t ∧ OnlySite s t x y ∧
          t.cell x y = c.collect f.data bad ∧ left t) ∧
        (∀ u v, o / 4 < 4 → beyond x y (o / 4) = some (u, v) → ∃ t, exec (.staticFlitHop x y l e) s = .next t ∧
          OnlyRouters s t [(x, y), (u, v)] ∧ left t ∧
          FlitIn (s.router u v) (t.router u v) (4 * opposite (o / 4) + o % 4) f.data bad (s.cycle + 1 + crossing x y (o / 4)))))

/-- CREDIT_RETURN (R33, R147) and QEXT_GRANULE_MOVE (R34, R36): the credit of a pop in cycle p reaches its source once p + d + 1 has come
and not before, and is owed no more once every source has it; a granule move takes up to two of the oldest items of the ring, in order, when
its bank is free, and loses none; the ring's new head cannot be popped for four pulses. -/
def Sys2Proof.Claims.CreditsReturnAndRingsRefill : Prop :=
  ∀ (s : State) (x y q : Nat), siteOk x y = true → q < 8 →
    let c := s.cell x y
    let v := c.queue q
    (qDir c q ≠ 2 ∨ streamEnd s x y q = none → exec (.creditReturn x y q) s = .next s) ∧
    (∀ u w k d, qDir c q = 2 → streamEnd s x y q = some (u, w, k, d) →
      let dst := (s.cell u w).queue k
      let all := streamSources s u w k
      (dst.owed.find? (fun p => ! p.2.contains (siteIx x y, q)) = none → exec (.creditReturn x y q) s = .next s) ∧
      (∀ p, dst.owed.find? (fun p => ! p.2.contains (siteIx x y, q)) = some p →
        (s.cycle < p.1 + d + 1 → exec (.creditReturn x y q) s = .next s) ∧
        (p.1 + d + 1 ≤ s.cycle → siteOk u w = true → (u, w, k) ≠ (x, y, q) → ∃ t, exec (.creditReturn x y q) s = .next t ∧
          OnlySites s t [(x, y), (u, w)] ∧ (∀ a b, t.router a b = s.router a b) ∧
          ((t.cell x y).queue q).credits = v.credits + 1 ∧
          (∀ a b j, siteOk a b = true → (a, b, j) ≠ (x, y, q) → ((t.cell a b).queue j).credits = ((s.cell a b).queue j).credits) ∧
          ((t.cell u w).queue k).owed = (if all.all (fun e => e = (siteIx x y, q) ∨ e ∈ p.2) then dst.owed.erase p
            else dst.owed.map (fun o => if o = p then (p.1, (siteIx x y, q) :: p.2) else o)) ∧
          (∀ a b j, siteOk a b = true → (a, b, j) ≠ (u, w, k) → ((t.cell a b).queue j).owed = ((s.cell a b).queue j).owed) ∧
          (∀ a b j, { (t.cell a b).queue j with credits := 0, owed := [] } = { (s.cell a b).queue j with credits := 0, owed := [] }) ∧
          (∀ a b, { t.cell a b with queues := [] } = { s.cell a b with queues := [] })))) ∧
    (let k := min 2 (16 - v.hw.length)
     let stays := v.ring = [] ∨ 16 ≤ v.hw.length ∨ v.lastMove = some c.pulse ∨
      bankAt (clsOf x y) (ringAddr c q v.ringOut) ∈ c.bankUse
     (stays → exec (.qextGranuleMove x y q) s = .next s) ∧
     (¬ stays → ∃ t, exec (.qextGranuleMove x y q) s = .next t ∧ OnlyCell s t x y ∧
      ((t.cell x y).queue q).hw.map (fun i => (i.data, i.bad)) = (v.hw ++ v.ring.take k).map (fun i => (i.data, i.bad)) ∧
      ((t.cell x y).queue q).ring.map (fun i => (i.data, i.bad)) = (v.ring.drop k).map (fun i => (i.data, i.bad)) ∧
      (∀ i, ((t.cell x y).queue q).ring.head? = some i → c.pulse + 4 ≤ i.since) ∧
      (∀ j, j < v.hw.length → ((t.cell x y).queue q).hw[j]? = v.hw[j]?) ∧
      ((t.cell x y).queue q).lastMove = some c.pulse ∧ ((t.cell x y).queue q).credits = v.credits ∧ ((t.cell x y).queue q).owed = v.owed ∧
      (∀ j, j ≠ q → (t.cell x y).queue j = c.queue j) ∧
      (t.cell x y).bankUse = bankAt (clsOf x y) (ringAddr c q v.ringOut) :: c.bankUse ∧
      { t.cell x y with queues := c.queues, bankUse := c.bankUse } = c))

/-- JOIN_ITEM_ARRIVE and JOIN_OUTPUT (R70, R140, R147, R148): the first item of a join is held and later ones are added lane by lane; the sum is
complete when every input has given one and can leave two cycles later; adders that differ fault the output lane and report
REDUCE_MISMATCH, and nothing is forwarded; the oldest complete sum enters the next lane buffer or the queue. At most three complete sums
wait (the model's choice, log 20). -/
def Obligations.JoinsAddAndForward : Prop :=
  ∀ (s : State) (x y l : Nat), siteOk x y = true → l < 20 →
    let r := s.router x y
    let o := lmOut (r.lmap l)
    let outs := match tget r.joins o with
      | some j => j.outs
      | none => []
    (∀ e b, r.laneHead l s.cycle = none ∨ s.routerUp x y = false ∨ lmValid (r.lmap l) = false ∨ lmJoin (r.lmap l) = false ∨
      bitB r.laneFault o = true ∨ l ∈ r.joined o ∨ 3 ≤ outs.length ∨ (∃ f, r.laneHead l s.cycle = some f ∧ joinTurn r o l s.cycle f = false) →
      exec (.joinItemArrive x y l b e) s = .next s) ∧
    (∀ f e b, r.laneHead l s.cycle = some f → s.routerUp x y = true → lmValid (r.lmap l) = true → lmJoin (r.lmap l) = true →
      bitB r.laneFault o = false → l ∉ r.joined o → outs.length < 3 → joinTurn r o l s.cycle f = true →
      let q := counted r 4 (e = .corrected)
      let old := match tget r.joins o with
        | some j => if j.got = [] then (f.data, false) else (addItem j.sum f.data, j.bad)
        | none => (f.data, false)
      let bad := old.2 || f.bad || e = .uncorrectable
      let whole := ∀ k ∈ r.feeds o, k = l ∨ k ∈ r.joined o
      (b = false ∨ r.joined o = [] → ∃ t j, exec (.joinItemArrive x y l b e) s = .next t ∧ OnlyRouters s t [(x, y)] ∧
        tget (t.router x y).joins o = some j ∧
        (whole → j.got = [] ∧ j.outs = outs ++ [{ sum := old.1, bad := bad, due := s.cycle + 2 }]) ∧
        (¬ whole → j.got = r.joined o ++ [l] ∧ j.sum = old.1 ∧ j.bad = bad ∧ j.outs = outs) ∧
        (∀ k, k ≠ o → tget (t.router x y).joins k = tget r.joins k) ∧
        (t.router x y).lane l = (r.lane l).drop 1 ∧ (∀ k, k ≠ l → (t.router x y).lane k = r.lane k) ∧
        { t.router x y with lanes := r.lanes, joins := r.joins } = q) ∧
      (o < 20 → b = true → r.joined o ≠ [] → ∃ t, exec (.joinItemArrive x y l b e) s = .next t ∧ OnlyRouters s t [(x, y)] ∧
        tget (t.router x y).joins o = none ∧ (∀ k, k ≠ o → tget (t.router x y).joins k = tget r.joins k) ∧
        (t.router x y).lane l = (r.lane l).drop 1 ∧ (∀ k, k ≠ l → (t.router x y).lane k = r.lane k) ∧
        (∀ k, bitB (t.router x y).laneFault k = (decide (k = o) || bitB r.laneFault k)) ∧
        (t.router x y).inject = r.inject ++ [reportPkt s.myMod x y portL (reportFlit 3 reduceMismatch x y o 0 0 0 0)] ∧
        { t.router x y with lanes := r.lanes, joins := r.joins, laneFault := r.laneFault, inject := r.inject } = q.count 7)) ∧
    (tget r.joins l = none ∨ s.laneGo x y l = false ∨ (∃ j, tget r.joins l = some j ∧ j.head s.cycle = none) →
      exec (.joinOutput x y l) s = .next s) ∧
    (∀ j v, tget r.joins l = some j → j.outs.head? = some v → v.due ≤ s.cycle → s.laneGo x y l = true →
      let sent := fun (t : State) =>
        (tget (t.router x y).joins l = if j.got = [] ∧ j.outs.length = 1 then none else some { j with outs := j.outs.drop 1 }) ∧
        (∀ k, k ≠ l → tget (t.router x y).joins k = tget r.joins k) ∧ (∀ k, (t.router x y).lane k = r.lane k) ∧
        (t.router x y).linkFree (l / 4) s.cycle = false ∧ FlitMoved r { t.router x y with joins := r.joins }
      (∀ u w, l / 4 < 4 → beyond x y (l / 4) = some (u, w) → ∃ t, exec (.joinOutput x y l) s = .next t ∧
        OnlyRouters s t [(x, y), (u, w)] ∧ sent t ∧
        FlitIn (s.router u w) (t.router u w) (4 * opposite (l / 4) + l % 4) v.sum v.bad (s.cycle + 1 + crossing x y (l / 4))) ∧
      (∀ q, l / 4 = 4 → inQueue (s.cell x y) (l % 4) = some q → ∃ t, exec (.joinOutput x y l) s = .next t ∧ OnlySite s t x y ∧
        ItemIn (s.cell x y) (t.cell x y) q v.sum v.bad ∧ sent t) ∧
      (l / 4 = 4 → inQueue (s.cell x y) (l % 4) = none → ∃ t, exec (.joinOutput x y l) s = .next t ∧ OnlySite s t x y ∧
        t.cell x y = (s.cell x y).collect v.sum v.bad ∧ sent t))

/-! ### Packets -/

namespace Sys2Proof.Claims
open Sys2Proof.Machine

/-- The router that discards a packet, counts it under `k` and reports it with `d` (R140). -/
def discarded (s : State) (x y : Nat) (r : Router) (k d : Nat) : Router :=
  { r.count k with inject := r.inject ++ [reportPkt s.myMod x y portL (reportFlit 3 0 x y 0xFF 0 0 d 0)] }

/-- The router that answers a request from port L, or discards anything else; what it counts (R144, R149, R159). -/
def bounced (s : State) (x y : Nat) (r : Router) (p : Packet) (code : Code) (reason : Nat) (routed : Bool) : Router :=
  let lost : Bool := reason = 4 || (reason = 2 && p.isReq) || (routed && ! p.isReq)
  if p.isReq then { r.count (if lost then 2 else 0) with inject := r.inject ++ [p.fault s.myMod x y portL code reason] }
  else (counted r 2 lost).count 8

/-- Router `q` is `r` but for what a packet's flits on a link change: its cycle, the payload to follow, the turn of its channels. -/
abbrev OnLink (r q : Router) : Prop := { q with used := r.used, tail := r.tail, rrVc := r.rrVc } = r

/-- The router that a packet reaches over a link whose checks found `e` (R140, R143): in the buffer of port `k`, with the entries of the
tables as they stand, or discarded and reported. -/
abbrev Reached (s : State) (u v k : Nat) (r q : Router) (p : Packet) (at_ : Nat) (e : LinkEcc) : Prop :=
  if e = .headerBad then OnLink (discarded s u v r 5 1) q
  else OnLink { counted r 4 (e = .corrected) with
    bufs := r.bufs ++ [s.flight u v k { p with damaged := p.damaged || e = .payloadBad } at_] } q

/-- The oldest packet waiting at a port. -/
abbrev Waits (s : State) (x y port : Nat) (p : Packet) (rest : List Packet) : Prop :=
  takeFirst (fun (p : Packet) => p.srcPort = port) (s.router x y).inject = some (p, rest)

end Sys2Proof.Claims

/-- PACKET_INJECT (R138, R140, R141, R149, R172): the oldest packet that waits at the port enters the router's buffer, for the destination its
address resolves to, and can leave two cycles later; one that a check refuses is answered FAB_FENCED_TARGET, REASON 3, where it waits, or
toward the peer that sent it; a response that leads nowhere is discarded. What finds no room waits. -/
def Sys2Proof.Claims.InjectedPacketsAreResolvedOnce : Prop :=
  ∀ (s : State) (x y port : Nat) (e : LinkEcc), siteOk x y = true → port < 6 →
    let r := s.router x y
    let link := if port = portL then 5 else 6 + port
    let free := fun (p : Packet) => r.vcRoom port p = true ∧ r.linkFree link s.cycle = true ∧ r.tailOf link = 0
    (takeFirst (fun (p : Packet) => p.srcPort = port) r.inject = none ∨ s.routerUp x y = false → exec (.packetInject x y port e) s = .next s) ∧
    (∀ p rest, Waits s x y port p rest → s.routerUp x y = true → p.mc = false →
      let r' := { r with inject := rest }
      (∀ u v q, destOf s x y port p = .to u v q →
        (¬ free p → exec (.packetInject x y port e) s = .next s) ∧
        (free p → ∃ t, exec (.packetInject x y port e) s = .next t ∧ OnlyRouters s t [(x, y)] ∧
          Reached s x y port r' (t.router x y) { p with dstX := u, dstY := v, dstPort := q } (s.cycle + 2) e ∧
          (t.router x y).tailOf link = p.payload.length ∧ (t.router x y).linkFree link s.cycle = false)) ∧
      (destOf s x y port p = .refused →
        ∃ t, exec (.packetInject x y port e) s = .next t ∧ OnlyRouters s t [(x, y)] ∧
          (p.isReq = false → t.router x y = r'.count 8) ∧
          (p.isReq = true → p.srcMod = s.myMod →
            t.router x y = { r'.count 0 with arrived := r.arrived ++ [(port, p.fault s.myMod x y port fabFencedTarget 3)] }) ∧
          (p.isReq = true → p.srcMod ≠ s.myMod →
            t.router x y = { r'.count 0 with inject := rest ++ [p.fault s.myMod x y port fabFencedTarget 3] })))

/-- PACKET_HOP (R133, R139-R144, R149, R159): the header moves to the router its port leads to, two cycles and the crossing later, two more
when it enters the detour set; a corrected flit is counted there, and a packet with an uncorrectable header goes no further and is
reported. One that the tables refuse is answered or discarded here. What finds no turn or no room waits. -/
def Obligations.PacketsHopRouterByRouter : Prop :=
  ∀ (s : State) (x y port vc : Nat) (e : LinkEcc), siteOk x y = true → port < 6 → vc < 8 →
    let r := s.router x y
    let key := 8 * port + vc
    (r.vcHead port vc s.cycle = none ∨ s.routerUp x y = false → exec (.packetHop x y port vc e) s = .next s) ∧
    (∀ f rest, r.vcHead port vc s.cycle = some (f, rest) → s.routerUp x y = true →
      let r' := { r with bufs := rest }
      (∀ p, wayOf s x y f.tabs f.pkt = .eject p → exec (.packetHop x y port vc e) s = .next s) ∧
      (∀ p code reason, wayOf s x y f.tabs f.pkt = .answer p code reason → ∃ t, exec (.packetHop x y port vc e) s = .next t ∧
        OnlyRouters s t [(x, y)] ∧
        t.router x y = bounced s x y (counted r' 1 (p.detour && ! f.pkt.detour)) p code reason p.detour) ∧
      (∀ q p sw u v, wayOf s x y f.tabs f.pkt = .send q p sw → beyond x y q = some (u, v) →
        let free := s.dynGo x y q key = true ∧ s.routerUp u v = true ∧ (s.router u v).vcRoom (opposite q) p = true
        (¬ free → exec (.packetHop x y port vc e) s = .next s) ∧
        (free → ∃ t, exec (.packetHop x y port vc e) s = .next t ∧ OnlyRouters s t [(x, y), (u, v)] ∧
          OnLink (counted r' 1 sw) (t.router x y) ∧ (t.router x y).tailOf q = (if p.payload = [] then r.tailOf q else p.payload.length) ∧
          (t.router x y).linkFree q s.cycle = false ∧ tget (t.router x y).rrVc q = some key ∧
          Reached s u v (opposite q) (s.router u v) (t.router u v) p (s.cycle + 2 + crossing x y q + (if sw then 2 else 0)) e)))

/-- PACKET_EJECT (R18, R133, R140, R149, R150, R154, R156, R291, R297, R302): at its destination a sound packet that no fence meets reaches its port
under the port's turn, or its peer lane under the lane's credits; one that fails its CRC or whose operation is unknown is discarded and
reported; one that meets a fence is answered; a stale response is discarded; the V port of a fenced P-cell in paired service sends on to
the pair. Which of several fences answers is the model's choice (log 38). -/
def Sys2Proof.Claims.PacketsEjectThroughFenceAndCrc : Prop :=
  ∀ (s : State) (x y port vc : Nat) (e : LinkEcc), siteOk x y = true → port < 6 → vc < 8 →
    let r := s.router x y
    let key := 8 * port + vc
    let waits := exec (.packetEject x y port vc e) s = .next s
    (r.vcHead port vc s.cycle = none ∨ s.routerUp x y = false → waits) ∧
    (∀ f rest p, r.vcHead port vc s.cycle = some (f, rest) → s.routerUp x y = true → wayOf s x y f.tabs f.pkt = .eject p →
      let r1 := { r with bufs := rest }
      let r2 := counted r1 4 (e = .corrected)
      let gives := fun (q : Router) => ∃ t, exec (.packetEject x y port vc e) s = .next t ∧ OnlyRouters s t [(x, y)] ∧ t.router x y = q
      let pairs : Bool := p.dstPort = portV && (laneAt x y).isNone && r.body && r.pair
      let sound := p.damaged = false ∧ e ≠ .payloadBad ∧ opKnown p.op = true
      let fence := fenceOf { r with fence := s.fenceWord x y } x y p
      (s.cycle < f.ready + 2 + p.payload.length → waits) ∧
      (f.ready + 2 + p.payload.length ≤ s.cycle →
        (pairs = true → gives { r with bufs := rest ++
          [{ f with pkt := { p with dstX := pairX x }, tabs := s.lookups x y { p with dstX := pairX x } }] }) ∧
        (pairs = false → e = .headerBad → gives (discarded s x y r1 5 1)) ∧
        (pairs = false → e ≠ .headerBad → ¬ sound → gives (discarded s x y r2 3 0)) ∧
        (pairs = false → e ≠ .headerBad → sound →
          (∀ code reason, fence = some (code, reason) → gives (bounced s x y r2 p code reason false)) ∧
          (fence = none → p.dstPort = portL → staleRsp (s.cell x y) p = true → gives (r2.count 9)) ∧
          (fence = none → p.dstPort = portL → staleRsp (s.cell x y) p = false → (s.cell x y).gated = true → waits) ∧
          (fence = none → (p.dstPort = portV → (laneAt x y).isNone = true) →
            (p.dstPort = portL → staleRsp (s.cell x y) p = false ∧ (s.cell x y).gated = false) →
            (s.ejectGo x y p.dstPort key = false → waits) ∧
            (s.ejectGo x y p.dstPort key = true → ∃ t, exec (.packetEject x y port vc e) s = .next t ∧ OnlyRouters s t [(x, y)] ∧
              OnLink { r2 with arrived := r.arrived ++ [(p.dstPort, p)] } (t.router x y))) ∧
          (∀ k n, fence = none → p.dstPort = portV → laneNo x y = some (k, n) →
            let l := s.lane k n
            let room := p.size ≤ lgetD l.credits p.cls 0 ∧ (p.isReq = true → l.reqs.length < 512)
            (p.mc = true → gives (r2.count 8)) ∧
            (p.mc = false → l.state ≠ .up → p.isReq = true →
              gives { r2 with inject := r.inject ++ [p.fault s.myMod x y portV codeLinkDown 0] }) ∧
            (p.mc = false → l.state ≠ .up → p.isReq = false → gives (r2.count 8)) ∧
            (p.mc = false → l.state = .up → ¬ room → waits) ∧
            (p.mc = false → l.state = .up → room → ∃ t, exec (.packetEject x y port vc e) s = .next t ∧
              Only s t { sites := [(x, y)], lanes := [96 * k + n] } ∧ (∀ a b, t.cell a b = s.cell a b) ∧ t.router x y = r2 ∧
              t.lane k n = { l with
                tx := l.tx ++ p.flits, credits := lset l.credits p.cls (lgetD l.credits p.cls 0 - p.size),
                reqs := if p.isReq then l.reqs ++ [{ x := p.srcX, y := p.srcY, port := p.srcPort, tag := p.tag }] else l.reqs })))))

namespace Sys2Proof.Claims
open Sys2Proof.Machine

/-- The MC_MISS of a drop (R152). -/
def missOf (s : State) (x y port : Nat) (h : McHeld) : Packet :=
  { h.pkt.answer s.myMod x y portL opMcMiss [] with arg := dword (port + h.tree * 256) }

/-- The MC_DONE of a router whose part of a tree is over, to its parent, or from the root to the sender (R152). -/
def doneOf (s : State) (x y : Nat) (h : McHeld) : List Packet :=
  let done := { h.pkt.answer s.myMod x y portL opMcDone [] with arg := dword h.drops }
  if h.pkt.srcX = x ∧ h.pkt.srcY = y then [done]
  else match beyond x y (mtParent (tgetD (s.router x y).mcTree h.tree 0)) with
    | some (u, v) => [{ done with dstX := u, dstY := v, dstPort := portR }]
    | none => []

/-- The router whose held packet of a tree stands as `h`; it is over when no branch is open or awaited (R152). -/
def settled (s : State) (x y : Nat) (r : Router) (h : McHeld) : Router :=
  let others := r.held.filter (fun v => v.tree ≠ h.tree)
  if h.open_ = [] ∧ h.await = [] then { r with held := others, inject := r.inject ++ doneOf s x y h } else { r with held := others ++ [h] }

/-- The router that drops a branch: counted, and missed to the sender (R152). -/
def droppedAt (s : State) (x y port : Nat) (r : Router) (h : McHeld) : Router :=
  { r.count 6 with inject := r.inject ++ [missOf s x y port h] }

/-- The router that a multicast packet enters (R151, R152): with no valid entry for its tree it is discarded, counted and not answered (the
model's choice, log 57); else it is held, and branches whose port is down are dropped at once. -/
def entered (s : State) (x y from_ : Nat) (r : Router) (p : Packet) (at_ : Nat) : Router :=
  let t := p.dstX % 256
  let w := tgetD r.mcTree t 0
  let ports := (List.range 4).filter (mtBranch w)
  let gone := ports.filter (fun q => r.down q)
  let h : McHeld := { tree := t, pkt := p, from_ := from_, since := at_ + p.payload.length,
                      open_ := ports.filter (fun q => ! r.down q) ++ (if mtLocal w then [portL] else []), await := [], drops := gone.length }
  if mtValid w = false then r.count 8 else settled s x y (gone.foldl (fun q k => droppedAt s x y k q h) r) h

/-- As `Reached`, of a multicast packet. -/
abbrev McReached (s : State) (u v k : Nat) (r q : Router) (p : Packet) (at_ : Nat) (e : LinkEcc) : Prop :=
  if e = .headerBad then OnLink (discarded s u v r 5 1) q
  else OnLink (entered s u v k (counted r 4 (e = .corrected)) { p with damaged := p.damaged || e = .payloadBad } at_) q

end Sys2Proof.Claims

/-- PACKET_INJECT of a multicast packet, MULTICAST_FORWARD and MC_HOLD_EXPIRY (R133, R140, R141, R149, R151, R152, R156, R158): an open branch whose
port is down, or whose cell a fence shuts off, is dropped, counted and missed to the sender at once; one that accepts nothing within
the hold limit likewise, and not before; an accepted branch to a tree router waits for its MC_DONE there; a local copy is written to
the cell, or discarded when its check fails (its branch closed without a drop: the model's choice, log 58). -/
def Sys2Proof.Claims.MulticastBranchesAcceptOrDrop : Prop :=
  ∀ (s : State) (x y : Nat) (e : LinkEcc), siteOk x y = true →
    let r := s.router x y
    (∀ port p rest, port < 6 → Waits s x y port p rest → s.routerUp x y = true → p.mc = true →
      let link := if port = portL then 5 else 6 + port
      let free := r.vcRoom port p = true ∧ r.linkFree link s.cycle = true ∧ r.tailOf link = 0
      (¬ free → exec (.packetInject x y port e) s = .next s) ∧
      (free → ∃ t, exec (.packetInject x y port e) s = .next t ∧ OnlyRouters s t [(x, y)] ∧
        McReached s x y port { r with inject := rest } (t.router x y) p (s.cycle + 2) e)) ∧
    (∀ tree port, tree < 256 → port < 5 →
      (r.mcOpen tree port = none →
        exec (.multicastForward x y tree port e) s = .next s ∧ exec (.mcHoldExpiry x y tree port) s = .next s) ∧
      (∀ h, r.mcOpen tree port = some h →
        let key := 8 * h.from_ + h.pkt.vc
        let waits := exec (.multicastForward x y tree port e) s = .next s
        let shut := { h with open_ := h.open_.erase port }
        let lost := fun (q : Router) => settled s x y (droppedAt s x y port q h) { shut with drops := h.drops + 1 }
        let gives := fun (q : Router) => ∃ t, exec (.multicastForward x y tree port e) s = .next t ∧ OnlyRouters s t [(x, y)] ∧ t.router x y = q
        (s.routerUp x y = false ∨ r.mcHead h s.cycle = false → waits) ∧
        (s.routerUp x y = true → r.mcHead h s.cycle = true →
          (port ≠ portL → r.down port = true → gives (lost r)) ∧
          (port = portL → s.cycle < h.since + 2 → waits) ∧
          (port = portL → h.since + 2 ≤ s.cycle →
            (s.mcFenced x y h = true → gives (lost (r.count 8))) ∧
            (s.mcFenced x y h = false → (s.cell x y).gated = true ∨ s.dynGo x y portL key = false → waits) ∧
            (s.mcFenced x y h = false → (s.cell x y).gated = false → s.dynGo x y portL key = true →
              let r2 := counted r 4 (e = .corrected)
              (e = .headerBad → ∃ t, exec (.multicastForward x y tree port e) s = .next t ∧ OnlyRouters s t [(x, y)] ∧
                OnLink (settled s x y (discarded s x y r 5 1) shut) (t.router x y)) ∧
              (e ≠ .headerBad → h.pkt.damaged = true ∨ e = .payloadBad → ∃ t, exec (.multicastForward x y tree port e) s = .next t ∧
                OnlyRouters s t [(x, y)] ∧ OnLink (settled s x y (discarded s x y r2 3 0) shut) (t.router x y)) ∧
              (e = .clean ∨ e = .corrected → h.pkt.damaged = false →
                let s1 := s.onRouter x y (fun q => (counted q 4 (e = .corrected)).useDyn portL s.cycle h.pkt.payload.length key)
                exec (.multicastForward x y tree port e) s = .next ((s1.cellWrite x y h.pkt).mcKeep x y shut)))) ∧
          (∀ u v, port ≠ portL → r.down port = false → beyond x y port = some (u, v) →
            let free := s.dynGo x y port key = true ∧ s.routerUp u v = true ∧ (s.router u v).vcRoom (opposite port) h.pkt = true
            (¬ free → waits) ∧
            (free → ∃ t, exec (.multicastForward x y tree port e) s = .next t ∧ OnlyRouters s t [(x, y), (u, v)] ∧
              OnLink { r with held := r.held.filter (fun v => v.tree ≠ h.tree) ++ [{ shut with await := port :: h.await }] } (t.router x y) ∧
              McReached s u v (opposite port) (s.router u v) (t.router u v) h.pkt (s.cycle + 2 + crossing x y port) e))) ∧
        (s.cycle < h.since + holdOf r.mcHold → exec (.mcHoldExpiry x y tree port) s = .next s) ∧
        (h.since + holdOf r.mcHold ≤ s.cycle → ∃ t, exec (.mcHoldExpiry x y tree port) s = .next t ∧ OnlyRouters s t [(x, y)] ∧
          t.router x y = lost r)))

/-- LINK_ALIVE_LOSS (R142, R157), FLUSH_STATIC (R154), RTR_CTRL.CLR_CNT (R159) and a lane-map write (R148, R158) change their router
alone: the port's DOWN bit once the router beyond is no longer up, the static lane buffers, the counters, the entry with the fault of the
output lanes it named and names. That the write takes a partial sum of those lanes away is the model's choice (log 20). -/
def Obligations.RouterCommandsChangeTheirRouter : Prop :=
  ∀ (s : State) (x y : Nat), siteOk x y = true →
    let r := s.router x y
    (∀ port, port < 4 →
      (∀ u v, beyond x y port = some (u, v) → s.routerUp x y = true → s.routerUp u v = false →
        ∃ t, exec (.linkAliveLoss x y port) s = .next t ∧ OnlyRouters s t [(x, y)] ∧
          t.router x y = { r with linkDown := setBit r.linkDown port true } ∧ (t.router x y).down port = true) ∧
      (beyond x y port = none ∨ s.routerUp x y = false ∨ (∃ u v, beyond x y port = some (u, v) ∧ s.routerUp u v = true) →
        exec (.linkAliveLoss x y port) s = .next s)) ∧
    (∃ t, exec (.flushStatic x y) s = .next t ∧ OnlyRouters s t [(x, y)] ∧ (∀ l, (t.router x y).lane l = []) ∧
      t.router x y = { r with lanes := [] }) ∧
    (∃ t, exec (.rtrClrCnt x y) s = .next t ∧ OnlyRouters s t [(x, y)] ∧ (∀ k, tgetD (t.router x y).cnt k 0 = 0) ∧
      t.router x y = { r with cnt := [] }) ∧
    (∀ l w, l < 20 →
      let named := fun (k : Nat) => k = lmOut (r.lmap l) ∨ k = lmOut w
      ∃ t, exec (.laneMapWrite x y l w) s = .next t ∧ OnlyRouters s t [(x, y)] ∧
      (t.router x y).lmap l = lmBits w ∧ (∀ k, k ≠ l → (t.router x y).lmap k = r.lmap k) ∧
      (∀ k, k < 20 → (named k → bitB (t.router x y).laneFault k = false) ∧ (¬ named k → bitB (t.router x y).laneFault k = bitB r.laneFault k)) ∧
      (∀ k, (named k → tget (t.router x y).joins k = none) ∧ (¬ named k → tget (t.router x y).joins k = tget r.joins k)) ∧
      { t.router x y with laneMap := r.laneMap, laneFault := r.laneFault, joins := r.joins } = r)

/-! ### Requests, responses, sync words, channels -/

namespace Sys2Proof.Claims
open Sys2Proof.Machine

/-- The request whose turn it is at port `port` of router (x, y) is `p`, of operation `op` (R18, R188); `r` is the router once it is taken. -/
abbrev Request (s : State) (x y port op : Nat) (p : Packet) (r : Router) : Prop :=
  siteOk x y = true ∧ port < 7 ∧ s.turnReq x y port = some (p, r) ∧ p.op = op

/-- No request of operation `op` has its turn there. -/
abbrev NoRequest (s : State) (x y port op : Nat) : Prop :=
  siteOk x y = true ∧ port < 7 ∧ ∀ p r, s.turnReq x y port = some (p, r) → p.op ≠ op

/-- The same of the oldest response. -/
abbrev Response (s : State) (x y port op : Nat) (p : Packet) (r : Router) : Prop :=
  siteOk x y = true ∧ port < 7 ∧ headRsp (s.router x y) port = some (p, r) ∧ p.op = op

abbrev NoResponse (s : State) (x y port op : Nat) : Prop :=
  siteOk x y = true ∧ port < 7 ∧ ∀ p r, headRsp (s.router x y) port = some (p, r) → p.op ≠ op

/-- A P-cell in paired service notes which channel has had its turn (R18). -/
def turned (s : State) (x y port : Nat) (p : Packet) (c : Cell) : Cell :=
  if port = portV ∧ s.servesPair x y = true ∧ p.chan.isSome = true then { c with pc := { c.pc with lastChan := p.chan } } else c

/-- The router is `r` with packets put up for injection. -/
abbrev Sends (t : State) (x y : Nat) (r : Router) (l : List Packet) : Prop := t.router x y = { r with inject := r.inject ++ l }

/-- `n` further counts of a 64-bit counter (R238). -/
def counts (t : Tbl Nat) (id n : Nat) : Tbl Nat := (List.range n).foldl (fun t _ => tset t id (sat64 (tgetD t id 0) 1)) t

/-- Firmware writes these records (R368, R369) and counts each under `id`, module-wide and for partition `p` (R238). -/
structure FwRecords (s t : State) (rs : List LogRec) (id : Nat) (p : Option Nat) : Prop where
  log   : t.helm.log = rs.foldl (fun (l : Logbook) r => l.soft s.cycle s.mono { r with origin := .firmware }) s.helm.log
  helm  : t.helm = { s.helm with log := t.helm.log, counters := counts s.helm.counters id rs.length }
  parts : ∀ k, t.part k = if p = some k then { s.part k with counters := counts (s.part k).counters id rs.length } else s.part k

/-- The record and the count of an uncorrectable word that a reader outside a cell has met (R183, R238, R368). -/
abbrev UeRecord (s t : State) (a : Dword) : Prop :=
  FwRecords s t [{ recOf 0x23 .firmware with code := memUncorrectable, addr := a }] 3
    (s.partOfField (fieldOf (addrSite a).1 (addrSite a).2))

/-- The access at a port is answered MEM_UNCORRECTABLE; a cell of this module reports that itself, for another requester firmware writes
the record (R183). -/
structure Refuses (s t : State) (x y port : Nat) (r : Router) (p : Packet) (a : Dword) : Prop where
  sends : Sends t x y r [p.fault s.myMod x y port memUncorrectable 0]
  own   : p.srcMod = s.myMod ∧ p.srcPort = portL → t.helm = s.helm ∧ ∀ k, t.part k = s.part k
  other : ¬ (p.srcMod = s.myMod ∧ p.srcPort = portL) → UeRecord s t a

/-- The state once a packet has been taken. -/
abbrev taken (s : State) (x y : Nat) (r : Router) : State := s.onRouter x y (fun _ => r)

/-- The cell freezes, and its router sends the report (R55, R226). -/
structure Freezes (s t : State) (x y : Nat) (r : Router) (c : Cell) (code : Code) (slot : Nat) (a : Dword) : Prop where
  only  : OnlySite s t x y
  cell  : FrozenCell c (t.cell x y) code
  sends : Sends t x y r [reportPkt s.myMod x y portL (reportFlit 1 code x y slot 0 0 0 a)]

end Sys2Proof.Claims

/-- RD (R18, R137, R149, R155, R162, R173, R174, R182, R183, R188, R272): cell storage and tower bytes come back in one RDATA, correctable words
corrected and counted, no byte changed; a read of host space waits for its host, behind an earlier write of its bytes; a read of an
uncorrectable word is answered MEM_UNCORRECTABLE; a tower that is not up is waited for. -/
def Obligations.ReadRequestsAreAnswered : Prop :=
  ∀ (s : State) (x y port : Nat) (p : Packet) (r : Router),
    let c := s.cell x y
    let a := fld p.dest 18 0
    let f := fld p.dest 47 40
    let q := s.field f
    let o := chanOff (fld p.dest 32 0)
    let words := span a p.bytes
    let waits := exec (.rd x y port) s = .next s
    (NoRequest s x y port opRd → waits) ∧
    (Request s x y portL opRd p r →
      let cell := { c with data := c.data.heal words, eccFixed := c.eccFixed + (c.data.weakOf words).length }
      (∀ b, cell.data.byte b = c.data.byte b) ∧ cell.data.bad = c.data.bad ∧
      (c.data.badWord words = none → ∃ t, exec (.rd x y portL) s = .next t ∧ Only s t { sites := [(x, y)] } ∧ t.cell x y = cell ∧
        Sends t x y r [p.answer s.myMod x y portL opRdata (bytesFlits (p.bytes / 32) (c.data.read a p.bytes))]) ∧
      (∀ w, c.data.badWord words = some w → ∃ t, exec (.rd x y portL) s = .next t ∧
        Only s t { sites := [(x, y)], parts := [0, 1, 2, 3], helm := true } ∧ t.cell x y = cell ∧
        Refuses s t x y portL r p (cellAddr s.myMod x y (8 * w)))) ∧
    (Request s x y portV opRd p r → port = portV →
      let raw := chanWords o.1 o.2 p.bytes
      let own := fromBridge p
      let dram := (wordsOf (if own then raw else dramBytes c.pc.pwb o.1 (span o.2 p.bytes))).filter (fun w => q.tower.bad.contains w)
      let held := if own then [] else wordsOf (((span o.2 p.bytes).filter (pwbBad c.pc.pwb o.1)).map (towerOff o.1))
      let bytes := if own then chanRaw q.tower o.1 o.2 p.bytes else (span o.2 p.bytes).map (pwbByte q.tower c.pc.pwb o.1)
      let cell := turned s x y portV p ((c.pcCount 6 (q.tower.weakOf raw).length).pcCount 7 dram.length)
      (towerUp q = false → waits) ∧
      (towerUp q = true →
        ((dram ++ held).head? = none → ∃ t, exec (.rd x y portV) s = .next t ∧ Only s t { sites := [(x, y)], fields := [f] } ∧
          t.cell x y = cell ∧ t.field f = { q with tower := q.tower.heal raw } ∧ (∀ b, (t.field f).tower.byte b = q.tower.byte b) ∧
          Sends t x y r [p.answer s.myMod x y portV opRdata (bytesFlits (p.bytes / 32) bytes)]) ∧
        (∀ w, (dram ++ held).head? = some w → ∃ t, exec (.rd x y portV) s = .next t ∧
          Only s t { sites := [(x, y)], fields := [f], parts := [0, 1, 2, 3], helm := true } ∧ t.cell x y = cell ∧
          t.field f = { q with tower := q.tower.heal raw } ∧ (∀ b, (t.field f).tower.byte b = q.tower.byte b) ∧
          Refuses s t x y portV r p (towerAddr s.myMod f (8 * w))))) ∧
    (Request s x y port opRd p r → port ≠ portL → port ≠ portV →
      (∀ h k, landingOf x y = some (h, k) → port = k →
        (s.hostAddr h (fld p.dest 47 0) p.bytes = none → ∃ t, exec (.rd x y port) s = .next t ∧ OnlyRouters s t [(x, y)] ∧
          t.router x y = bounced s x y r p fabFencedTarget 3 false) ∧
        (∀ ha, s.hostAddr h (fld p.dest 47 0) p.bytes = some ha →
          ((s.bridge h).holds ha.1 p.bytes = true → waits) ∧
          ((s.bridge h).holds ha.1 p.bytes = false → ∃ t, exec (.rd x y port) s = .next t ∧
            Only s t { sites := [(x, y)], bridges := [h] } ∧ t.cell x y = c ∧ t.router x y = r ∧
            t.bridge h = { s.bridge h with
              hostReads := (s.bridge h).hostReads ++ [{ hostTag := (s.bridge h).nextHostTag, pkt := p }],
              nextHostTag := (s.bridge h).nextHostTag + 1 }))) ∧
      ((∀ h, landingOf x y ≠ some (h, port)) → waits))

/-- WR (R18, R137, R162, R173, R174, R178, R180, R182, R183, R193): cell storage takes the enabled bytes and no other and acknowledges; a tower write
enters the posted write buffer, when it has room, or, from a bridge, the tower itself; a host-scope write is not acknowledged yet; a
write of part of an uncorrectable word is answered MEM_UNCORRECTABLE and stores nothing. -/
def Obligations.WriteRequestsStoreTheirBytes : Prop :=
  ∀ (s : State) (x y port : Nat) (p : Packet) (r : Router),
    let c := s.cell x y
    let f := fld p.dest 47 40
    let q := s.field f
    let o := chanOff (fld p.dest 32 0)
    let l := writeCells p (fld p.dest 18 0)
    let m := writeCells p o.2
    let tm := chanCells o.1 m
    let gs := granules (m.map (·.1))
    let ack := fun (port : Nat) => p.answer s.myMod x y port opWrack []
    let waits := exec (.wr x y port) s = .next s
    (NoRequest s x y port opWr → waits) ∧
    (Request s x y port opWr p r → port ≠ portL → port ≠ portV → waits) ∧
    (Request s x y portL opWr p r →
      (partialBad c.data l = none → ∃ t, exec (.wr x y portL) s = .next t ∧ Only s t { sites := [(x, y)] } ∧ Sends t x y r [ack portL] ∧
        t.cell x y = { c with data := c.data.write l, eccFixed := c.eccFixed + (c.data.weakPartial l).length } ∧
        (∀ a, (∀ v ∈ l, v.1 ≠ a) → (t.cell x y).data.byte a = c.data.byte a)) ∧
      (∀ w, partialBad c.data l = some w → ∃ t, exec (.wr x y portL) s = .next t ∧
        Only s t { sites := [(x, y)], parts := [0, 1, 2, 3], helm := true } ∧ t.cell x y = c ∧
        Refuses s t x y portL r p (cellAddr s.myMod x y (8 * w)))) ∧
    (Request s x y portV opWr p r → port = portV → fromBridge p = false →
      let host := hostScope c o.2
      let who := (p.srcMod, p.srcX, p.srcY, p.srcPort, p.tag)
      (16 < c.pc.pwb.length + gs.length → waits) ∧
      (c.pc.pwb.length + gs.length ≤ 16 → ∃ t, exec (.wr x y portV) s = .next t ∧ Only s t { sites := [(x, y)] } ∧
        t.cell x y = turned s x y portV p { c with pc := { c.pc with
          pwb := c.pc.pwb ++ pwbOf o.1 m (if host then some who else none) none } } ∧
        (pwbOf o.1 m (if host then some who else none) none).map (·.granule) = gs ∧
        Sends t x y r (if host = true ∧ gs ≠ [] then [] else [ack portV]))) ∧
    (Request s x y portV opWr p r → port = portV → fromBridge p = true →
      let free := towerUp q = true ∧ ∀ e ∈ c.pc.pwb, e.chan = o.1 → e.granule ∉ gs
      (¬ free → waits) ∧
      (free → partialBad q.tower tm = none → ∃ t, exec (.wr x y portV) s = .next t ∧ Only s t { sites := [(x, y)], fields := [f] } ∧
        Sends t x y r [ack portV] ∧ t.cell x y = turned s x y portV p ((c.pcCount 6 (q.tower.weakPartial tm).length).pcCount 5 1) ∧
        t.field f = { q with tower := q.tower.write tm } ∧
        (∀ a, (∀ v ∈ tm, v.1 ≠ a) → (t.field f).tower.byte a = q.tower.byte a)) ∧
      (∀ w, free → partialBad q.tower tm = some w → ∃ t, exec (.wr x y portV) s = .next t ∧
        Only s t { sites := [(x, y)], parts := [0, 1, 2, 3], helm := true } ∧ t.cell x y = turned s x y portV p (c.pcCount 7 1) ∧
        Refuses s t x y portV r p (towerAddr s.myMod f (8 * w))))

/-- MWR and MRD in management space (R31, R137, R168, R169, R183, R226, R352): a report reaches the helm; a write of registers is made in ascending
order and acknowledged; a read answers each 32-bit register as it reads, in order, with what the reads before it have done; an
access that meets an uncorrectable word of the slot and configuration store is answered MEM_UNCORRECTABLE. -/
def Obligations.ManagementPacketsReadAndWriteRegisters : Prop :=
  ∀ (s : State) (x y port : Nat) (p : Packet) (r : Router),
    let off := fld p.dest 15 0
    let u := unitOf p.dest
    let n := p.payload.length
    let k := fld p.arg 2 0 + 1
    let c := s.cell x y
    let en := fun (j : Nat) => decide (n ≠ 1) || p.arg.getLsbD j
    let ack := p.answer s.myMod x y port opWrack []
    let s1 := taken s x y r
    let report := port = portN ∧ helmLanding x y = true
    let store := port = portL ∧ inStore u off = true
    let whole := storeWhole off (32 * n) en
    let hit := (storeWords off (32 * n)).find? (fun w => c.storeBad.contains w && ! whole.contains w &&
      (List.range 8).any (fun j => decide (off ≤ 8 * w + j) && decide (8 * w + j < off + 32 * n) && en (8 * w + j - off)))
    let noted := fun (j : Nat) => (List.range j).foldl (fun (a : State) i => a.noteUnit u (off + 4 * i)) s1
    let read := (List.range (8 * k)).flatMap (fun j => wordBytes ((noted j).readUnit u (off + 4 * j)))
    let rbad := if inStore u off then (storeWords off (32 * k)).find? (fun w => c.storeBad.contains w) else none
    (NoRequest s x y port opMwr → exec (.mwr x y port) s = .next s) ∧ (NoRequest s x y port opMrd → exec (.mrd x y port) s = .next s) ∧
    (Request s x y port opMwr p r → fld p.dest 61 58 = 4 →
      (report → ∃ t, exec (.mwr x y port) s = .next t ∧ Only s t { sites := [(x, y)], helm := true } ∧ t.cell x y = c ∧
        t.helm = { s.helm with reports := s.helm.reports ++ [(s.cycle, p)] } ∧ Sends t x y r [ack]) ∧
      (store → hit = none → exec (.mwr x y port) s = .next (((s1.setCell x y { c with
          storeBad := c.storeBad.filter (fun w => ! whole.contains w) }).mgmtWrite u off (32 * n) en (flitsBytes p.payload)).inject x y [ack])) ∧
      (∀ w, store → hit = some w → ∃ t, exec (.mwr x y port) s = .next t ∧
        Only s t { sites := [(x, y)], parts := [0, 1, 2, 3], helm := true } ∧ t.cell x y = c ∧
        Refuses s t x y port r p (mgmtAddr s.myMod x y 0 (8 * w))) ∧
      (¬ store → port = portL → off = 0x30C0 → s.mcActive x y = true → s.bodyOut x y = false → n = 8 →
        exec (.mwr x y port) s = .next ((s1.mcDo x y (fun m => m.chunk (clsOf x y).code p.payload)).inject x y [ack])) ∧
      (¬ store → port = portL → off = 0x30C0 → ¬ (s.mcActive x y = true ∧ s.bodyOut x y = false ∧ n = 8) →
        exec (.mwr x y port) s = .next (s1.inject x y [ack])) ∧
      (¬ store → port = portL → off ≠ 0x30C0 →
        exec (.mwr x y port) s = .next ((s1.mgmtWrite (.site x y) off (32 * n) en (flitsBytes p.payload)).inject x y [ack])) ∧
      (port = portR ∨ port = portV →
        exec (.mwr x y port) s = .next ((s1.mgmtWrite u off (32 * n) en (flitsBytes p.payload)).inject x y [ack])) ∧
      (¬ report → port < portL → exec (.mwr x y port) s = .next s) ∧
      (∀ w, n = 1 → (∀ j, j < 32 → p.arg.getLsbD j = decide (j < 4)) → w = word (leAt (flitsBytes p.payload) 0 4) →
        s1.mgmtWrite u off (32 * n) en (flitsBytes p.payload) = s1.writeUnit u off w)) ∧
    (Request s x y port opMrd p r → fld p.dest 61 58 = 4 →
      (report → exec (.mrd x y port) s = .next s) ∧
      (¬ report → rbad = none → ∃ t, exec (.mrd x y port) s = .next t ∧ read.length = 32 * k ∧
        t = (noted (8 * k)).inject x y [p.answer s.myMod x y port opRdata (bytesFlits k read)] ∧
        t.fields = s.fields ∧ t.helm = s.helm ∧ t.pending = s.pending ∧ t.bridges = s.bridges ∧ t.partitions = s.partitions) ∧
      (∀ w, ¬ report → rbad = some w → ∃ t, exec (.mrd x y port) s = .next t ∧
        Only s t { sites := [(x, y)], parts := [0, 1, 2, 3], helm := true } ∧ t.cell x y = c ∧
        Refuses s t x y port r p (mgmtAddr s.myMod x y 0 (8 * w))))

/-- RDATA, WRACK, FAULT and SYNCRSP (R55, R96, R115, R120, R123, R124, R129, R176, R183, R194, R206, R226): a response ends its request and has its effect
on the engine that sent it; a FAULT freezes the cell with its code; a SYNCRSP writes the promised places and in a P-cell acquires, a
PENDING one only starts the wait for the resend; one that no request of the cell waits for has no effect. -/
def Sys2Proof.Claims.ResponsesReachTheirRequester : Prop :=
  ∀ (s : State) (x y port : Nat) (p : Packet) (r : Router),
    let c := s.cell x y
    let it := lgetD p.payload 0 0
    let bytes := flitsBytes p.payload
    (∀ i op, (i, op) ∈ [(Instr.rdata x y port, opRdata), (.wrack x y port, opWrack), (.fault x y port, opFault),
        (.syncrsp x y port, opSyncrsp)] →
      (NoResponse s x y port op → exec i s = .next s) ∧
      (Response s x y port op p r → port ≠ portL ∨ c.reqOf p = none → exec i s = .next (taken s x y r))) ∧
    (∀ q, c.reqOf p = some q →
      let rest := c.reqs.filter (fun v => v.tag ≠ q.tag)
      (Response s x y portL opRdata p r →
        (∀ b, rdataHit c q bytes = some b → ∃ t, exec (.rdata x y portL) s = .next t ∧
          Freezes s t x y r (c.abandon q) memUncorrectable q.slot (cellAddr s.myMod x y (8 * b))) ∧
        (rdataHit c q bytes = none → ∃ t, exec (.rdata x y portL) s = .next t ∧ OnlySite s t x y ∧
          t.cell x y = (rdataTo s.myMod x y c q bytes).1 ∧ Sends t x y r (rdataTo s.myMod x y c q bytes).2 ∧
          (∀ off len g, q.kind = .fetch off len none g →
            let d := c.desc (sOpa (c.slot q.slot) % 128)
            t.cell x y = { c with
              reqs := rest,
              data := c.data.write ((List.range bytes.length).map (fun k => (d.base + (off + k) % max d.bound 1, lgetD bytes k 0))) }) ∧
          (∀ off len k g, q.kind = .fetch off len (some k) g →
            ((∀ v ∈ c.gc.spans, v.num ≠ k) → t.cell x y = { c with reqs := rest }) ∧
            ((∃ v ∈ c.gc.spans, v.num = k) → t.cell x y = { c with
              reqs := rest, data := c.data.write (cellsAt off bytes),
              gc := { c.gc with spans := c.gc.spans.map (fun v =>
                if v.num = k then { v with missing := tset v.missing g (tgetD v.missing g 0 - 1) } else v) } })) ∧
          (∀ d others, q.kind = .dmaRead → takeFirst (fun (v : Dma) => v.opId = q.opId) c.dmas = some (d, others) → 1 < d.reads →
            t.cell x y = { c with
              reqs := rest,
              dmas := c.dmas.map (fun v => if v.opId = d.opId then { d with
                buf := (cellsAt q.dest.toNat bytes).foldl (fun b v => tset b v.1 v.2) d.buf, reads := d.reads - 1 } else v) }))) ∧
      (Response s x y portL opWrack p r →
        (q.kind ≠ .spill → ∃ t, exec (.wrack x y portL) s = .next t ∧ OnlySite s t x y ∧ t.router x y = r ∧
          t.cell x y = { c with
            reqs := rest,
            dmas := (if q.kind = .dmaWrite then c.dmas.map (fun d => if d.opId = q.opId then { d with writes := d.writes - 1 } else d)
              else c.dmas) }) ∧
        (q.kind = .spill → exec (.wrack x y portL) s =
          .next (((taken s x y r).setCell x y { c with reqs := rest }).drainGo x y)) ∧
        (q.kind = .spill → rest.any (fun v => v.kind = .spill) = true → ∃ t, exec (.wrack x y portL) s = .next t ∧ OnlySite s t x y ∧
          t.router x y = r ∧ t.cell x y = { c with reqs := rest })) ∧
      (Response s x y portL opFault p r → ∃ t, exec (.fault x y portL) s = .next t ∧
        Freezes s t x y r { c with
          reqs := rest, ops := c.ops.filter (fun o => o.id ≠ q.opId || ! o.waiting), dmas := c.dmas.filter (fun d => d.opId ≠ q.opId) }
          p.status q.slot (if p.status = memUncorrectable then q.dest else 0)) ∧
      (Response s x y portL opSyncrsp p r →
        (itemByte it 11 ≠ 0 → ∃ t, exec (.syncrsp x y portL) s = .next t ∧ OnlySite s t x y ∧ t.router x y = r ∧
          t.cell x y = { c with reqs := c.reqs.map (fun v => if v.tag = q.tag then { v with resend := some s.cycle } else v) }) ∧
        (itemByte it 11 = 0 → c.ops.find? (fun o => o.id = q.opId) = none → ∃ t, exec (.syncrsp x y portL) s = .next t ∧ OnlySite s t x y ∧
          t.router x y = r ∧ t.cell x y = { c with reqs := rest }) ∧
        (∀ o, itemByte it 11 = 0 → c.ops.find? (fun o => o.id = q.opId) = some o →
          (o.outs.any (fun v => (c.queue v.1).lastPut = some c.pulse) = true → exec (.syncrsp x y portL) s = .next s) ∧
          (o.outs.any (fun v => (c.queue v.1).lastPut = some c.pulse) = false →
            let d := o.outs.foldl (fun e v => e.push (clsOf x y) v.1 it) { c with reqs := rest, ops := c.ops.filter (fun v => v.id ≠ o.id) }
            (∀ k, items d k = items c k ++ copies (o.outsTo k) it) ∧
            ∃ t, exec (.syncrsp x y portL) s = .next t ∧ OnlySite s t x y ∧ t.router x y = r ∧
              ((∀ w, q.kind ≠ .sync true w) ∨ clsOf x y ≠ .p → t.cell x y = d) ∧
              (∀ w, q.kind = .sync true w → clsOf x y = .p → t.cell x y = acquire d (fld q.dest 15 0))))))

/-- MC_MISS and MC_DONE (R151, R152, R153, R238, R258, R368): a subtree's MC_DONE adds its drops and closes its branch; at the sender the multicast
completes once MC_DONE and as many misses as it counts have come: with OK when nothing was dropped, else with FAB_MULTICAST_PARTIAL, the
numbers of the targets missed, and records of them. A packet that waits for the tree then goes. -/
def Sys2Proof.Claims.MulticastReportsSettle : Prop :=
  ∀ (s : State) (x y port : Nat) (p : Packet) (r : Router),
    let s1 := taken s x y r
    let settles := fun (i : Instr) (k : Nat) (v : McSend) =>
      let put := fun (v : McSend) => s1.onHelm (fun h => { h with mcast := tset h.mcast k v })
      let ms := mcMissed s1 k v.missed
      (v.done = none → exec i s = .next (put v)) ∧
      (∀ n, v.done = some n → n ≠ 0 → v.missed.length < n → exec i s = .next (put v)) ∧
      (v.done = some 0 → exec i s = .next ((put { v with result := some codeOk }).mcNext k)) ∧
      (∀ n, v.done = some n → n ≠ 0 → n ≤ v.missed.length → exec i s =
        .next ((((missRecords k ms.length ms).foldl State.fwLog (put { v with result := some fabMulticastPartial, gone := ms })).mcRepair k
          v.pkt ms).mcNext k))
    (NoResponse s x y port opMcMiss → exec (.mcMiss x y port) s = .next s) ∧
    (NoResponse s x y port opMcDone → exec (.mcDone x y port) s = .next s) ∧
    (Response s x y port opMcMiss p r →
      (tget s.helm.mcast (fld p.arg 15 8) = none → exec (.mcMiss x y port) s = .next s1) ∧
      (∀ v, tget s.helm.mcast (fld p.arg 15 8) = some v →
        settles (.mcMiss x y port) (fld p.arg 15 8) { v with missed := v.missed ++ [(p.srcX, p.srcY, fld p.arg 2 0)] })) ∧
    (Response s x y port opMcDone p r → port ≠ portR →
      (tget s.helm.mcast p.tag = none → exec (.mcDone x y port) s = .next s1) ∧
      (∀ v, tget s.helm.mcast p.tag = some v → settles (.mcDone x y port) p.tag { v with done := some (fld p.arg 31 0) })) ∧
    (Response s x y portR opMcDone p r →
      let from_ := fun (q : Nat) => beyond x y q = some (p.srcX, p.srcY)
      (r.held.find? (fun h => h.pkt.tag = p.tag && h.await.any from_) = none → exec (.mcDone x y portR) s = .next s1) ∧
      (∀ h, r.held.find? (fun h => h.pkt.tag = p.tag && h.await.any from_) = some h → ∃ t, exec (.mcDone x y portR) s = .next t ∧
        OnlyRouters s t [(x, y)] ∧
        t.router x y = settled s x y r { h with drops := h.drops + fld p.arg 31 0, await := h.await.filter (fun q => ! decide (from_ q)) })) ∧
    (∀ k, (tgetD s.helm.mcWait k [] = [] → s.mcNext k = s) ∧
      (∀ q rest, tgetD s.helm.mcWait k [] = q :: rest →
        s.mcNext k = (s.onHelm (fun h => { h with mcWait := tset h.mcWait k rest })).putOnTree k q))

/-- TRANSFER_TIMEOUT (R194, R261) and WAIT_RESEND (R206): a timed request past its timeout freezes its cell with TRANSFER_TIMEOUT and
not before; 512 cycles after a PENDING answer the same WAIT_GE is sent again, and not before. -/
def Sys2Proof.Claims.RequestsTimeOutOrAreSentAgain : Prop :=
  ∀ (s : State) (x y tag : Nat), siteOk x y = true →
    let c := s.cell x y
    let limit := timeoutOf (s.field (fieldOf x y)).xferTimeout
    (c.reqs.find? (fun r => r.tag = tag) = none →
      exec (.transferTimeout x y tag) s = .next s ∧ exec (.waitResend x y tag) s = .next s) ∧
    (∀ q, c.reqs.find? (fun r => r.tag = tag) = some q →
      (q.timed = false ∨ q.age < limit → exec (.transferTimeout x y tag) s = .next s) ∧
      (q.timed = true → limit ≤ q.age → ∃ t, exec (.transferTimeout x y tag) s = .next t ∧
        Freezes s t x y (s.router x y) { c with
          reqs := c.reqs.filter (fun v => v.tag ≠ tag), ops := c.ops.filter (fun o => o.id ≠ q.opId || ! o.waiting),
          dmas := c.dmas.filter (fun d => d.opId ≠ q.opId) } codeTransferTimeout q.slot 0) ∧
      ((∀ o, q.kind ≠ .sync true o) ∨ q.resend = none → exec (.waitResend x y tag) s = .next s) ∧
      (∀ t0 o, q.resend = some t0 → q.kind = .sync true o →
        (s.cycle < t0 + 512 → exec (.waitResend x y tag) s = .next s) ∧
        (t0 + 512 ≤ s.cycle → ∃ t, exec (.waitResend x y tag) s = .next t ∧
          CellSends s t x y [{ pktOf s.myMod x y portL with
            dest := q.dest, cls := clsSync, op := opWaitGe, tag := tag, arg := dword o.toNat }] ∧
          t.cell x y = { c with reqs := c.reqs.map (fun v => if v.tag = tag then { v with resend := none } else v) })))

/-- SYNC_ADD, SYNC_SUB, SYNC_SET, SYNC_SET_CONFIGURE and ARRIVE (R201, R202, R204, R207, R212, R226): an operation that faults leaves the
word and its list unchanged, is counted, answered FAULT and reported; one that does not writes the word, answers with it, and answers
the waiters that it satisfies in list order. With another operation in front, or none, nothing happens. -/
def Sys2Proof.Claims.SyncOperationsWriteTheWord : Prop :=
  ∀ (s : State) (x y : Nat) (i : Instr) (is : Packet → Bool) (f : Dword → Word → SwOut), siteOk x y = true →
    (∃ e ∈ [(Instr.syncAdd x y, (fun (p : Packet) => decide (p.op = 0x08)), swAdd), (.syncSub x y, (fun p => decide (p.op = 0x09)), swSub),
      (.syncSet x y, (fun p => decide (p.op = 0x0A) && ! bitB p.arg 31), swSet),
      (.syncSetConfigure x y, (fun p => decide (p.op = 0x0A) && bitB p.arg 31), swConfigure),
      (.arrive x y, (fun p => decide (p.op = 0x0B)), swArrive)], e = (i, is, f)) →
    let c := s.cell x y
    (headReq (s.router x y) portL = none → exec i s = .next s) ∧
    (∀ p r, headReq (s.router x y) portL = some (p, r) →
      let k := swIndex p % 2
      (is p = false → exec i s = .next s) ∧
      (∀ code, is p = true → f (c.sw k).word (word p.arg.toNat) = .bad code → ∃ t, exec i s = .next t ∧ OnlySite s t x y ∧
        t.cell x y = { c with syncCnt := tset c.syncCnt 1 (satInc (tgetD c.syncCnt 1 0)) } ∧
        Sends t x y r [p.fault s.myMod x y portL code 0, reportPkt s.myMod x y portL
          (reportFlit 4 code p.srcX p.srcY 0xFF 0 p.srcMod p.op (syncAddr s.myMod (swIndex p)))]) ∧
      (∀ w, is p = true → f (c.sw k).word (word p.arg.toNat) = .done w → ∃ t, exec i s = .next t ∧ OnlySite s t x y ∧
        (t.cell x y).sw k = { c.sw k with word := w, waiters := (c.sw k).waiters.filter (fun v => ! swHolds w v.operand) } ∧
        (t.cell x y).sw (1 - k) = c.sw (1 - k) ∧
        { t.cell x y with w0 := c.w0, w1 := c.w1 } = { c with syncCnt := tset c.syncCnt 0 (satInc (tgetD c.syncCnt 0 0)) } ∧
        Sends t x y r (p.answer s.myMod x y portL opSyncrsp [swItem s.myMod w codeOk p.op false (swIndex p)] ::
          ((c.sw k).waiters.filter (fun v => swHolds w v.operand)).map (waiterRsp s.myMod x y w codeOk))))

/-- WAIT_GE (R202, R204, R206, R212, R226): answered at once when its condition holds, else parked in a list of 32, else answered PENDING;
on a word of KIND 3 it faults. It never changes the word. -/
def Sys2Proof.Claims.WaitsAreAnsweredParkedOrPending : Prop :=
  ∀ (s : State) (x y : Nat), siteOk x y = true →
    let c := s.cell x y
    (headReq (s.router x y) portL = none → exec (.waitGe x y) s = .next s) ∧
    (∀ p r, headReq (s.router x y) portL = some (p, r) →
      let k := swIndex p % 2
      let v := c.sw k
      let o := word p.arg.toNat
      let rsp := fun (pend : Bool) => p.answer s.myMod x y portL opSyncrsp [swItem s.myMod v.word codeOk p.op pend (swIndex p)]
      let done := fun (d : Cell) (l : List Packet) => ∃ t, exec (.waitGe x y) s = .next t ∧ OnlySite s t x y ∧ t.cell x y = d ∧ Sends t x y r l
      let parked : SyncWord := { v with waiters := v.waiters ++
        [{ index := swIndex p, mod := p.srcMod, x := p.srcX, y := p.srcY, port := p.srcPort, tag := p.tag, operand := o }] }
      (p.op ≠ 0x0C → exec (.waitGe x y) s = .next s) ∧
      (p.op = 0x0C →
        (swKind v.word = 3 → done (c.swCount 1) [p.fault s.myMod x y portL syncGeneration 0, reportPkt s.myMod x y portL
          (reportFlit 4 syncGeneration p.srcX p.srcY 0xFF 0 p.srcMod p.op (syncAddr s.myMod (swIndex p)))]) ∧
        (swKind v.word ≠ 3 → swHolds v.word o = true → done (c.swCount 0) [rsp false]) ∧
        (swKind v.word ≠ 3 → swHolds v.word o = false → v.waiters.length < 32 → done (((c.swCount 0).swCount 2).setSw k parked) []) ∧
        (swKind v.word ≠ 3 → swHolds v.word o = false → 32 ≤ v.waiters.length → done ((c.swCount 0).swCount 3) [rsp true])))

/-- CLR0, CLR1, SW_CTRL.CLR_CNT, SW_WORD_HI_WRITE and SW_WORD_LO_READ (R207, R210-R212): a clear makes the word zero and answers every waiter
RUN_CANCELLED in list order; a write of HI writes both halves and answers the waiters it satisfies; a read of LO captures the high
half. At a site that is no M-site, or whose body is fenced, nothing happens. -/
def Obligations.SyncRegistersWork : Prop :=
  ∀ (s : State) (x y : Nat), siteOk x y = true →
    let c := s.cell x y
    let clears := fun (i : Instr) (k : Nat) => ∃ t, exec i s = .next t ∧ OnlySite s t x y ∧
      (t.cell x y).sw k = { c.sw k with word := 0, waiters := [] } ∧ (t.cell x y).sw (1 - k) = c.sw (1 - k) ∧
      { t.cell x y with w0 := c.w0, w1 := c.w1 } = c ∧
      Sends t x y (s.router x y) ((c.sw k).waiters.map (waiterRsp s.myMod x y 0 runCancelled))
    (clsOf x y ≠ .m ∨ s.bodyOut x y = true → (∀ i ∈ [Instr.clr0 x y, .clr1 x y, .swClrCnt x y], exec i s = .next s) ∧
      ∀ k v, k < 2 → exec (.swWordHiWrite x y k v) s = .next s ∧ exec (.swWordLoRead x y k) s = .next s) ∧
    (clsOf x y = .m → s.bodyOut x y = false →
      clears (.clr0 x y) 0 ∧ clears (.clr1 x y) 1 ∧
      (∃ t, exec (.swClrCnt x y) s = .next t ∧ OnlyCell s t x y ∧ t.cell x y = { c with syncCnt := [] }) ∧
      (∀ k v, k < 2 → let w := join32 v (c.sw k).heldLo
        ∃ t, exec (.swWordHiWrite x y k v) s = .next t ∧ OnlySite s t x y ∧
          (t.cell x y).sw k = { c.sw k with word := w, waiters := (c.sw k).waiters.filter (fun p => ! swHolds w p.operand) } ∧
          (t.cell x y).sw (1 - k) = c.sw (1 - k) ∧ { t.cell x y with w0 := c.w0, w1 := c.w1 } = c ∧
          Sends t x y (s.router x y)
            (((c.sw k).waiters.filter (fun p => swHolds w p.operand)).map (waiterRsp s.myMod x y w codeOk))) ∧
      (∀ k, k < 2 → ∃ t, exec (.swWordLoRead x y k) s = .next t ∧ OnlyCell s t x y ∧
        (t.cell x y).sw k = { c.sw k with capHi := some (hi32 (c.sw k).word) } ∧ (t.cell x y).sw (1 - k) = c.sw (1 - k) ∧
        { t.cell x y with w0 := c.w0, w1 := c.w1 } = c))

/-- PWB_DRAIN (R173, R174, R178, R180, R182, R183, R226): the oldest posted entry leaves the buffer and its enabled bytes, and no other, enter the
tower; bytes of a word that then reads uncorrectable, and of a word of the entry that does, are dropped and reported; the last entry of
a host-scope write releases the op that waits for it, or is acknowledged and counted. -/
def Sys2Proof.Claims.PostedWritesDrainInOrder : Prop :=
  ∀ (s : State) (x y : Nat), siteOk x y = true →
    let c := s.cell x y
    let f := fieldOf x y
    let q := s.field f
    (c.pc.pwb = [] ∨ towerUp q = false ∨ s.bodyOut x y = true → exec (.pwbDrain x y) s = .next s) ∧
    (∀ e rest, c.pc.pwb = e :: rest → towerUp q = true → s.bodyOut x y = false →
      let l := chanCells e.chan (cellsUnder (64 * e.granule) (fun k => e.enables.getLsbD k) e.data)
      let part := fun (w : Nat) => ¬ w ∈ wholeWords l ∧ w ∈ q.tower.bad
      let own := fun (w : Nat) => ∃ k ∈ e.bad, w = towerOff e.chan (64 * e.granule + 8 * k) / 8
      ∃ (t : State) (dropped : List Nat) (kept : List Host.Cell) (n : Nat), exec (.pwbDrain x y) s = .next t ∧ Only s t { sites := [(x, y)], fields := [f] } ∧
        (∀ w, w ∈ dropped ↔ w ∈ wordsOf (l.map (·.1)) ∧ (part w ∨ own w)) ∧
        kept = l.filter (fun v => ! dropped.contains (v.1 / 8)) ∧ t.field f = { q with tower := q.tower.write kept } ∧
        (∀ a, (∀ v ∈ kept, v.1 ≠ a) → (t.field f).tower.byte a = q.tower.byte a) ∧
        (t.cell x y).pc.pwb = rest ∧
        (t.cell x y).ops = (match e.opId with
          | some id => if rest.any (fun v => v.opId = some id) then c.ops
            else c.ops.map (fun o => if o.id = id then { o with waiting := false, due := c.pulse } else o)
          | none => c.ops) ∧
        Sends t x y (s.router x y) ((match e.waiting with
          | some v => if rest.any (fun u => u.waiting = some v) then [] else
              [rspOf s.myMod x y portV v.1 v.2.1 v.2.2.1 v.2.2.2.1 v.2.2.2.2 opWrack []]
          | none => []) ++ dropped.map (fun w => reportPkt s.myMod x y portL
            (reportFlit 1 memUncorrectable x y 0xFF 0 0 0 (towerAddr s.myMod f (8 * w))))) ∧
        n = (if e.waiting.isSome ∧ rest.any (fun u => u.waiting = e.waiting) = false then 1 else 0) ∧
        tgetD (t.cell x y).pc.cnt 5 0 = satAdd (tgetD c.pc.cnt 5 0) n ∧
        tgetD (t.cell x y).pc.cnt 6 0 = satAdd (tgetD c.pc.cnt 6 0) (q.tower.weakPartial kept).length ∧
        (t.cell x y).pc.fixedSum = c.pc.fixedSum + (q.tower.weakPartial kept).length ∧
        tgetD (t.cell x y).pc.cnt 7 0 = satAdd (tgetD c.pc.cnt 7 0) (dropped.filter (fun w => q.tower.bad.contains w)).length ∧
        (∀ k, k ≠ 5 → k ≠ 6 → k ≠ 7 → tgetD (t.cell x y).pc.cnt k 0 = tgetD c.pc.cnt k 0) ∧
        { t.cell x y with ops := c.ops, pc := { (t.cell x y).pc with pwb := c.pc.pwb, cnt := c.pc.cnt, fixedSum := c.pc.fixedSum } } = c)

/-- STREAM_LINE_FETCH, STREAM_LINE_ARRIVE, INV_ALL, PC_CTRL.CLR_CNT and GC_CTRL.CLR_CNT (R98, R110, R111, R173, R175-R178, R183): a stream of an
ACTIVE P-cell asks for the next line of its walk within its allotment; a line arrives as the channel reads through the posted writes,
or as the CH_READ that asked for it has read it, and CH_READs whose lines are all here deliver; a discarded line is dropped; INV_ALL
leaves no line of a valid stream and asks again for those that a CH_READ waits for. -/
def Sys2Proof.Claims.StreamLinesAreFetchedAndInvalidated : Prop :=
  ∀ (s : State) (x y : Nat), siteOk x y = true →
    let c := s.cell x y
    let f := fieldOf x y
    let ch := chanOf x y
    let tw := (s.field f).tower
    (∀ n, n < 8 →
      let may := clsOf x y = .p ∧ s.bodyOut x y = false ∧ c.state = .active ∧ strmValid (c.strm n) = true ∧
        (heldLines c n).length < allotted c n
      (¬ may ∨ nextLine c n = none → exec (.streamLineFetch x y n) s = .next s) ∧
      (∀ a, may → nextLine c n = some a → ∃ t, exec (.streamLineFetch x y n) s = .next t ∧ OnlyCell s t x y ∧
        t.cell x y = { c with pc := { c.pc with fetches := c.pc.fetches ++ [{ stream := n, addr := a, dead := false, taken := none }] } })) ∧
    (∀ n, c.pc.fetches[n]? = none → exec (.streamLineArrive x y n) s = .next s) ∧
    (∀ n q, c.pc.fetches[n]? = some q →
      let rest := c.pc.fetches.take n ++ c.pc.fetches.drop (n + 1)
      let addrs := chanWords ch (256 * q.addr) 256
      let line := q.taken.getD (lineNow c tw ch q.stream q.addr)
      let c1 := ((c.pcCount 2 (if q.stream < 8 then 1 else 0)).pcCount 6 (tw.weakOf addrs).length).pcCount 7
        (line.bad.filter (fun k => tw.bad.contains (towerOff ch (8 * k) / 8))).length
      let c2 := { c1 with pc := { c1.pc with fetches := rest, lines := c1.pc.lines ++ [line] } }
      let served := serveWaits c2 c2.pc.waits
      (q.dead = true → ∃ t, exec (.streamLineArrive x y n) s = .next t ∧ OnlyCell s t x y ∧
        t.cell x y = { c with pc := { c.pc with fetches := rest } }) ∧
      (q.dead = false → towerUp (s.field f) = false ∨ s.bodyOut x y = true → exec (.streamLineArrive x y n) s = .next s) ∧
      (q.dead = false → towerUp (s.field f) = true → s.bodyOut x y = false →
        (q.taken = none → line.data = (span (256 * q.addr) 256).map (pwbByte tw c.pc.pwb ch)) ∧
        (∀ b, (tw.heal addrs).byte b = tw.byte b) ∧
        (served.2 = none → ∃ t, exec (.streamLineArrive x y n) s = .next t ∧ Only s t { sites := [(x, y)], fields := [f] } ∧
          t.cell x y = served.1.dropDirect ∧ t.router x y = s.router x y ∧ t.field f = { s.field f with tower := tw.heal addrs }) ∧
        (∀ v, served.2 = some v → ∃ t, exec (.streamLineArrive x y n) s = .next t ∧ Only s t { sites := [(x, y)], fields := [f] } ∧
          t.field f = { s.field f with tower := tw.heal addrs } ∧ FrozenCell served.1.dropDirect (t.cell x y) memUncorrectable ∧
          Sends t x y (s.router x y) [reportPkt s.myMod x y portL
            (reportFlit 1 memUncorrectable x y v.2 0 0 0 (towerAddr s.myMod f (towerOff ch (8 * v.1))))]) ∧
        (c.pc.waits = [] → served.2 = none ∧ served.1 = c2))) ∧
    (clsOf x y ≠ .p → exec (.invAll x y) s = .next s ∧ exec (.pcClrCnt x y) s = .next s) ∧
    (clsOf x y ≠ .g → exec (.gcClrCnt x y) s = .next s) ∧
    (clsOf x y = .p → ∃ t, exec (.invAll x y) s = .next t ∧ OnlyCell s t x y ∧
      (t.cell x y).pc.lines = c.pc.lines.filter (fun l => decide (8 ≤ l.stream) || ! strmValid (c.strm l.stream)) ∧
      (∀ q ∈ (t.cell x y).pc.fetches, q.stream < 8 → strmValid (c.strm q.stream) = true → q.dead = true ∨
        ∃ w ∈ c.pc.waits, w.stream = q.stream ∧ q.addr ∈ w.lines) ∧
      (∀ k, k ≠ 3 → tgetD (t.cell x y).pc.cnt k 0 = tgetD c.pc.cnt k 0) ∧
      { t.cell x y with pc := { (t.cell x y).pc with lines := c.pc.lines, fetches := c.pc.fetches, cnt := c.pc.cnt } } = c) ∧
    (clsOf x y = .p → ∃ t, exec (.pcClrCnt x y) s = .next t ∧ OnlyCell s t x y ∧
      t.cell x y = { c with pc := { c.pc with cnt := [] } }) ∧
    (clsOf x y = .g → ∃ t, exec (.gcClrCnt x y) s = .next t ∧ OnlyCell s t x y ∧
      t.cell x y = { c with gc := { c.gc with cnt := [] } })

/-! ### Memory upkeep and the host's data -/

namespace Sys2Proof.Claims
open Sys2Proof.Machine

/-- What a scrub of one word, or of a store that keeps no marks, can name in a cell of the class (R184). -/
def scrubNames (k : Cls) : ScrubTarget → Prop
  | .data w => 8 * w < storeSize k
  | .store w => w < 1024
  | .queue q _ => q < 8
  | .acc w => k = .c ∧ w < 2048
  | .hash w => k = .g ∧ w < 8192
  | .line i w => k = .p ∧ i < 256 ∧ w < 32
  | .pwb i w => k = .p ∧ i < 16 ∧ w < 8
  | .hidden => True

/-- The word is known to be uncorrectable. -/
def marked (c : Cell) : ScrubTarget → Bool
  | .data w => c.data.bad.contains w
  | .store w => c.storeBad.contains w
  | .queue q i => (((c.queue q).hw ++ (c.queue q).ring)[i]?).any (fun v => v.bad)
  | .acc w => c.accBad.contains w
  | .hash w => c.gc.hashBad.contains w
  | .line i w => (c.pc.lines[i]?).any (fun v => v.bad.contains (32 * v.addr + w))
  | .pwb i w => (c.pc.pwb[i]?).any (fun v => v.bad.contains w)
  | .hidden => false

/-- The entry of a queue, stream buffer or posted write buffer is there. -/
def present (c : Cell) : ScrubTarget → Bool
  | .queue q i => decide (i < (c.queue q).occ)
  | .line i _ => decide (i < c.pc.lines.length)
  | .pwb i _ => decide (i < c.pc.pwb.length)
  | _ => true

/-- Address of the word in a SCRUB_UE record. -/
def scrubAddr (m x y : Nat) : ScrubTarget → Dword
  | .data w => cellAddr m x y (8 * w)
  | .store w => mgmtAddr m x y 0 (8 * w)
  | _ => 0

/-- Two cells that hold the same values: they differ at most in the marks of uncorrectable and correctable words. -/
structure SameValues (c d : Cell) : Prop where
  data   : ∀ a, d.data.byte a = c.data.byte a
  queues : ∀ q, items d q = items c q ∧ (d.queue q).hw.map (·.since) = (c.queue q).hw.map (·.since) ∧
    { d.queue q with hw := [], ring := [] } = { c.queue q with hw := [], ring := [] }
  lines  : d.pc.lines.map (fun l => (l.stream, l.addr, l.data)) = c.pc.lines.map (fun l => (l.stream, l.addr, l.data))
  pwb    : d.pc.pwb.map (fun e => { e with bad := [] }) = c.pc.pwb.map (fun e => { e with bad := [] })
  rest   : { d with
    data := c.data, storeBad := c.storeBad, queues := c.queues, accBad := c.accBad, gc := { d.gc with hashBad := c.gc.hashBad },
    pc := { d.pc with lines := c.pc.lines, pwb := c.pc.pwb }, eccFixed := c.eccFixed, bankUse := c.bankUse } = c

/-- The scrub record of R184. -/
def scrubRec (site : Word) (a : Dword) : LogRec :=
  { recOf 0x24 .firmware with code := memScrubUncorrectable, site := site, addr := a }

end Sys2Proof.Claims

/-- SRAM_SCRUB, DRAM_SCRUB and DRAM_REFRESH (R36, R178, R182, R184, R185, R238): no value changes; a correctable word is corrected and counted, an
uncorrectable one stays bad and is recorded; a channel's scrub goes on at the next granule; outside Underway and Lull, in a fenced body or
a tower that is not up nothing happens. Where in a granule an error lies is the model's choice (log 50). -/
def Obligations.ScrubAndRefreshChangeNoByte : Prop :=
  ∀ (s : State),
    (∀ x y g e, siteOk x y = true → scrubNames (clsOf x y) g →
      let c := s.cell x y
      let f := fieldOf x y
      let runs := s.scrubbing f = true ∧ s.bodyOut x y = false
      let found := (e = .uncorrectable ∧ present c g = true) ∨ marked c g = true
      let fixed := match g with
        | .data w => e = .corrected ∨ w ∈ c.data.weak
        | .line _ _ | .pwb _ _ => e = .corrected ∧ present c g = true
        | _ => e = .corrected
      (¬ runs → exec (.sramScrub x y g e) s = .next s) ∧
      (runs → ∃ t, exec (.sramScrub x y g e) s = .next t ∧ Only s t { sites := [(x, y)], parts := [0, 1, 2, 3], helm := true } ∧
        t.router x y = s.router x y ∧ SameValues c (t.cell x y) ∧
        (∀ o, scrubNames (clsOf x y) o → o ≠ .hidden → marked (t.cell x y) o = (marked c o || (decide (o = g) && decide found))) ∧
        (t.cell x y).bankUse = (match g with
          | .data w => bankAt (clsOf x y) (8 * w) :: c.bankUse
          | _ => c.bankUse) ∧
        (found → (t.cell x y).eccFixed = c.eccFixed ∧
          FwRecords s t [scrubRec (siteWord x y portL) (scrubAddr s.myMod x y g)] 4 (s.partOfField f)) ∧
        (¬ found → t.helm = s.helm ∧ (∀ k, t.part k = s.part k) ∧
          (fixed → (t.cell x y).eccFixed = c.eccFixed + 1) ∧ (¬ fixed → (t.cell x y).eccFixed = c.eccFixed) ∧
          (∀ w, g = .data w → w ∉ (t.cell x y).data.weak)))) ∧
    (∀ f ch e, f < 144 → ch < 64 →
      let q := s.field f
      let k := tgetD q.scrubAt ch 0
      let o := towerOff ch (64 * k)
      let runs := s.scrubbing f = true ∧ towerUp q = true
      let tw := if e = .uncorrectable ∧ o / 8 ∉ q.tower.bad then { q.tower with bad := o / 8 :: q.tower.bad } else q.tower
      let bad := (wordsOf (span o 64)).filter tw.bad.contains
      let n := (tw.weakOf (span o 64)).length + (if e = .corrected then 1 else 0)
      let v := s.server f ch
      (¬ runs → exec (.dramScrub f ch e) s = .next s) ∧
      (runs → ∃ t, exec (.dramScrub f ch e) s = .next t ∧ Only s t { sites := [v], fields := [f], parts := [0, 1, 2, 3], helm := true } ∧
        t.field f = { q with tower := tw.heal (span o 64), scrubAt := tset q.scrubAt ch ((k + 1) % 2 ^ 21) } ∧
        (∀ a, (t.field f).tower.byte a = q.tower.byte a) ∧ t.router v.1 v.2 = s.router v.1 v.2 ∧
        t.cell v.1 v.2 = (if n = 0 ∧ bad = [] then s.cell v.1 v.2 else ((s.cell v.1 v.2).pcCount 6 n).pcCount 7 bad.length) ∧
        FwRecords s t (bad.map (fun w => scrubRec 0xFFFFFFFF#32 (towerAddr s.myMod f (8 * w)))) 4 (s.partOfField f))) ∧
    (∀ f ch bank, f < 144 → ch < 64 →
      let q := s.field f
      let runs := q.trained = true ∧ q.sr = false
      (¬ runs → exec (.dramRefresh f ch bank) s = .next s) ∧
      (runs → ∃ t, exec (.dramRefresh f ch bank) s = .next t ∧ Only s t { fields := [f] } ∧
        t.field f = { q with refreshed := tset q.refreshed (64 * bank + ch) s.cycle }))

namespace Sys2Proof.Claims
open Sys2Proof.Machine

/-- A message of vector `v` (R287): nothing while MSI-X is off, pending while the function or the vector is masked, else a posted write of
the table's data to its address. -/
structure Told (b d : Bridge) (v : Nat) : Prop where
  off    : msixOn b = false → d = b
  masked : msixOn b = true → msixHeld b = true ∨ vecMasked b v = true → d = { b with msixPending := setBit b.msixPending v true }
  sent   : msixOn b = true → msixHeld b = false → vecMasked b v = false → d = { b with
    posted := b.posted ++ [{ addr := (tgetD b.msixTable (4 * v) 0).toNat + (tgetD b.msixTable (4 * v + 1) 0).toNat * 2 ^ 32,
                             data := wordBytes (tgetD b.msixTable (4 * v + 2) 0) }], msix := b.msix ++ [v] }

/-- Bit `k` of BRW_EVT_STATUS becomes set (R271, R287): with a message of vector 1 when it was clear and is not masked. -/
structure Raised (b d : Bridge) (k : Nat) : Prop where
  was   : bitB b.evtStatus k = true → d = b
  quiet : bitB b.evtStatus k = false → bitB b.evtMask k = true → d = { b with evtStatus := setBit b.evtStatus k true }
  tells : bitB b.evtStatus k = false → bitB b.evtMask k = false → Told { b with evtStatus := setBit b.evtStatus k true } d 1

end Sys2Proof.Claims

/-- CXL_MEM_READ, CXL_MEM_WRITE and HOST_READ_COMPLETION (R155, R174, R178, R181, R182, R183, R269, R271, R288, R330): an access wakes what lies on its
way; a line comes from its tower; an uncorrectable one, or one of a field that is Off, comes as 0xFF bytes, raises MEM_UE and is
recorded; a write changes the enabled bytes and no other once no posted write holds its granule; a host read comes back as RDATA, or is
dropped with its record. -/
def Obligations.HostAccessesReachTheTowers : Prop :=
  ∀ (s : State) (h : Nat), h < 4 →
    (∀ hdm data en, (s.bridge h).hdmCommitted = false ∨ s.hdmTower h (hdm / 64 * 64) = none →
      exec (.cxlMemRead h hdm) s = .next s ∧ exec (.cxlMemWrite h hdm data en) s = .next s) ∧
    (∀ hdm f o, (s.bridge h).hdmCommitted = true → s.hdmTower h (hdm / 64 * 64) = some (f, o) →
      let s1 := s.cxlArrive h f
      let q := s1.field f
      let up := s1.cxlAwake h f = true ∧ towerUp q = true
      let v := s1.serverOf f o
      let bad := (wordsOf (span o 64)).filter (fun w => q.tower.bad.contains w)
      let n := (q.tower.weakOf (span o 64)).length
      let spoilt := fun (t : State) (a : Nat) =>
        UeRecord s1 t (towerAddr s1.myMod f a) ∧ (t.bridge h).lastRead = copies 64 0xFF ∧
        Raised (if bitB (s.bridge h).evtStatus evMemUe then s.bridge h else { s.bridge h with evtAddr := dword (hdm / 64 * 64) })
          { t.bridge h with lastRead := (s.bridge h).lastRead } evMemUe
      (q.tower = (s.field f).tower ∧ q.cxlLast = some s.cycle ∧ s1.bridge h = s.bridge h) ∧
      (∀ g ∈ s.cxlPath h f, (s.field g).power = .doldrums → (s.field g).waking.isNone = true → s.svcUp g = true →
        (s1.field g).waking = some s.cycle) ∧
      (q.power = .off → ∃ t, exec (.cxlMemRead h hdm) s = .next t ∧
        Only s1 t { bridges := [h], parts := [0, 1, 2, 3], helm := true } ∧ spoilt t o) ∧
      (q.power ≠ .off → ¬ up → exec (.cxlMemRead h hdm) s = .next s1) ∧
      (q.power ≠ .off → up →
        (bad = [] → ∃ t, exec (.cxlMemRead h hdm) s = .next t ∧ Only s1 t { sites := [v], fields := [f], bridges := [h] } ∧
          t.bridge h = { s.bridge h with lastRead := q.tower.read o 64 } ∧ t.field f = { q with tower := q.tower.heal (span o 64) } ∧
          t.router v.1 v.2 = s1.router v.1 v.2 ∧
          t.cell v.1 v.2 = (if n = 0 then s1.cell v.1 v.2 else (s1.cell v.1 v.2).pcCount 6 n)) ∧
        (∀ w rest, bad = w :: rest → ∃ t, exec (.cxlMemRead h hdm) s = .next t ∧
          Only s1 t { sites := [v], fields := [f], bridges := [h], parts := [0, 1, 2, 3], helm := true } ∧ spoilt t (8 * w) ∧
          t.field f = { q with tower := q.tower.heal (span o 64) } ∧ t.router v.1 v.2 = s1.router v.1 v.2 ∧
          t.cell v.1 v.2 = (if n = 0 then s1.cell v.1 v.2 else (s1.cell v.1 v.2).pcCount 6 n).pcCount 7 bad.length) ∧
        ∀ a, (q.tower.heal (span o 64)).byte a = q.tower.byte a) ∧
      (∀ data en,
        let l := cellsUnder o (fun k => en.getLsbD k) (padTo 64 data)
        (¬ up ∨ s1.postedIn f o 64 = true → exec (.cxlMemWrite h hdm data en) s = .next s1) ∧
        (up → s1.postedIn f o 64 = false → exec (.cxlMemWrite h hdm data en) s = .next (s1.bridgeWrite f l) ∧
          (partialBad q.tower l = none → l ≠ [] → o % 64 = 0 → q.tower.weakPartial l = [] →
            Only s1 (s1.bridgeWrite f l) { sites := [v], fields := [f] } ∧
            (s1.bridgeWrite f l).field f = { q with tower := q.tower.write l } ∧
            (∀ a, (∀ e ∈ l, e.1 ≠ a) → ((s1.bridgeWrite f l).field f).tower.byte a = q.tower.byte a) ∧
            (s1.bridgeWrite f l).cell v.1 v.2 = (s1.cell v.1 v.2).pcCount 5 1 ∧
            (s1.bridgeWrite f l).router v.1 v.2 = s1.router v.1 v.2) ∧
          (∀ w, partialBad q.tower l = some w → o % 64 = 0 →
            ((s1.bridgeWrite f l).field f).tower = q.tower.write [] ∧
            UeRecord s1 (s1.bridgeWrite f l) (towerAddr s1.myMod f (8 * w)))))) ∧
    (∀ tag data,
      (takeFirst (fun (r : HostRead) => r.hostTag = tag) (s.bridge h).hostReads = none →
        exec (.hostReadCompletion h tag data) s = .next s) ∧
      (∀ r rest, takeFirst (fun (r : HostRead) => r.hostTag = tag) (s.bridge h).hostReads = some (r, rest) →
        let p := r.pkt
        ∃ t, exec (.hostReadCompletion h tag data) s = .next t ∧ Only s t { sites := [(p.dstX, p.dstY)], bridges := [h] } ∧
          t.bridge h = { s.bridge h with hostReads := rest } ∧ t.cell p.dstX p.dstY = s.cell p.dstX p.dstY ∧
          Sends t p.dstX p.dstY (s.router p.dstX p.dstY) [p.answer s.myMod p.dstX p.dstY p.dstPort
            opRdata (bytesFlits (p.bytes / 32) (padTo p.bytes data))]))

/-- INPUT_READ and OUTPUT_FINALISE (R224, R232, R258, R283, R284, R286, R289): for the run at the head, its patches made once with the bridge's blocks
turned on, the inputs are digested and written to their buffers, in a paired program to both copies'; they wait for windows, gates,
towers and posted writes; at the end the output is digested and host bytes not written are zero-filled. -/
def Sys2Proof.Claims.RunInputsAndOutputsAreDigested : Prop :=
  ∀ (s : State) (p : Nat) (data : List (List Byte)), p < 4 →
    let q := s.part p
    (s.headRun p = none → exec (.inputRead p data) s = .next s) ∧
    (∀ hd r g, s.headRun p = some (hd, r, g) →
      let ready := s.headReady p r g = true ∧ (q.inputs.any (fun i => i.runId = r.id)) = false
      let t0 := s.patchHead p g r
      let wins := r.inputs data
      let places := wins.flatMap (fun w => (g.inputPlaces w.1).map (fun v => (v.1, v.2, w.2.2)))
      let open_ := (t0.bridge p).clocked 4 = true ∧ (t0.bridge p).clocked 6 = true ∧
        (∀ w ∈ wins, inWindow (t0.bridge p) w.2.1 w.2.2.length = true) ∧
        (∀ v ∈ places, towerUp (t0.field v.1) = true ∧ t0.postedIn v.1 v.2.1 v.2.2.length = false)
      let put : State := places.foldl (fun s v => s.bridgeWrite v.1 (cellsAt v.2.1 v.2.2)) t0
      (¬ ready → exec (.inputRead p data) s = .next s) ∧
      (q.patched = some r.id → t0 = s) ∧
      (q.patched ≠ some r.id → (t0.part p).patched = some r.id ∧ (t0.bridge p).clocked 4 = true ∧ (t0.bridge p).clocked 5 = true ∧
        (t0.bridge p).clocked 6 = true ∧ (t0.bridge p).outWritten = [] ∧ (t0.bridge p).outStore = [] ∧ (t0.part p).queue = q.queue) ∧
      (ready → ¬ open_ → exec (.inputRead p data) s = .next t0) ∧
      (ready → open_ → ∃ t, exec (.inputRead p data) s = .next t ∧ Only put t { parts := [p] } ∧
        t.part p = { put.part p with inputs := some { runId := r.id, digest := (sha512 (wins.flatMap (fun w => w.2.2))).take 48 } } ∧
        (∀ f o d, places = [(f, o, d)] → (t0.field f).tower.bad = [] →
          (t.field f).tower = (t0.field f).tower.write (cellsAt o d) ∧ (∀ j, j ≠ f → t.field j = t0.field j) ∧ t.helm = t0.helm))) ∧
    (let b := s.bridge p
     let done := fun (a : Active) => a.outDigest = none ∧ (∀ c ∈ a.startedCells, c ∈ a.retired) ∧ b.egress = [] ∧
      b.clocked 5 = true ∧ b.clocked 6 = true ∧ ∀ w ∈ a.run.outs, inWindow b w.1 w.2 = true
     (q.active = none ∨ (∃ a, q.active = some a ∧ ¬ done a) → exec (.outputFinalise p data) s = .next s) ∧
     (∀ a, q.active = some a → done a → ∃ t, exec (.outputFinalise p data) s = .next t ∧ Only s t { bridges := [p], parts := [p] } ∧
      t.part p = { q with active := some { a with
        outDigest := some ((sha512 (outputBytes b a.run.outs data)).take 48), pairA := pairDigest b.lineStoreA,
        pairB := pairDigest b.lineStoreB } } ∧
      t.bridge p = { b with
        posted := b.posted ++ (a.run.outs.flatMap (unwritten b)).map (fun z => { addr := z.1, data := zeros z.2 }) } ∧
      (∀ w ∈ a.run.outs, ∀ i, w.1 ≤ i → i < w.1 + w.2 → ((∃ z ∈ unwritten b w, z.1 ≤ i ∧ i < z.1 + z.2) ↔ tget b.outStore i = none))))

/-- EGRESS_WRITE and SLACK_TIMEOUT (R188, R195, R224, R272, R284, R285): a host write joins the youngest entry of its line or opens one, and is
acknowledged when its last entry is pushed: full, followed by a younger one, or SLACK after it opened and not before; one outside the
windows is refused; what copy B of a paired program writes goes to its digest store and is acknowledged; a gated block or a full queue
holds the write. -/
def Sys2Proof.Claims.EgressCoalescesHostWrites : Prop :=
  ∀ (s : State) (h x y q : Nat), h < 4 → landingOf x y = some (h, q) →
    let b := s.bridge h
    (NoRequest s x y q opWr → exec (.egressWrite h x y) s = .next s) ∧
    (∀ k, k < 4 → k ≠ h → exec (.egressWrite k x y) s = .next s) ∧
    (∀ p r, Request s x y q opWr p r →
      let n := writeExtent p
      let s1 := taken s x y r
      let ack := p.answer s.myMod x y p.dstPort opWrack []
      let free := b.clocked 5 = true ∧ b.egress.length < 64
      (¬ free → exec (.egressWrite h x y) s = .next s) ∧
      (free → s.hostAddr h (fld p.dest 47 0) n = none → ∃ t, exec (.egressWrite h x y) s = .next t ∧ OnlyRouters s t [(x, y)] ∧
        t.router x y = bounced s x y r p fabFencedTarget 3 false) ∧
      (∀ a out, free → s.hostAddr h (fld p.dest 47 0) n = some (a, out) →
        let l := writeCells p a
        let paired := (s.activeProgram h).any (fun g => g.mode = 2)
        let isB := paired && (s.activeProgram h).any (fun g => g.copyB 144 p.srcX p.srcY)
        let s2 := s1.onBridge h (fun b => b.noteOutput out paired isB l)
        let s3 := if out then s2.onActive h (fun a => { a with bytes := (s2.bridge h).outStore.length }) else s2
        (isB = true ∨ n = 0 → exec (.egressWrite h x y) s = .next (s3.inject x y [ack])) ∧
        (isB = false → n ≠ 0 → exec (.egressWrite h x y) s =
          .next ((s3.onBridge h (fun b => b.enterEgress s.cycle a n l p)).pushReady h 64)) ∧
        (isB = false → paired = false → out = false → 0 < n → a / 256 = (a + n - 1) / 256 → slackOf b ≠ 0 → b.egress = [] → l.length < 256 →
          ∃ t, exec (.egressWrite h x y) s = .next t ∧ Only s t { sites := [(x, y)], bridges := [h] } ∧ t.cell x y = s.cell x y ∧
            t.router x y = r ∧ t.bridge h = { b with
              egress := [{ line := a / 256, bytes := l.filter (fun c => c.1 / 256 = a / 256), opened := s.cycle, acks := [p] }] }))) ∧
    (b.egress = [] ∨ b.clocked 5 = false → exec (.slackTimeout h) s = .next s) ∧
    (∀ e rest, b.egress = e :: rest → b.clocked 5 = true →
      (s.cycle < e.opened + slackOf b → exec (.slackTimeout h) s = .next s) ∧
      (e.opened + slackOf b ≤ s.cycle → ∃ t, exec (.slackTimeout h) s = .next t ∧
        Only s t { sites := e.acks.map (fun p => (p.dstX, p.dstY)), bridges := [h] } ∧
        t.bridge h = { b with egress := rest, posted := b.posted ++ (byteRuns e.bytes).map (fun v => { addr := v.1, data := v.2 }) } ∧
        (∀ u v, t.cell u v = s.cell u v) ∧
        (∀ p, e.acks = [p] → Sends t p.dstX p.dstY (s.router p.dstX p.dstY) [p.answer s.myMod p.dstX p.dstY p.dstPort opWrack []])))

/-! ### Bridge registers, mailbox slots, the completion ring -/

/-- MBX_SLOT_WRITE, MBX_DOORBELL and SLOT_TAKE (R264, R271, R273, R274, R282, R287, R289): bytes of a slot that firmware does not own are
written; a doorbell hands the slot over; an access to an owned slot is a violation, one to a gated block is counted; a take copies the
command out, frees its slot and sends message 2, and the command executes, is refused by its form, or is answered as a repetition. -/
def Obligations.MailboxSlotsAreHandedOver : Prop :=
  ∀ (s : State) (h : Nat), h < 4 →
    let b := s.bridge h
    let gated := fun (i : Instr) => ∃ t, exec i s = .next t ∧ Only s t { bridges := [h] } ∧
      t.bridge h = { b with gatedCount := satInc b.gatedCount, gatedStatus := setBit b.gatedStatus 1 true }
    let violates := fun (i : Instr) => ∃ t, exec i s = .next t ∧ Only s t { bridges := [h] } ∧ Raised b (t.bridge h) evSlotViolation
    (∀ n off data, n < 16 → off + data.length ≤ 256 →
      (b.clocked 1 = false → gated (.mbxSlotWrite h n off data)) ∧
      (b.clocked 1 = true → bitB b.owned n = true → violates (.mbxSlotWrite h n off data)) ∧
      (b.clocked 1 = true → bitB b.owned n = false → ∃ t, exec (.mbxSlotWrite h n off data) s = .next t ∧ Only s t { bridges := [h] } ∧
        (∀ k, k < data.length → tgetD (t.bridge h).slotBytes (256 * n + off + k) 0 = lgetD data k 0) ∧
        (∀ a, a < 256 * n + off ∨ 256 * n + off + data.length ≤ a → tgetD (t.bridge h).slotBytes a 0 = tgetD b.slotBytes a 0) ∧
        { t.bridge h with slotBytes := b.slotBytes } = b)) ∧
    (∀ v,
      let n := fld v 3 0
      (b.clocked 1 = false → gated (.mbxDoorbell h v)) ∧
      (b.clocked 1 = true → bitB b.owned n = true ∨ ringOn b = false → violates (.mbxDoorbell h v)) ∧
      (b.clocked 1 = true → bitB b.owned n = false → ringOn b = true → ∃ t, exec (.mbxDoorbell h v) s = .next t ∧
        Only s t { bridges := [h] } ∧ t.bridge h = { b with owned := setBit b.owned n true, doorbells := b.doorbells ++ [n] } ∧
        bitB (t.bridge h).owned n = true)) ∧
    (s.helm.fw.running = false ∨ b.doorbells = [] ∨ 64 ≤ b.executing.length → ∃ t, exec (.slotTake h) s = .next t ∧ Only s t {}) ∧
    (∀ n rest, s.helm.fw.running = true → b.doorbells = n :: rest → b.executing.length < 64 →
      let c := b.cmdIn n s.ticks
      let kept := b.keptFor s.cycle c.tag
      let twin := b.executing.any (fun d => d.tag = c.tag)
      let code := formCheck b c
      ∃ t b1, exec (.slotTake h) s = .next t ∧ Only s t { bridges := [h] } ∧
        Told { b with doorbells := rest, owned := setBit b.owned n false } b1 2 ∧
        (∀ k, kept = some k → t.bridge h = { b1 with comps := b.comps ++ [k.again c] }) ∧
        (kept = none → twin = true → t.bridge h = { b1 with dups := b.dups ++ [c] }) ∧
        (kept = none → twin = false → code = codeOk → t.bridge h = { b1 with executing := b.executing ++ [c] }) ∧
        (kept = none → twin = false → code ≠ codeOk →
          let k := c.completion code c.refusalBody
          t.bridge h = { b1 with
            executing := b.executing, dups := b.dups.filter (fun d => d.tag ≠ c.tag),
            comps := b.comps ++ k :: (b.dups.filter (fun d => d.tag = c.tag)).map (fun d => k.again d),
            kept := (({ comp := k, at_ := s.cycle } : Kept) :: b.kept).take 256 }))

/-- COMPLETION_RECORD_WRITE, CRING_HEAD_WRITE and CRING_CFG_WRITE (R271, R272, R280, R281, R287): the oldest completion goes to entry TAIL,
bytes 4-63 and then bytes 0-3, followed by message 0 unless NO_INTR; a full ring, or an entry outside the windows, holds it and says so;
HEAD never passes TAIL; enabling the ring starts it afresh, and its size keeps while it is on. -/
def Obligations.CompletionRingKeepsItsOrder : Prop :=
  ∀ (s : State) (h : Nat), h < 4 →
    let b := s.bridge h
    let n := ringSize b
    let next := (b.tail + 1) % n
    let gives := fun (i : Instr) (P : Bridge → Prop) => ∃ t, exec i s = .next t ∧ Only s t { bridges := [h] } ∧ P (t.bridge h)
    (b.comps = [] ∨ ringOn b = false → gives (.completionRecordWrite h) (fun d => d = b)) ∧
    (∀ c rest, b.comps = c :: rest → ringOn b = true →
      (next = b.head → gives (.completionRecordWrite h) (fun d => Raised b d evCringFull)) ∧
      (next ≠ b.head → inWindow b (ringEntry b) 64 = false → gives (.completionRecordWrite h) (fun d => Raised b d evCringWindow)) ∧
      (next ≠ b.head → inWindow b (ringEntry b) 64 = true →
        let put := { b with
          comps := rest, tail := next, phase := if next = 0 then ! b.phase else b.phase,
          posted := b.posted ++ [{ addr := ringEntry b + 4, data := (c.bytes b.phase).drop 4 },
                                 { addr := ringEntry b, data := (c.bytes b.phase).take 4 }] }
        (c.noIntr = true → gives (.completionRecordWrite h) (fun d => d = put)) ∧
        (c.noIntr = false → gives (.completionRecordWrite h) (fun d => Told put d 0)))) ∧
    (∀ v,
      let k := fld v 15 0
      let room := k < n ∧ (k + n - b.head % n) % n ≤ (b.tail + n - b.head % n) % n
      (room → gives (.cringHeadWrite h v) (fun d => d = { b with head := k })) ∧
      (¬ room → gives (.cringHeadWrite h v) (fun d => d = b))) ∧
    (∀ v,
      (ringOn b = false → bitB v 31 = true → gives (.cringCfgWrite h v) (fun d => ringOn d = true ∧ fld d.cringCfg 4 0 = fld v 4 0 ∧
        { d with cringCfg := b.cringCfg } = { b with head := 0, tail := 0, phase := true })) ∧
      (ringOn b = false → bitB v 31 = false → gives (.cringCfgWrite h v) (fun d => ringOn d = false ∧ fld d.cringCfg 4 0 = fld v 4 0 ∧
        { d with cringCfg := b.cringCfg } = b)) ∧
      (ringOn b = true → gives (.cringCfgWrite h v) (fun d => ringOn d = bitB v 31 ∧ fld d.cringCfg 4 0 = fld b.cringCfg 4 0 ∧
        { d with cringCfg := b.cringCfg } = b)))

/-- REGISTER_WRITE, GATED_ACCESS and BRW_CTRL.CLR_CNT (R9, R38, R60, R168, R170, R270, R271, R287, R289, R322, R338, R343): a write reaches the
register that its target names, and no other object; a reserved region of BAR0 ignores it; a locked location of a running cell keeps
its value and counts the write; a step that may begin begins, another is rejected; a block whose clock is off counts the access and
answers zeros. The layout of configuration space and HDM decoder is the family's (log 14). -/
def Obligations.RegisterWritesReachTheirRegister : Prop :=
  ∀ (s : State) (v : Word),
    (∀ h, h < 4 →
      let b := s.bridge h
      let gives := fun (i : RegTarget) (d : Bridge) => ∃ t, exec (.registerWrite i v) s = .next t ∧ Only s t { bridges := [h] } ∧ t.bridge h = d
      (∀ off, off < 0x10000 → off % 4 = 0 → off ≠ 0x10 → gives (.brw h off) (b.writeReg off v) ∧ gives (.bar0 h off) (b.writeReg off v)) ∧
      (∀ i n, i = .brw h 0x10 ∨ i = .bar0 h 0x10 → fld v 3 0 = n →
        (1 ≤ n → n ≤ 11 → s.helm.steps.accepts n = true → ∃ t, exec (.registerWrite i v) s = .next t ∧ Only s t { helm := true } ∧
          t.helm = { s.helm with steps := { s.helm.steps with
            step := n, state := 1, fast := false, reason := 0, code := 0, runOn := bitB v 30, forceFull := bitB v 31, since := s.cycle } }) ∧
        (1 ≤ n → n ≤ 11 → s.helm.steps.accepts n = false → gives i { b with rejected := true }) ∧
        (n = 0 ∨ (12 ≤ n ∧ n ≤ 14) → exec (.registerWrite i v) s = .next s) ∧
        (n = 15 → exec (.registerWrite i v) s = .next (s.moduleReset (bitB v 31)))) ∧
      (∀ off, off < 0x800000 → off % 4 = 0 → (∀ i, i = .image h off ∨ i = .bar0 h (0x1000000 + off) →
        (b.clocked 3 = false → gives i (b.gatedHit 3)) ∧
        (b.clocked 3 = true → s.helm.fw.running = true ∨ (s.helm.steps.step = 3 ∧ s.helm.steps.state = 1) →
          exec (.registerWrite i v) s = .next s) ∧
        (b.clocked 3 = true → s.helm.fw.running = false → ¬ (s.helm.steps.step = 3 ∧ s.helm.steps.state = 1) →
          gives i { b with imgWin := b.imgWin.write (cellsAt off (wordBytes v)) })) ∧
        ∀ a, a < off ∨ off + 4 ≤ a → (b.imgWin.write (cellsAt off (wordBytes v))).byte a = b.imgWin.byte a) ∧
      (∀ k, k < 16 → gives (.msix h (4 * k)) (b.writeMsix k v) ∧ gives (.bar0 h (0x30000 + 4 * k)) (b.writeMsix k v) ∧
        (b.msixPending = 0 → b.writeMsix k v = { b with msixTable := tset b.msixTable k (if k % 4 = 3 then v &&& 1#32 else v) })) ∧
      (∀ off, off < 0x10000 → off % 4 = 0 → gives (.component h off) (b.writeHdm off v) ∧
        gives (.bar0 h (0x20000 + off)) (b.writeComponent off v)) ∧
      (∀ r, gives (.config h r) (b.writeCfg r v)) ∧
      (∀ off, off % 4 = 0 → (0x11000 ≤ off ∧ off < 0x20000) ∨ (0x30040 ≤ off ∧ off < 0x400000) ∨ (0x800000 ≤ off ∧ off < 0x1000000) ∨
        (0x1800000 ≤ off ∧ off < 0x4000000) → exec (.registerWrite (.bar0 h off) v) s = .next s) ∧
      (∀ k w, 1 ≤ k → k < 7 →
        (b.clocked k = true → ∃ t, exec (.gatedAccess h k w) s = .next t ∧ Only s t {}) ∧
        (b.clocked k = false → ∃ t, exec (.gatedAccess h k w) s = .next t ∧ Only s t { bridges := [h] } ∧
          t.bridge h = { b with
            gatedCount := satInc b.gatedCount, gatedStatus := setBit b.gatedStatus k true,
            lastRead := if w then b.lastRead else zeros 8 })) ∧
      (∃ t, exec (.brwClrCnt h) s = .next t ∧ Only s t { bridges := [h] } ∧ t.bridge h = { b with gatedCount := 0, lockedWrites := 0 })) ∧
    (∃ t, exec (.registerWrite .clkStatus v) s = .next t ∧ Only s t { helm := true } ∧
      t.helm = { s.helm with clocks := { s.helm.clocks with
        failA := s.helm.clocks.failA && ! bitB v 0, failB := s.helm.clocks.failB && ! bitB v 1 } }) ∧
    (∀ x y off, siteOk x y = true → off < 0x10000 → off % 4 = 0 →
      ((s.field (fieldOf x y)).rails = false → exec (.registerWrite (.unit0 x y off) v) s = .next s) ∧
      ((s.field (fieldOf x y)).rails = true → exec (.registerWrite (.unit0 x y off) v) s = .next (s.writeSite x y off v))) ∧
    (∀ x y n j, siteOk x y = true → n < 64 → j < 4 → (s.field (fieldOf x y)).rails = true → s.bodyOut x y = false →
      let c := s.cell x y
      let off := 0x400 + 16 * n + 4 * j
      (c.state ≠ .idle → ∃ t, exec (.registerWrite (.unit0 x y off) v) s = .next t ∧ OnlyCell s t x y ∧
        t.cell x y = { c with lockedWrite := true, lockedWrites := satInc c.lockedWrites }) ∧
      (c.state = .idle → ∃ t, exec (.registerWrite (.unit0 x y off) v) s = .next t ∧ OnlyCell s t x y ∧
        fld ((t.cell x y).slot n) (32 * j + 31) (32 * j) = (v &&& storeBits off).toNat ∧
        (∀ k, k < 4 → k ≠ j → fld ((t.cell x y).slot n) (32 * k + 31) (32 * k) = fld (c.slot n) (32 * k + 31) (32 * k)) ∧
        (∀ m, m ≠ n → (t.cell x y).slot m = c.slot m) ∧ { t.cell x y with slots := c.slots } = c)) ∧
    (∀ f off, f < 144 → off < 0x10000 → off % 4 = 0 →
      (¬ (off = 0x200 ∧ fld v 2 0 = 5) → exec (.registerWrite (.baseDie f off) v) s = .next (s.writeBase f off v)) ∧
      (off = 0x200 → fld v 2 0 = 5 → exec (.registerWrite (.baseDie f off) v) s = .next (s.powerLost f)) ∧
      ((s.field f).rails = false → exec (.registerWrite (.store f off) v) s = .next s) ∧
      ((s.field f).rails = true → ∃ t, exec (.registerWrite (.store f off) v) s = .next t ∧ Only s t { fields := [f] } ∧
        t.field f = (s.field f).writeStore off v)) ∧
    (∀ f, f < 144 → ∃ t, exec (.registerWrite (.baseDie f 0x208) v) s = .next t ∧ Only s t { fields := [f] } ∧
      t.field f = { s.field f with reefReg := BitVec.ofNat 4 (fld v 3 0) })

/-! ### Mailbox commands -/

namespace Sys2Proof.Claims
open Sys2Proof.Machine

/-- A command that firmware has copied out and whose turn has come. -/
structure Called (s : State) (h op : Nat) (tag : Word) (c : MbxCmd) : Prop where
  site    : h < 4
  cmd     : s.cmdOf h op tag = some c
  running : s.helm.fw.running = true
  service : s.serving = true ∨ beforeReady c = true
  turn    : changes c = true → s.turn h c = true

/-- Bridge `b` becomes `d` when the command completes with a status and a body: its completion is produced and kept, it executes no
more, and repetitions of its tag that waited are answered (R264, R281). -/
def Finished (b d : Bridge) (cycle : Nat) (c : MbxCmd) (status : Code) (body : List Byte) : Prop :=
  d = { b with
    comps := b.comps ++ c.completion status body ::
      (b.dups.filter (fun e => decide (e.tag = c.tag))).map (fun e => (c.completion status body).again e),
    executing := b.executing.filter (fun e => ! decide (e.tag = c.tag)),
    dups := b.dups.filter (fun e => ! decide (e.tag = c.tag)),
    kept := (({ comp := c.completion status body, at_ := cycle } : Kept) :: b.kept).take 256 }

/-- The command completes and changes nothing else. -/
def Completes (s : State) (h : Nat) (c : MbxCmd) (i : Instr) (code : Code) (body : List Byte) : Prop :=
  ∃ t, exec i s = .next t ∧ Only s t { bridges := [h] } ∧ Finished (s.bridge h) (t.bridge h) s.cycle c code body

/-- A reporting command answers: after the checks of R274 on the command's buffer the data is posted there and the command completes with
a body. Nothing else changes, but for the next draw. -/
def Reports (s : State) (h : Nat) (c : MbxCmd) (i : Instr) (buf len : Nat) (draws : Bool) (data body : List Byte) : Prop :=
  let b := s.bridge h
  let code := bufCheck b buf len data.length
  ∃ t, exec i s = .next t ∧ Only s t { bridges := [h], fresh := draws } ∧ (draws = true → t.fresh = s.fresh + 1) ∧
    (code = codeOk →
      Finished { b with posted := b.posted ++ (if data = [] then [] else [{ addr := buf, data := data }]) } (t.bridge h) s.cycle c codeOk body) ∧
    (code ≠ codeOk → Finished b (t.bridge h) s.cycle c code [])

/-- The commands of the mailbox but RUN, by opcode. -/
def mailbox (h : Nat) (tag : Word) (image : List Byte) : List (Nat × Instr) :=
  [(0x01, .hello h tag), (0x02, .queryInfo h tag), (0x03, .partitionSet h tag), (0x04, .programLoad h tag image),
   (0x05, .programUnload h tag), (0x06, .sessionOpen h tag), (0x07, .sessionClose h tag), (0x09, .runCancel h tag), (0x0A, .sound h tag),
   (0x0B, .pairSet h tag), (0x0C, .fixFetch h tag), (0x0D, .attest h tag), (0x0E, .logRead h tag), (0x0F, .countersRead h tag),
   (0x10, .linkStatus h tag), (0x11, .powerPolicy h tag), (0x12, .partitionReset h tag)]

/-- Some fields are woken, one after another; `State.wake` is what WAKE_REQUEST does (see `FieldsSleepAndWake`). -/
def Woken (s : State) (fs : List Nat) (u : State) : Prop := u = fs.foldl State.wake s

/-- Some field of a list sleeps. -/
def Asleep (s : State) (fs : List Nat) : Prop := ∃ f ∈ fs, (s.field f).power = .lull ∨ (s.field f).power = .doldrums

/-- The helm sends a packet on tree `k`: at once from the tree's root while no packet is in flight there, else it waits (R151). -/
def TreeSent (s t : State) (k : Nat) (p : Packet) : Prop :=
  (s.treeFree k = false → Only s t { helm := true } ∧ t.helm = { s.helm with mcWait := tset s.helm.mcWait k (tgetD s.helm.mcWait k [] ++ [p]) }) ∧
  (s.treeFree k = true → s.treeRoot k = none → t = s) ∧
  (s.treeFree k = true → ∀ v, s.treeRoot k = some v →
    let q := { p with srcX := v.1, srcY := v.2, srcPort := portN, mc := true, dstX := k, tag := k }
    Only s t { sites := [v], helm := true } ∧
      t.helm = { s.helm with mcast := tset s.helm.mcast k { pkt := q, done := none, missed := [], result := none, gone := [] } } ∧
      t.cell v.1 v.2 = s.cell v.1 v.2 ∧
      t.router v.1 v.2 = { s.router v.1 v.2 with inject := (s.router v.1 v.2).inject ++ [q] })

/-- The head of a queue with no run active: the run that was there stays with its time, another comes to it now. -/
def headOf (q : Partition) (rest : List Run) (cycle : Nat) : Option Head :=
  match q.active, rest with
  | none, r :: _ =>
    let now : Head := { run := r.id, at_ := cycle, slot := q.activeSlot, comb := q.comb, session := q.lastSession }
    some (match q.headAt with
      | some h => if h.run = r.id then h else now
      | none => now)
  | _, _ => none

/-- The queued runs of a partition that meet a test complete with a code: a fix record each, chained in queue order, and a run completion
at their host sites; the others keep their places (R230, R231, R282). -/
structure Dropped (s t : State) (p : Nat) (test : Run → Bool) (code : Code) : Prop where
  only    : Only s t { bridges := ((s.part p).queue.filter test).map (·.site), parts := [p], helm := true }
  helm    : t.helm = { s.helm with counters := t.helm.counters }
  part    : let q := s.part p
    let gone := q.queue.filter test
    let rest := q.queue.filter (fun r => ! test r)
    ∃ l : List FixRec,
      t.part p = { q with
        queue := rest, inputs := q.inputs.filter (fun i => rest.any (fun r => decide (r.id = i.runId))), headAt := headOf q rest s.cycle,
        records := (l.reverse ++ q.records).take 16384, chainSeq := q.chainSeq + gone.length, counters := (t.part p).counters } ∧
      l.map (fun e => (e.runId, e.tag, e.session, e.status)) = gone.map (fun r => (r.id, r.tag, r.session, code)) ∧
      l.map (·.seq) = (List.range gone.length).map (q.chainSeq + ·)
  bridges : ∀ g, ∃ l : List Completion,
    t.bridge g = { s.bridge g with comps := (s.bridge g).comps ++ l } ∧
    l.map (fun e => (e.opcode, e.version, e.kind, e.tag, e.status, e.slot, e.noIntr)) =
      (((s.part p).queue.filter test).filter (fun r => decide (r.site = g))).map
        (fun r => (0x08, r.version, 1, r.tag, code, r.slot, r.noIntr)) ∧
    l.map (fun e => e.body.take 8) =
      (((s.part p).queue.filter test).filter (fun r => decide (r.site = g))).map (fun r => leBytes 8 r.id)

/-- The M-cells of a chunk's home. -/
def homeOf (s : State) (c : Nat) : List (Nat × Nat) :=
  let w := s.chunkMap c
  if bitB w 31 then homeSites (fld w 23 16) (fld w 2 0) else []

/-- The words of some M-cells are cleared, those of fenced bodies apart; their waiters are answered RUN_CANCELLED (R210). -/
structure Cleared (s t : State) (home : List (Nat × Nat)) : Prop where
  only : Only s t { sites := home }
  out  : ∀ x y, siteOk x y = true → s.bodyOut x y = true → t.cell x y = s.cell x y ∧ t.router x y = s.router x y
  here : ∀ x y, siteOk x y = true → (x, y) ∈ home → s.bodyOut x y = false →
    let c := s.cell x y
    t.cell x y = { c with w0 := { c.w0 with word := 0, waiters := [] }, w1 := { c.w1 with word := 0, waiters := [] } } ∧
    t.router x y = { s.router x y with
      inject := (s.router x y).inject ++ (c.w0.waiters ++ c.w1.waiters).map (waiterRsp s.myMod x y 0 runCancelled) }

/-- The tag epoch of every cell of a partition advances; what waits for responses to earlier requests ends; link dies and bridges drop
their records of those requests (R154, R155). A cell that has never been used has sent none. -/
structure EpochAdvanced (s t : State) (fs : List Nat) : Prop where
  rest    : { t with cells := s.cells, lanes := s.lanes, bridges := s.bridges } = s
  others  : ∀ x y, fieldOf x y ∉ fs → siteOk x y = true → t.cell x y = s.cell x y
  cells   : ∀ x y, siteOk x y = true → fieldOf x y ∈ fs → (s.cells.map (·.1)).count (siteIx x y) = 1 →
    let c := s.cell x y
    t.cell x y = { c with epoch := c.epoch + 1, reqs := [], dmas := [], ops := c.ops.filter (fun o => ! o.waiting) }
  unused  : ∀ x y, (s.cells.map (·.1)).count (siteIx x y) = 0 → t.cell x y = s.cell x y
  lanes   : ∀ k n, t.lane k n = { s.lane k n with reqs := (s.lane k n).reqs.filter (fun r => ! fs.contains (fieldOf r.x r.y)) }
  bridges : ∀ h, t.bridge h = { s.bridge h with
    hostReads := (s.bridge h).hostReads.filter (fun r => ! fs.contains (fieldOf r.pkt.srcX r.pkt.srcY)) }

/-- The active run of a partition is stopped (R259): STOP goes out on the run-control tree unless it has gone already, the session's words
are cleared, the tag epoch advances, no run starts for 100 µs. A run already stopped with a code keeps it. -/
def Stopped (s t : State) (p : Nat) (code : Code) : Prop :=
  match (s.part p).active with
  | none => t = s
  | some a =>
    (a.stopCode.isSome = true → t = s) ∧
    (a.stopCode = none → ∃ u v w, (a.stopAt = none → TreeSent s u (8 + p) (ctrlPkt s.myMod 2)) ∧ (a.stopAt.isSome = true → u = s) ∧
      Cleared u v (homeOf u (s.session a.run.session).chunk) ∧ EpochAdvanced v w (rectFields (s.part p).rect) ∧
      Only w t { parts := [p] } ∧
      t.part p = { s.part p with
        active := some { a with stopCode := some code, stopAt := some (a.stopAt.getD s.cycle) },
        nextStart := s.cycle + 100 * usec, epochAt := some s.cycle })

/-- Every cell and router of some fields loses its program (R246): slots, descriptors, queues and engines as after reset, and storage that
holds no stated contents; sync words, microcode, counters and the tag epoch stay. -/
structure Unloaded (s t : State) (fs : List Nat) : Prop where
  only    : Only s t { sites := fs.flatMap fieldSites, fields := fs, fresh := true }
  fields  : ∀ f ∈ fs, t.field f = { s.field f with lostGen := s.fresh }
  cells   : ∀ x y, siteOk x y = true → fieldOf x y ∈ fs →
    let c := s.cell x y
    let d := t.cell x y
    d = { c with
      slots := [], descs := [], storeBad := [], qcfg := [], qext := [], slotEn := 0, slotEnShadow := 0, applyPending := false,
      wdogLimit := 0x00010000#32, queues := [], acc := [], ops := [], pc := { c.pc with strm := [], scope := [], lines := [] },
      gc := { c.gc with cfg := gcCfgReset, histBase := 0, spillBase := 0, spillCap := 0 }, sg := { c.sg with entry := [], window := [] },
      pred := d.pred, accGen := d.accGen, data := d.data } ∧
    d.data.cells = [] ∧ d.data.bad = [] ∧ d.data.weak = []
  routers : ∀ x y, siteOk x y = true → fieldOf x y ∈ fs →
    t.router x y = { s.router x y with laneMap := [], wheel := [], joins := [], laneFault := 0 }

/-- The program of slot `k` leaves: its queued runs are cancelled; if it was active, the partition's cells lose it (R244). -/
def Removed (s t : State) (p k : Nat) : Prop :=
  let q := s.part p
  ∃ u, Dropped s u p (fun r => decide (r.progSlot = k)) runCancelled ∧
    (q.activeSlot ≠ some k → Only u t { parts := [p] } ∧ t.part p = { u.part p with programs := tdel q.programs k }) ∧
    (q.activeSlot = some k → ∃ v, Only u v { parts := [p] } ∧
      v.part p = { u.part p with programs := tdel q.programs k, activeSlot := none, comb := none, lastSession := none } ∧
      Unloaded v t (rectFields q.rect))

/-- Firmware writes a chunk's entry in every field's store. -/
def ChunkSet (s t : State) (c : Nat) (w : Word) : Prop :=
  Only s t { fields := List.range 144 } ∧ ∀ f, f < 144 → t.field f = { s.field f with frsSync := tset (s.field f).frsSync c w }

/-- The bytes of an HDM range are zero in its towers, and no other byte changes (R181). -/
structure Zeroed (s t : State) (p base size : Nat) : Prop where
  only  : Only s t { fields := s.towersOf p }
  rest  : ∀ f, { t.field f with tower := (s.field f).tower } = s.field f
  here  : ∀ o f a, base ≤ o → o < base + size → s.hdmTower p o = some (f, a) → (t.field f).tower.byte a = 0
  other : ∀ f a, (∀ o, base ≤ o → o < base + size → s.hdmTower p o ≠ some (f, a)) → (t.field f).tower.byte a = (s.field f).tower.byte a

end Sys2Proof.Claims

/-- HELLO, QUERY_INFO, FIX_FETCH, ATTEST, LOG_READ, COUNTERS_READ and LINK_STATUS (R231, R274-R277, R311, R374, R392): each writes what
it reports into the command's buffer, after the buffer's checks, and changes nothing else. While the present chain has no record,
FIX_FETCH reads the one that ended last (the model's choice, log 59). Of every mailbox command: it does nothing before firmware has copied
it out, while no firmware runs and while its turn has not come, and but for the four that firmware answers then it is refused before
READY (R276, R345, R346). -/
def Obligations.MailboxReportsAnswerInTheirBuffer : Prop :=
  ∀ (s : State) (h : Nat) (tag : Word) (c : MbxCmd),
    let b := c.body
    (∀ image op i, (op, i) ∈ mailbox h tag image →
      (4 ≤ h → exec i s = .fault .noSuchHostSite) ∧
      (h < 4 → s.cmdOf h op tag = none → exec i s = .next s) ∧
      (h < 4 → s.cmdOf h op tag = some c →
        (s.helm.fw.running = false → exec i s = .next s) ∧
        (s.helm.fw.running = true → s.serving = false → beforeReady c = false → Completes s h c i admitBusy []) ∧
        (s.helm.fw.running = true → s.serving = true → changes c = true → s.turn h c = false → exec i s = .next s))) ∧
    (Called s h 0x01 tag c →
      (leAt b 0 2 ≤ 1 → 1 ≤ leAt b 2 2 → ∃ t, exec (.hello h tag) s = .next t ∧ Only s t { bridges := [h] } ∧
        Finished { s.bridge h with version := some 1 } (t.bridge h) s.cycle c codeOk (leBytes 2 1 ++ leBytes 2 1 ++ leBytes 2 1)) ∧
      (1 < leAt b 0 2 ∨ leAt b 2 2 < 1 → Completes s h c (.hello h tag) mbxVersion [])) ∧
    (Called s h 0x02 tag c →
      let answers := fun (d : List Byte) => Reports s h c (.queryInfo h tag) (leAt b 8 8) (leAt b 16 4) false d (bytesBody d)
      (byteAt b 0 = 0 → answers (s.infoModule h)) ∧
      (byteAt b 0 = 1 → leAt b 2 2 < 1024 → answers (s.infoSession (s.session (leAt b 2 2)))) ∧
      (byteAt b 0 = 1 → 1024 ≤ leAt b 2 2 → Completes s h c (.queryInfo h tag) loadRange []) ∧
      (byteAt b 0 = 2 → answers (s.pairedChannels.flatMap (leBytes 2))) ∧
      (3 ≤ byteAt b 0 → answers ((List.range 4).flatMap s.infoPart))) ∧
    (Called s h 0x0C tag c →
      let q := s.part h
      let e : EndedChain := match q.records, q.ended with
        | [], v :: _ => v
        | _, _ => { records := q.records, seals := q.seals }
      let first := leAt b 0 8
      let recs := e.records.reverse.filter (fun r => decide (first ≤ r.seq) && decide (r.seq < first + leAt b 8 4))
      let last := ((recs.reverse.head?).map (·.seq)).getD first
      let old := e.seals.reverse.filter (fun v => decide (first ≤ v.seq))
      let seals := if byteAt b 12 = 0 then [] else
        old.filter (fun v => decide (v.seq < last)) ++ (old.filter (fun v => decide (last ≤ v.seq))).take 1
      Reports s h c (.fixFetch h tag) (leAt b 16 8) (leAt b 24 4) false (recs.flatMap FixRec.bytes ++ seals.flatMap Seal.bytes)
        (leBytes 4 recs.length ++ leBytes 4 seals.length)) ∧
    (Called s h 0x0D tag c →
      let w := s.helm.fw
      let body := s.reportBody h (b.take 64)
      let d := body ++ signature (Config.attestationKey w.keyDraw) s.fresh body ++ w.statement ++ leBytes 4 Config.certificate.length ++
        Config.certificate
      Reports s h c (.attest h tag) (leAt b 64 8) (leAt b 72 4) true d (bytesBody d)) ∧
    (Called s h 0x0E tag c →
      (byteAt b 0 = 0 → let d := s.helm.log.readFrom (leAt b 8 8) (leAt b 16 4)
        Reports s h c (.logRead h tag) (leAt b 24 8) (leAt b 32 4) false d (bytesBody d)) ∧
      (1 ≤ byteAt b 0 →
        (144 ≤ byteAt b 1 → Completes s h c (.logRead h tag) loadRange []) ∧
        (byteAt b 1 < 144 → s.fieldInUse (byteAt b 1) = true → Completes s h c (.logRead h tag) admitBusy []) ∧
        (byteAt b 1 < 144 → s.fieldInUse (byteAt b 1) = false → let d := s.scanField (byteAt b 1)
          Reports s h c (.logRead h tag) (leAt b 24 8) (leAt b 32 4) true d (bytesBody d)))) ∧
    (Called s h 0x0F tag c →
      let answers := fun (d : List Byte) => Reports s h c (.countersRead h tag) (leAt b 16 8) (leAt b 24 4) false d (bytesBody d)
      let sums := fun (p : Option Nat) => (span (leAt b 2 2) (leAt b 4 2)).flatMap (fun id => leBytes 8 (min (s.counter p id) (2 ^ 64 - 1)))
      let x := leAt b 8 2
      let y := leAt b 10 2
      (byteAt b 0 = 0 → answers (sums none)) ∧ (byteAt b 0 = 1 → answers (sums (some h))) ∧
      (2 ≤ byteAt b 0 → siteOk x y = true →
        answers ((counterOffsets (clsOf x y)).flatMap (fun o => wordBytes (s.readSite x y o)))) ∧
      (2 ≤ byteAt b 0 → siteOk x y = false → Completes s h c (.countersRead h tag) loadRange [])) ∧
    (Called s h 0x10 tag c →
      let d := (if byteAt b 0 = 0xFF then List.range 6 else [byteAt b 0]).flatMap s.portBlock
      Reports s h c (.linkStatus h tag) (leAt b 8 8) (leAt b 16 4) false d (bytesBody d))

/-- PARTITION_SET, PAIR_SET, POWER_POLICY, SOUND and PARTITION_RESET (R154, R155, R170, R171, R225, R231, R235, R241-R243, R263, R326):
what they set, what they refuse, what they wait for, and what stays in execution. The shape of a partition's run-control tree and the
values it keeps in sleeping fields are the model's (logs 23 and 27); the order of the checks is read from the spec (log 24). -/
def Obligations.MailboxSettingsTakeEffect : Prop :=
  ∀ (s : State) (h : Nat) (tag : Word) (c : MbxCmd),
    let b := c.body
    let q := s.part h
    (Called s h 0x03 tag c →
      let changed := fun (k : Nat) => decide ((s.part k).rect ≠ rectArg c k)
      (h ≠ 0 → Completes s h c (.partitionSet h tag) loadRange []) ∧
      (h = 0 → s.partitionCheck c ≠ codeOk → Completes s h c (.partitionSet h tag) (s.partitionCheck c) []) ∧
      (h = 0 → s.partitionCheck c = codeOk → (∃ k, k < 4 ∧ changed k = true ∧ s.treeFree (8 + k) = false) →
        exec (.partitionSet h tag) s = .next s) ∧
      (h = 0 → s.partitionCheck c = codeOk → (∀ k, k < 4 → changed k = true → s.treeFree (8 + k) = true) →
        ∃ t b0, exec (.partitionSet h tag) s = .next t ∧ t.cycle = s.cycle ∧ t.mono = s.mono ∧ t.slowAt = s.slowAt ∧
        t.pending = s.pending ∧ t.sessions = s.sessions ∧ (∀ k n, t.lane k n = s.lane k n) ∧
        t.helm = { s.helm with counters := t.helm.counters } ∧
        (∀ k, k < 4 → changed k = false →
          t.part k = { s.part k with
            timeout := if partExists (s.part k) then timeoutArg c k else (s.part k).timeout,
            pairReq := if partExists (s.part k) then false else (s.part k).pairReq, counters := (t.part k).counters }) ∧
        (∀ k, k < 4 → changed k = true →
          t.part k = { Partition.reset with
            rect := rectArg c k, timeout := if bitB (rectArg c k) 31 then timeoutArg c k else Partition.reset.timeout, chainOn := true,
            sealAt := s.cycle, sounding := (s.part k).sounding, chainId := (t.part k).chainId, ended := (t.part k).ended,
            counters := (t.part k).counters } ∧
          ((s.part k).records = [] → (t.part k).ended = (s.part k).ended) ∧
          (∀ r rest, (s.part k).records = r :: rest → ∃ l, (t.part k).ended = { records := r :: rest, seals := l } :: (s.part k).ended ∧
            ((s.part k).chainOn = true → (s.part k).sealSeq < (s.part k).chainSeq →
              ∃ v : Seal, l = (v :: (s.part k).seals).take 64 ∧ v.seq = r.seq ∧ v.head = sha512 r.bytes))) ∧
        (∀ k, 4 ≤ k → t.part k = s.part k ∧ t.bridge k = s.bridge k) ∧
        (∀ f, f < 144 → (∀ k, k < 4 → tgetD (t.field f).frsRect k 0 = rectArg c k) ∧ (t.field f).frsPart = t.frsPartOf f ∧
          (t.field f).xferTimeout = (match t.partOfField f with
            | some p => word (t.part p).timeout
            | none => (s.field f).xferTimeout) ∧
          { t.field f with
            frsRect := (s.field f).frsRect, frsPart := (s.field f).frsPart, xferTimeout := (s.field f).xferTimeout,
            savedRouters := (s.field f).savedRouters } = s.field f) ∧
        (∀ x y, siteOk x y = true →
          t.cell x y = { s.cell x y with
            pc := { (s.cell x y).pc with fixedSum := 0 }, sg := { (s.cell x y).sg with winSum := 0, skipSum := 0 } } ∧
          t.router x y = { s.router x y with total := [], mcTree := (t.router x y).mcTree } ∧
          (∀ j, (∀ k, k < 4 → changed k = true → j ≠ 8 + k) → tgetD (t.router x y).mcTree j 0 = tgetD (s.router x y).mcTree j 0) ∧
          (∀ k, k < 4 → changed k = true → bitB (rectArg c k) 31 = false → tgetD (t.router x y).mcTree (8 + k) 0 = 0)) ∧
        (let moved := fun (k : Nat) => changed k = true ∧ ((s.bridge k).hdmSize ≠ t.hdmSize k ∨ s.towersOf k ≠ t.towersOf k)
         (∀ k, moved k → (if k = 0 then b0 else t.bridge k) = { (s.bridge k).event evHdmChanged with hdmSize := t.hdmSize k }) ∧
         (∀ k, k < 4 → ¬ moved k → (if k = 0 then b0 else t.bridge k) = s.bridge k)) ∧
        Finished b0 (t.bridge 0) s.cycle c codeOk [])) ∧
    (Called s h 0x0B tag c →
      (partExists q = false → Completes s h c (.pairSet h tag) loadRange []) ∧
      (partExists q = true → s.hasRuns h = true → Completes s h c (.pairSet h tag) admitBusy []) ∧
      (partExists q = true → s.hasRuns h = false → ∃ t, exec (.pairSet h tag) s = .next t ∧ Only s t { bridges := [h], parts := [h] } ∧
        t.part h = { q with pairReq := byteAt b 0 = 1 } ∧ Finished (s.bridge h) (t.bridge h) s.cycle c codeOk [])) ∧
    (Called s h 0x11 tag c →
      (partExists q = false → Completes s h c (.powerPolicy h tag) loadRange []) ∧
      (partExists q = true → q.floor ≠ byteAt b 0 → s.hasRuns h = true → Completes s h c (.powerPolicy h tag) admitBusy []) ∧
      (partExists q = true → q.floor = byteAt b 0 ∨ s.hasRuns h = false →
        ∃ u v t, exec (.powerPolicy h tag) s = .next t ∧ Only s u { parts := [h] } ∧
          u.part h = { q with
            floor := byteAt b 0, lullIdle := if leAt b 4 4 = 0 then q.lullIdle else leAt b 4 4,
            doldIdle := if leAt b 8 4 = 0 then q.doldIdle else leAt b 8 4 } ∧
          Woken u (rectFields q.rect) v ∧ Only v t { bridges := [h] } ∧ Finished (v.bridge h) (t.bridge h) s.cycle c codeOk [])) ∧
    (Called s h 0x0A tag c →
      let fs := maskFields (leAt b 0 18)
      let code := bufCheck (s.bridge h) (leAt b 24 8) (leAt b 32 4) 0
      (c.accepted = true → exec (.sound h tag) s = .next s) ∧
      (c.accepted = false → (∃ f ∈ fs, inRect q.rect f = false) → Completes s h c (.sound h tag) loadRange []) ∧
      (c.accepted = false → (∀ f ∈ fs, inRect q.rect f = true) → code ≠ codeOk → Completes s h c (.sound h tag) code []) ∧
      (c.accepted = false → (∀ f ∈ fs, inRect q.rect f = true) → code = codeOk → q.sounding ≠ [] → exec (.sound h tag) s = .next s) ∧
      (c.accepted = false → (∀ f ∈ fs, inRect q.rect f = true) → code = codeOk → q.sounding = [] →
        ∃ u v t, exec (.sound h tag) s = .next t ∧ Only s u { parts := [h] } ∧ u.part h = { q with sounding := fs } ∧ Woken u fs v ∧
          Only v t { bridges := [h] } ∧ t.bridge h = { v.bridge h with
            executing := (v.bridge h).executing.map (fun d => if d.tag = c.tag then { d with accepted := true } else d) })) ∧
    (Called s h 0x12 tag c →
      let fs := rectFields q.rect
      (partExists q = false → Completes s h c (.partitionReset h tag) codeOk []) ∧
      (partExists q = true → c.accepted = true → exec (.partitionReset h tag) s = .next s) ∧
      (partExists q = true → c.accepted = false → ∃ u, Woken s fs u ∧
        (Asleep u fs → exec (.partitionReset h tag) s = .next u) ∧
        (¬ Asleep u fs → ∃ a d t, exec (.partitionReset h tag) s = .next t ∧ Dropped u a h (fun _ => true) runCancelled ∧
          Stopped a d h runCancelled ∧
          (let home := (d.openIn h).flatMap (fun v => homeOf d v.2.chunk)
           Only d t { sites := fs.flatMap fieldSites ++ home, fields := fs, parts := [h], bridges := [h] } ∧
           t.part h = { d.part h with
             activeSlot := none, comb := none, lastSession := none, resetAt := some s.cycle, resetTag := some c.tag } ∧
           t.bridge h = { d.bridge h with
             executing := (d.bridge h).executing.map (fun e => if e.tag = c.tag then { e with accepted := true } else e) } ∧
           (∀ f ∈ fs, t.field f = { d.field f with preset := true }) ∧
           (∀ x y, siteOk x y = true → fieldOf x y ∈ fs →
             let e := d.cell x y
             let e1 := if e.state = .idle then e else { e with haltFrom := e.haltNext, stopping := true, sg := { e.sg with wins := [] } }
             { t.cell x y with w0 := e.w0, w1 := e.w1, queues := e.queues } = { e1 with ops := [], pc := { e1.pc with scope := [] } } ∧
             (∀ n, (t.cell x y).queue n = { e.queue n with hw := [], ring := [] }) ∧
             bitB (t.fenceWord x y) 1 = true ∧
             { t.router x y with inject := (d.router x y).inject } = { d.router x y with
               fence := setBit (d.router x y).fence 1 false, lanes := [], laneMap := [], laneFault := 0, wheel := [], joins := [] }) ∧
           (∀ x y, siteOk x y = true → (x, y) ∈ home → d.bodyOut x y = false → ∀ k, k < 2 →
             ((t.cell x y).sw k).word = 0 ∧ ((t.cell x y).sw k).waiters = [])))))

/-- PROGRAM_LOAD, PROGRAM_UNLOAD, SESSION_OPEN and SESSION_CLOSE (R106, R119, R166, R210, R237, R244, R247, R248): a checked image becomes
the slot's program and the one before it leaves; an image that fails leaves the slot as it was; either is recorded. An unload empties the
slot. An opened context holds the command's values, its chunk's words are cleared and its history bytes zero. A closed one loses its runs,
its words and its chunk. Each waits for a run of its program, or wakes its fields first. The order of the checks is read from the spec
(log 24). -/
def Obligations.ProgramsAndSessionsComeAndGo : Prop :=
  ∀ (s : State) (h : Nat) (tag : Word) (c : MbxCmd) (image : List Byte),
    let b := c.body
    let q := s.part h
    (Called s h 0x04 tag c →
      let i := Instr.programLoad h tag image
      let slot := byteAt b 12
      let save := leAt b 16 8
      let img := padTo (leAt b 8 4) image
      let want := if byteAt b 13 = 1 then some ((b.drop 24).take 64) else none
      let code := bufCheck (s.bridge h) (leAt b 0 8) (leAt b 8 4) 0
      let rec_ := fun (k : Code) => { recOf 0x06 .firmware with index := 1, code := k, detail := (img.drop 32).take 12 }
      (code ≠ codeOk → Completes s h c i code []) ∧
      (code = codeOk → partExists q = false ∨ 4 ≤ slot → Completes s h c i loadRange []) ∧
      (code = codeOk → partExists q = true → slot < 4 → s.slotRuns h slot = true → exec i s = .next s) ∧
      (code = codeOk → partExists q = true → slot < 4 → s.slotRuns h slot = false →
        (∀ e, s.load h slot save want img = .error e → ∃ t, exec i s = .next t ∧ Only s t { bridges := [h], helm := true } ∧
          t.helm = { s.helm with log := s.helm.log.soft s.cycle s.mono (rec_ e.code) } ∧
          Finished (s.bridge h) (t.bridge h) s.cycle c e.code (leBytes 4 e.comb ++ leBytes 4 (e.x + e.y * 2 ^ 16) ++ leBytes 2 e.index)) ∧
        (∀ g, s.load h slot save want img = .ok g → ∃ u t, exec i s = .next t ∧ Removed s u h slot ∧
          Only u t { bridges := [h], parts := [h], helm := true } ∧
          t.helm = { u.helm with log := u.helm.log.soft s.cycle s.mono (rec_ codeOk) } ∧
          t.part h = { u.part h with
            programs := tset (u.part h).programs slot { prog := g, save := save, saved := none, comb := none } } ∧
          t.program h slot = some g ∧ (∀ k, k ≠ slot → t.program h k = s.program h k) ∧
          Finished (u.bridge h) (t.bridge h) s.cycle c codeOk []))) ∧
    (Called s h 0x05 tag c →
      let slot := byteAt b 0
      (s.program h slot = none → Completes s h c (.programUnload h tag) loadRange []) ∧
      (s.program h slot ≠ none → s.slotRuns h slot = true → exec (.programUnload h tag) s = .next s) ∧
      (s.program h slot ≠ none → s.slotRuns h slot = false → ∃ u t, exec (.programUnload h tag) s = .next t ∧ Removed s u h slot ∧
        Only u t { bridges := [h] } ∧ t.program h slot = none ∧ (∀ k, k ≠ slot → t.program h k = s.program h k) ∧
        Finished (u.bridge h) (t.bridge h) s.cycle c codeOk [])) ∧
    (Called s h 0x06 tag c →
      (partExists q = false → Completes s h c (.sessionOpen h tag) loadRange []) ∧
      (partExists q = true → s.sessionFor h (leAt b 0 2) = none → Completes s h c (.sessionOpen h tag) admitBusy []) ∧
      (partExists q = true → ∀ n, s.sessionFor h (leAt b 0 2) = some n →
        let buf := bufCheck (s.bridge h) (leAt b 40 8) 64 64
        let fs := s.cmdFields h c
        (s.openCheck h n b ≠ codeOk → Completes s h c (.sessionOpen h tag) (s.openCheck h n b) []) ∧
        (s.openCheck h n b = codeOk → buf ≠ codeOk → Completes s h c (.sessionOpen h tag) buf []) ∧
        (s.openCheck h n b = codeOk → buf = codeOk → ∃ u, Woken s fs u ∧
          (Asleep u fs → exec (.sessionOpen h tag) s = .next u) ∧
          (¬ Asleep u fs → ∃ v w z a t, exec (.sessionOpen h tag) s = .next t ∧
            (let again := (u.session n).state = 1
             let chunk := if again then (u.session n).chunk else u.freeChunk
             let ctx : Session :=
               { state := 1, part := h, program := byteAt b 2, priority := byteAt b 3, deadline := leAt b 4 4, chunk := chunk, runs := 0,
                 kvBase := leAt b 8 8, kvSize := leAt b 16 8, histBase := leAt b 24 8, histSize := leAt b 32 8,
                 lastRun := if again then (u.session n).lastRun else 0 }
             (again → v = u) ∧
             (¬ again → ∀ home, u.spareHome h = some home → ChunkSet u v chunk (chunkWord h home)) ∧
             Cleared v w (homeOf v chunk) ∧ Zeroed w z h (leAt b 24 8) (leAt b 32 8) ∧
             Only z a { sessions := [n], parts := [h] } ∧ a.session n = ctx ∧
             a.part h = { z.part h with lastSession := if (z.part h).lastSession = some n then none else (z.part h).lastSession } ∧
             Only a t { bridges := [h] } ∧
             Finished { a.bridge h with posted := (a.bridge h).posted ++ [{ addr := leAt b 40 8, data := a.infoSession ctx }] }
               (t.bridge h) s.cycle c codeOk (leBytes 2 n ++ leBytes 2 chunk)))))) ∧
    (Called s h 0x07 tag c →
      let n := leAt b 0 2
      let mine := n < 1024 ∧ (s.session n).state = 1 ∧ (s.session n).part = h
      let fs := s.cmdFields h c
      (¬ mine → Completes s h c (.sessionClose h tag) loadRange []) ∧
      (mine → ∃ u, Woken s fs u ∧
        (Asleep u fs → exec (.sessionClose h tag) s = .next u) ∧
        (¬ Asleep u fs → ∃ v w z a d t, exec (.sessionClose h tag) s = .next t ∧
          (let chunk := (u.session n).chunk
           Dropped u v h (fun r => decide (r.session = n)) runCancelled ∧
           ((v.part h).active.any (fun a => decide (a.run.session = n)) = true → Stopped v w h runCancelled) ∧
           ((v.part h).active.any (fun a => decide (a.run.session = n)) = false → w = v) ∧
           Cleared w z (homeOf w chunk) ∧ ChunkSet z a chunk (setBit (w.chunkMap chunk) 31 false) ∧
           Only a d { sessions := [n], parts := [h] } ∧ d.session n = Session.closed ∧
           d.part h = { a.part h with lastSession := if (a.part h).lastSession = some n then none else (a.part h).lastSession } ∧
           Only d t { bridges := [h] } ∧ Finished (d.bridge h) (t.bridge h) s.cycle c codeOk []))))

/-- RUN and RUN_CANCEL (R247, R256, R257, R262, R274, R278, R279, R282): an admitted run takes its place in the queue under a new RUN_ID and
wakes its fields; one that is not admitted changes nothing but its completion, which carries its arrival; a queued run that is cancelled
leaves with RUN_CANCELLED, an active one is stopped, a finished one stays as it ended. ADMIT_BUSY without a helm landing is the model's
choice (log 56); what the projection reads between the lines is in log 37. -/
def Obligations.RunsAreAdmittedAndCancelled : Prop :=
  ∀ (s : State) (h : Nat) (tag : Word) (c : MbxCmd),
    let b := c.body
    let q := s.part h
    (4 ≤ h → exec (.run h tag) s = .fault .noSuchHostSite) ∧
    (h < 4 → s.cmdOf h 0x08 tag = none ∨ s.helm.fw.running = false → exec (.run h tag) s = .next s) ∧
    (h < 4 → s.cmdOf h 0x08 tag = some c → s.helm.fw.running = true →
      let n := leAt b 0 2
      let v := s.session n
      let refusal := fun (code : Code) => Completes s h c (.run h tag) code (leBytes 8 0 ++ leBytes 8 c.arrival)
      let opened := s.sessionState v = 1 ∧ v.part = h
      c.opcode = 0x08 ∧
      (s.serving = false → refusal admitBusy) ∧
      (s.serving = true → (∃ w ∈ runWins b, w.1 % 64 ≠ 0) → refusal loadAlignment) ∧
      (s.serving = true → (∀ w ∈ runWins b, w.1 % 64 = 0) →
        (¬ opened ∨ s.program h v.program = none →
          let code := s.admitCheck h c v none none (if partExists q then s.runFields h none else [])
          code ≠ codeOk ∧ refusal code) ∧
        (opened → ∀ p, s.program h v.program = some p →
          let comb := combOf p.ladders (runSizes b)
          let fs := if partExists q then s.runFields h (some p) else []
          let first := runCheck (s.bridge h) p b comb
          let code := s.admitCheck h c v (some p) comb fs
          let r := s.runOf h c v (comb.getD 0) (s.wakeTime fs)
          let m := s.chainHead h
          (first ≠ codeOk → refusal first) ∧
          (first = codeOk → code ≠ codeOk → refusal code) ∧
          (first = codeOk → code = codeOk → s.project h m.1 m.2.1 (placeRun r m.2.2) = none → refusal admitDeadline) ∧
          (first = codeOk → code = codeOk → s.project h m.1 m.2.1 (placeRun r m.2.2) ≠ none →
            ∃ u w t e, exec (.run h tag) s = .next t ∧ Only s u { parts := [h], sessions := [n], helm := true } ∧
              u.helm = { s.helm with nextRunId := s.helm.nextRunId + 1 } ∧
              u.session n = { v with runs := min (v.runs + 1) (2 ^ 32 - 1), lastRun := s.helm.nextRunId + 1 } ∧
              u.part h = { q with queue := (u.part h).queue, headAt := headOf q (u.part h).queue s.cycle } ∧
              (u.part h).queue.map (fun x => { x with projEnd := 0 }) =
                ((if q.active.isNone && q.headAt.isSome then q.queue.take 1 else []) ++ placeRun r m.2.2).map
                  (fun x => { x with projEnd := 0 }) ∧
              (∃ x ∈ (u.part h).queue, x.id = s.helm.nextRunId + 1 ∧ x.projEnd = e) ∧
              Woken u fs w ∧ Only w t { bridges := [h] } ∧
              Finished (w.bridge h) (t.bridge h) s.cycle c codeOk
                (leBytes 8 (s.helm.nextRunId + 1) ++ leBytes 8 c.arrival ++ leBytes 8 r.deadline ++ leBytes 8 e))))) ∧
    (Called s h 0x09 tag c →
      let id := leAt b 0 8
      let queued := q.queue.any (fun r => decide (r.id = id))
      let active := q.active.any (fun a => decide (a.run.id = id))
      (queued = true → ∃ u t, exec (.runCancel h tag) s = .next t ∧ Dropped s u h (fun r => decide (r.id = id)) runCancelled ∧
        Only u t { bridges := [h] } ∧ Finished (u.bridge h) (t.bridge h) s.cycle c codeOk []) ∧
      (queued = false → active = true → q.active.any (fun a => a.stopAt.isSome) = false →
        ∃ u t, exec (.runCancel h tag) s = .next t ∧ Stopped s u h runCancelled ∧ Only u t { bridges := [h] } ∧
          Finished (u.bridge h) (t.bridge h) s.cycle c codeOk []) ∧
      (queued = false → active = true → q.active.any (fun a => a.stopAt.isSome) = true → Completes s h c (.runCancel h tag) codeOk []) ∧
      (queued = false → active = false → q.records.any (fun r => decide (r.runId = id)) = true →
        Completes s h c (.runCancel h tag) codeOk []) ∧
      (queued = false → active = false → q.records.any (fun r => decide (r.runId = id)) = false →
        Completes s h c (.runCancel h tag) loadRange []))

/-! ### Runs, reports, resets, sounding -/

namespace Sys2Proof.Claims
open Sys2Proof.Machine

/-- One change after another along a list. -/
def Chained {α : Type} (R : State → α → State → Prop) : State → List α → State → Prop
  | s, [], t => t = s
  | s, a :: l, t => ∃ u, R s a u ∧ Chained R u l t

/-- Firmware writes one record and changes nothing else (R368, R369). -/
def Logged (s t : State) (r : LogRec) : Prop :=
  Only s t { helm := true } ∧ t.helm = { s.helm with log := s.helm.log.soft s.cycle s.mono { r with origin := .firmware } }

/-- A run's active record ends with a code: its fix record is the newest of the chain, its completion the newest of its host site, lanes
that faulted in it are written again from the program's routing section, and the next run comes to the head (R148, R230, R231, R258,
R282). -/
structure RunDone (s t : State) (p : Nat) (a : Active) (code : Code) (start : Nat) : Prop where
  only   : Only s t { bridges := [a.run.site], parts := [p], helm := true,
                      sites := ((s.program p a.run.progSlot).map (fun g => g.routing.map (fun v => (v.x, v.y)))).getD [] }
  helm   : t.helm = { s.helm with counters := t.helm.counters }
  part   : let q := s.part p
    let g := s.program p a.run.progSlot
    ∃ f : FixRec, t.part p = { q with
      active := none, inputs := none, headAt := headOf { q with active := none } q.queue s.cycle,
      records := (f :: q.records).take 16384, chainSeq := q.chainSeq + 1, counters := (t.part p).counters, nextStart := start } ∧
    f.runId = a.run.id ∧ f.tag = a.run.tag ∧ f.session = a.run.session ∧ f.part = p ∧ f.status = code ∧ f.aflags = a.aflags ∧
    f.seq = q.chainSeq ∧ f.prev = (match q.records with
      | r :: _ => sha512 r.bytes
      | [] => sha512 q.chainId) ∧
    f.time = s.mono ∧ f.input = a.inDigest ∧ f.output = (if code = codeOk then a.outDigest.getD [] else []) ∧
    f.program = ((g.map (·.measurement)).getD []).take 48
  bridge : let q := s.part p
    let g := s.program p a.run.progSlot
    let r := a.run
    let pair := if code = pairMismatch then 2 else if g.any (fun g => decide (g.mode = 2)) && decide (code = codeOk) then 1 else 0
    t.bridge r.site = { s.bridge r.site with
      comps := (s.bridge r.site).comps ++ [{
        opcode := 0x08, version := r.version, kind := 1, tag := r.tag, status := code, orig := 0, slot := r.slot, noIntr := r.noIntr,
        body := leBytes 8 r.id ++ leBytes 8 q.chainSeq ++ leBytes 2 a.aflags.toNat ++ leBytes 1 (sightResult g code) ++ leBytes 1 pair ++
          leBytes 4 a.bytes ++ leBytes 8 s.mono ++ leBytes 8 s.ticks }] }
  cells  : ∀ x y, t.cell x y = s.cell x y
  lanes  : ∀ x y, { t.router x y with
    laneMap := (s.router x y).laneMap, joins := (s.router x y).joins, laneFault := (s.router x y).laneFault } = s.router x y
  relaid : ∀ g, s.program p a.run.progSlot = some g → ∀ v ∈ g.routing, ∀ e ∈ v.lanes, lmValid e.2 = true →
    bitB (t.router v.x v.y).laneFault (lmOut e.2) = false
  sound  : ∀ x y, (s.router x y).laneFault = 0 → t.router x y = s.router x y

/-- What a drain saves of a program's cells in some fields: configuration and the retained regions (R245). -/
def savesOf (s : State) (g : Program) (fs : List Nat) : List CellSave :=
  (g.sites.filter (fun v => fs.contains (fieldOf v.x v.y) && s.reachable v.x v.y)).map (fun v =>
    { x := v.x, y := v.y, cell := s.cell v.x v.y, stored := retainedOf g v.x v.y (s.cell v.x v.y).data })

/-- Cell `c` becomes `d`, configured by its site entry of the image (R179, R381, R386); its queues' credits apart, nothing else of it
changes. -/
structure Configured (g : Program) (v : SiteCfg) (c d : Cell) : Prop where
  slots  : d.slots = (List.range v.slots.length).zip v.slots
  descs  : d.descs = (List.range v.descs.length).zip v.descs
  qcfg   : ∀ q, q < 8 → tgetD d.qcfg q 0 = lgetD v.qcfg q 0 &&& 0xF0000000#32
  qext   : ∀ q, q < 8 → tgetD d.qext q 0 = lgetD v.qext q 0 &&& 0x03FF007F#32
  enable : d.slotEn = v.slotEn ∧ d.slotEnShadow = v.slotEn
  wdog   : d.wdogLimit = v.wdog
  pred   : d.pred = BitVec.ofNat 8 (fld v.pred 7 0)
  gcell  : clsOf v.x v.y = .g → ∀ b, v.engine = some b → d.gc.cfg = word (leAt b 4 4) &&& 0x001F3F01#32 ∧
    d.gc.spillBase = join32 (word (leAt b 0x14 4)) (word (leAt b 0x10 4)) ∧ d.gc.spillCap = word (leAt b 0x18 4) &&& 0xFFFF#32
  pcell  : clsOf v.x v.y = .p → d.pc.scope = scopeOf g (fieldOf v.x v.y) ∧
    ∀ b n, v.engine = some b → n < 8 → tgetD d.pc.strm n 0 = word (leAt b (0x10 + 4 * n) 4)
  ccell  : clsOf v.x v.y = .c → (∀ e ∈ g.sights, e.x = v.x → e.y = v.y →
    g.sights.filter (fun o => decide (o.x = e.x ∧ o.y = e.y ∧ o.k = e.k)) = [e] →
    tgetD d.sg.entry e.k 0 = e.entry &&& 0xC0003FFF#32 ∧ tgetD d.sg.window e.k 0 = e.window &&& 0xFFFF#32)
  rest   : { d with
    slots := c.slots, descs := c.descs, qcfg := c.qcfg, qext := c.qext, slotEn := c.slotEn, slotEnShadow := c.slotEnShadow,
    wdogLimit := c.wdogLimit, pred := c.pred, queues := c.queues, pc := { d.pc with strm := c.pc.strm, scope := c.pc.scope },
    gc := { d.gc with cfg := c.gc.cfg, spillBase := c.gc.spillBase, spillCap := c.gc.spillCap },
    sg := { d.sg with entry := c.sg.entry, window := c.sg.window } } = c

/-- Cell `c` becomes `d`, written back from its save (R245). -/
structure Restored (g : Program) (w : CellSave) (c d : Cell) : Prop where
  config : d.slots = w.cell.slots ∧ d.descs = w.cell.descs ∧ d.qcfg = w.cell.qcfg ∧ d.qext = w.cell.qext ∧ d.slotEn = w.cell.slotEn ∧
    d.slotEnShadow = w.cell.slotEnShadow ∧ d.wdogLimit = w.cell.wdogLimit
  engine : d.pc.strm = w.cell.pc.strm ∧ d.gc.cfg = w.cell.gc.cfg ∧ d.gc.histBase = w.cell.gc.histBase ∧
    d.gc.spillBase = w.cell.gc.spillBase ∧ d.gc.spillCap = w.cell.gc.spillCap ∧ d.sg.entry = w.cell.sg.entry ∧
    d.sg.window = w.cell.sg.window
  scope  : scopeOf g (fieldOf w.x w.y) = [] → d.pc.scope = w.cell.pc.scope
  stored : d.data = c.data.write w.stored
  rest   : { d with
    slots := c.slots, descs := c.descs, qcfg := c.qcfg, qext := c.qext, slotEn := c.slotEn, slotEnShadow := c.slotEnShadow,
    wdogLimit := c.wdogLimit, queues := c.queues, data := c.data, pc := { d.pc with strm := c.pc.strm, scope := c.pc.scope },
    gc := { d.gc with cfg := c.gc.cfg, histBase := c.gc.histBase, spillBase := c.gc.spillBase, spillCap := c.gc.spillCap },
    sg := { d.sg with entry := c.sg.entry, window := c.sg.window } } = c

/-- A program goes into the cells and routers of fields `fs`, from a save or from its image; its streams in fields `ls` are linked up
(R33, R179, R245, R381, R382). -/
structure LoadedAt (s t : State) (g : Program) (saved : Option (List CellSave)) (fs ls : List Nat) : Prop where
  rest    : { t with cells := s.cells, routers := s.routers } = s
  image   : saved = none → ∀ v ∈ g.sites, fieldOf v.x v.y ∈ fs → s.reachable v.x v.y = true →
    g.sites.filter (fun u => decide (u.x = v.x ∧ u.y = v.y)) = [v] → Configured g v (s.cell v.x v.y) (t.cell v.x v.y)
  save    : ∀ l, saved = some l → ∀ w ∈ l, fieldOf w.x w.y ∈ fs → s.reachable w.x w.y = true →
    l.filter (fun u => decide (u.x = w.x ∧ u.y = w.y)) = [w] → Restored g w (s.cell w.x w.y) (t.cell w.x w.y)
  bare    : ∀ x y, siteOk x y = true → (∀ v ∈ g.sites, (v.x, v.y) ≠ (x, y)) → (∀ l, saved = some l → ∀ w ∈ l, (w.x, w.y) ≠ (x, y)) →
    { t.cell x y with pc := { (t.cell x y).pc with scope := (s.cell x y).pc.scope } } = s.cell x y
  away    : ∀ x y, siteOk x y = true → fieldOf x y ∉ fs →
    { t.cell x y with queues := (s.cell x y).queues } = s.cell x y ∧ t.router x y = s.router x y
  scopes  : ∀ f ∈ fs, scopeOf g f ≠ [] → ∀ ch, ch < 64 → s.bodyOut (pSite f ch).1 (pSite f ch).2 = false →
    (t.cell (pSite f ch).1 (pSite f ch).2).pc.scope = scopeOf g f
  queues  : ∀ x y q, siteOk x y = true → { (t.cell x y).queue q with credits := 0 } = { (s.cell x y).queue q with credits := 0 }
  links   : ∀ v ∈ g.sites, fieldOf v.x v.y ∈ ls → s.reachable v.x v.y = true → ∀ q, q < 8 →
    qDir (t.cell v.x v.y) q = 2 → ∀ u w k o, streamEnd t v.x v.y q = some (u, w, k, o) →
      ((t.cell v.x v.y).queue q).credits = qCap (t.cell u w) k
  routed  : ∀ v ∈ g.routing, fieldOf v.x v.y ∈ fs →
    g.routing.filter (fun u => decide (u.x = v.x ∧ u.y = v.y)) = [v] →
    t.router v.x v.y = { s.router v.x v.y with
      laneMap := v.lanes.foldl (fun m e => tset m e.1 (e.2 &&& 0xFE000000#32)) (s.router v.x v.y).laneMap,
      wheel := tsetAll (s.router v.x v.y).wheel (List.range v.wheel.length) (fun k => (lgetD v.wheel k 0 &&& 0xFFFF#32) ||| 1#32) }
  unrouted : ∀ x y, siteOk x y = true → (∀ v ∈ g.routing, (v.x, v.y) ≠ (x, y)) → t.router x y = s.router x y

/-- As `LoadedAt`, for a program whose places are sites, as PROGRAM_LOAD has checked. -/
def Loaded (s t : State) (g : Program) (saved : Option (List CellSave)) (fs ls : List Nat) : Prop :=
  (∀ v ∈ g.sites, siteOk v.x v.y = true) → (∀ v ∈ g.routing, siteOk v.x v.y = true) →
    (∀ l, saved = some l → ∀ w ∈ l, siteOk w.x w.y = true) → LoadedAt s t g saved fs ls

/-- A fence entry is taken in service (R13, R15, R19, R22, R146, R150, R166, R237, R373). An entry that the map has already changes
nothing. -/
structure FenceTaken (s : State) (d : Nat × Nat × Bool) (t : State) : Prop where
  known   : addDefect s.helm.defects d = s.helm.defects → t = s
  map     : t.helm.defects = addDefect s.helm.defects d
  helm    : t.helm = { s.helm with defects := t.helm.defects, log := t.helm.log, counters := t.helm.counters }
  log     : addDefect s.helm.defects d ≠ s.helm.defects →
    let full := decide (960 ≤ s.helm.log.fences.length)
    let recs := (if full then [{ recOf 0x11 .firmware with site := siteWord d.1 d.2.1 0 }] else []) ++ [fenceRec d full] ++
      (if t.isBelow (clsOf d.1 d.2.1) then
        [{ recOf 0x12 .firmware with index := (clsOf d.1 d.2.1).code, detail := leBytes 4 (t.usable (clsOf d.1 d.2.1)) }] else []) ++
      (if t.unserved (fieldOf d.1 d.2.1) && ! (s.field (fieldOf d.1 d.2.1)).withdrawn then
        [{ recOf 0x36 .firmware with flags := 1, field := fieldOf d.1 d.2.1 }] else [])
    t.helm.log = recs.foldl (fun (l : Logbook) r => l.soft s.cycle s.mono { r with origin := .firmware })
      { s.helm.log with fences := s.helm.log.fences ++ (if full then [] else [fenceEntry d]) }
  same    : t.pending = s.pending ∧ t.cycle = s.cycle ∧ t.mono = s.mono ∧ t.slowAt = s.slowAt ∧ t.fresh = s.fresh ∧ t.sessions = s.sessions ∧
    ∀ x y, t.cell x y = s.cell x y
  parts   : ∀ k, { t.part k with counters := (s.part k).counters } = s.part k
  body    : addDefect s.helm.defects d ≠ s.helm.defects → d.2.2 = false →
    bitB (t.router d.1 d.2.1).fence 0 = true ∧ bitB (t.router d.1 d.2.1).fence 2 = t.pairServes d.1 d.2.1
  around  : addDefect s.helm.defects d ≠ s.helm.defects → d.2.2 = true → ∀ p u v, p < 4 → beyond d.1 d.2.1 p = some (u, v) →
    bitB (t.router u v).fence (4 + opposite p) = true ∧
    (dtPlace (s.router u v).dtSite d.1 d.2.1 ≠ none →
      ∃ k, tgetD (t.router u v).dtSite k 0 = dtWord (if t.pairServes d.1 d.2.1 then 3 else 1) d.1 d.2.1)
  lane    : ∀ k n, d.2.2 = true → addDefect s.helm.defects d ≠ s.helm.defects → laneNo d.1 d.2.1 = some (k, n) → (t.lane k n).out = true
  tower   : addDefect s.helm.defects d ≠ s.helm.defects → t.unserved (fieldOf d.1 d.2.1) = true →
    (t.field (fieldOf d.1 d.2.1)).withdrawn = true
  fields  : ∀ f, { t.field f with
    withdrawn := (s.field f).withdrawn, frsOut := (s.field f).frsOut, frsSync := (s.field f).frsSync } = s.field f

/-- A run's cells are patched (R105, R249, R258 step 3) once, and the bridge's blocks turned on for it (R289): `t0` is the state after it. -/
structure HeadPatched (s t0 : State) (p : Nat) (g : Program) (r : Run) : Prop where
  once   : (s.part p).patched = some r.id → t0 = s
  part   : (s.part p).patched ≠ some r.id →
    t0.part p = { s.part p with comb := some r.comb, lastSession := some r.session, patched := some r.id }
  bridge : (s.part p).patched ≠ some r.id → t0.bridge p = { s.bridge p with
    clkEn := setBit (setBit (setBit (s.bridge p).clkEn 4 true) 5 true) 6 true, outWritten := [], outStore := [], lineStoreA := [],
    lineStoreB := [] }
  masks  : (s.part p).patched ≠ some r.id → (s.part p).comb = some r.comb → (s.part p).lastSession = some r.session →
    Only s t0 { sites := g.masks.map (fun e => (e.x, e.y)), bridges := [p], parts := [p] } ∧
    ∀ x y, siteOk x y = true → t0.router x y = s.router x y ∧
      t0.cell x y = (g.masks.filter (fun e => decide (siteIx e.x e.y = siteIx x y))).foldl
        (fun c e => c.maskPatch e (lgetD r.sizes e.dim 0)) (s.cell x y)

end Sys2Proof.Claims

/-- PROGRAM_SWITCH, RUN_START, RUN_END and GUARD_EXPIRY (R148, R224, R227, R230, R231, R245, R246, R258, R259, R282, R289): a switch drains
the program in the cells and writes in that of the run at the head; a start patches the cells, sends START and makes the run active; a
run that is over is sent STOP and completes once its cells are idle or 20 µs have passed; one whose guard expires is stopped with what
was found. How a save area's bytes are laid out is free (log 36); reading the end of a run is in part read from the spec (log 37). -/
def Obligations.RunsSwitchStartAndEnd : Prop :=
  ∀ (s : State) (p : Nat), p < 4 →
    let q := s.part p
    let fs := rectFields q.rect
    (s.headRun p = none → exec (.programSwitch p) s = .next s ∧ exec (.runStart p) s = .next s ∧
      (q.active = none → exec (.guardExpiry p) s = .next s)) ∧
    (q.active = none → exec (.runEnd p) s = .next s) ∧
    (∀ hd r g, s.headRun p = some (hd, r, g) →
      let ready := s.allUp p g = true ∧ q.resetAt = none ∧ s.helm.fw.running = true ∧ s.helmLandings ≠ []
      let switches := q.activeSlot ≠ some r.progSlot ∧ ready ∧ s.treeFree (8 + p) = true
      let starts := q.activeSlot = some r.progSlot ∧ ready ∧ q.nextStart ≤ s.cycle ∧
        (r.nin = 0 ∨ q.inputs.any (fun i => decide (i.runId = r.id)) = true)
      let guard := guardOf hd.at_ (s.bound p g r (q.headChain hd) hd.at_)
      (¬ switches → exec (.programSwitch p) s = .next s) ∧
      (switches → ∀ res, tget q.programs r.progSlot = some res → ∃ a b d e t, exec (.programSwitch p) s = .next t ∧
        Cleared s a ((s.openIn p).flatMap (fun v => homeOf s v.2.chunk)) ∧
        (match q.activeSlot.bind (fun j => (tget q.programs j).map (fun o => (j, o))) with
          | none => b = a
          | some (j, o) => Only a b { fields := fs, parts := [p] } ∧
            b.part p = { q with programs := tset q.programs j { o with saved := some (savesOf a o.prog fs), comb := q.comb } } ∧
            ∀ f, { b.field f with tower := (a.field f).tower } = a.field f ∧
              ∀ i, i < o.save ∨ o.save + o.prog.saveSize ≤ i → (b.field f).tower.byte i = (a.field f).tower.byte i) ∧
        Unloaded b d fs ∧ Loaded d e g res.saved fs fs ∧
        Only e t { sites := fs.flatMap fieldSites, parts := [p] } ∧
        t.part p = { b.part p with activeSlot := some r.progSlot, comb := res.comb, lastSession := none } ∧
        (∀ x y, siteOk x y = true → t.cell x y = e.cell x y ∧
          (fieldOf x y ∈ fs → let w := tgetD (e.router x y).mcTree (8 + p) 0
            { t.router x y with mcTree := (e.router x y).mcTree } = e.router x y ∧
            (∀ j, j ≠ 8 + p → tgetD (t.router x y).mcTree j 0 = tgetD (e.router x y).mcTree j 0) ∧
            tgetD (t.router x y).mcTree (8 + p) 0 =
              (if mtValid w then setBit w 30 (g.sites.any (fun v => siteIx v.x v.y = siteIx x y)) else w)))) ∧
      (¬ starts → exec (.runStart p) s = .next s) ∧
      (starts → ∃ t0 u t, exec (.runStart p) s = .next t ∧ HeadPatched s t0 p g r ∧
        TreeSent t0 u (8 + p) (ctrlPkt t0.myMod 1) ∧ Only u t { parts := [p] } ∧
        t.part p = { t0.part p with
          queue := q.queue.drop 1, headAt := none,
          active := some {
            run := { r with projEnd := s.ticksUp (hd.at_ * unitsPerCycle + 10001 * s.bound p g r (q.headChain hd) hd.at_) },
            startedAt := hd.at_, guardAt := guard, stopAt := none, stopCode := none, startedCells := g.sites.map (fun v => (v.x, v.y)),
            retired := [], lastRetired := s.cycle, faultCode := 0, discard := false, aflags := 0, bytes := 0, outDigest := none,
            degraded := if (s.runLanes g).any (fun v => decide ((s.lane v.1 v.2).state ≠ .up)) then codeLinkDown else 0,
            inDigest := (match q.inputs with
              | some i => if i.runId = r.id then i.digest else noDigest
              | none => noDigest),
            sightBase := (s.sightSums (some g)).1, skipBase := (s.sightSums (some g)).2, pairA := 0, pairB := 0,
            deadReck := s.helm.clocks.drSet } }) ∧
      (s.cycle < guard → exec (.guardExpiry p) s = .next s) ∧
      (guard ≤ s.cycle → ∃ u t, exec (.guardExpiry p) s = .next t ∧
        Logged s u { recOf 0x44 .firmware with index := p, detail := leBytes 8 r.id } ∧
        Dropped u t p (fun e => decide (e.id = r.id)) runCancelled)) ∧
    (∀ a, q.active = some a →
      let g := s.program p a.run.progSlot
      let waits := exec (.runEnd p) s = .next s
      let isDone := s.helm.fw.running = true ∧ (∀ c ∈ a.startedCells, c ∈ a.retired) ∧ a.lastRetired + 1024 ≤ s.cycle ∧
        a.outDigest ≠ none ∧ (s.bridge p).egress = []
      let code := a.guardCode
      exec (.programSwitch p) s = .next s ∧ exec (.runStart p) s = .next s ∧
      (a.stopAt = none → ¬ isDone → waits) ∧
      (a.stopAt = none → isDone → ∃ u t, exec (.runEnd p) s = .next t ∧ TreeSent s u (8 + p) (ctrlPkt s.myMod 2) ∧
        Only u t { parts := [p] } ∧ t.part p = { q with active := some { a with stopAt := some s.cycle } }) ∧
      (∀ t0, a.stopAt = some t0 →
        let settled := ((∀ c ∈ a.startedCells, (s.cell c.1 c.2).state ≠ .active) ∧ s.reportsOnWay = false) ∨ t0 + 20 * usec ≤ s.cycle
        (¬ settled → waits) ∧
        (settled → ∀ k, a.stopCode = some k → ∃ t, exec (.runEnd p) s = .next t ∧ RunDone s t p a k q.nextStart) ∧
        (settled → a.stopCode = none → ∀ v, g = some v →
          ∃ u t, exec (.runEnd p) s = .next t ∧ Only s u { parts := [p], helm := true } ∧
            u.helm = { s.helm with counters := u.helm.counters } ∧ u.part p = { q with counters := (u.part p).counters } ∧
            RunDone u t p a (if v.mode = 2 ∧ a.pairA ≠ a.pairB then pairMismatch else codeOk)
              (max q.nextStart (s.cycle + 100 * usec)))) ∧
      (s.cycle < a.guardAt ∨ a.stopAt ≠ none → exec (.guardExpiry p) s = .next s) ∧
      (a.guardAt ≤ s.cycle → a.stopAt = none → ∃ u t, exec (.guardExpiry p) s = .next t ∧ Stopped u t p code ∧
        (code ≠ runCancelled → u = s) ∧
        (code = runCancelled → Logged s u { recOf 0x44 .firmware with index := p, detail := leBytes 8 a.run.id })))

/-- DRAIN_FAIL and SOUNDING (R13, R14, R235-R237, R238, R245, R246): a cell that cannot be drained is fenced and the runs that need the
switch complete with TRANSFER_TIMEOUT; a sounding drains its fields and writes them back, fences what is found failing, lets go the
programs that name it and reports it in the command's buffer. Which cells fail is the operand (read from the spec, log 38). -/
def Sys2Proof.Claims.FailingSitesAreFenced : Prop :=
  ∀ (s : State) (p : Nat), p < 4 →
    let q := s.part p
    (∀ x y, siteOk x y = true →
      let named := fun (j : Nat) => ∃ g, s.program p j = some g ∧ ∃ v ∈ g.sites, v.x = x ∧ v.y = y
      (∀ hd r h j, s.headRun p = some (hd, r, h) → q.activeSlot = some j → j ≠ r.progSlot → named j →
        ∃ u v t, exec (.drainFail p x y) s = .next t ∧ FenceTaken s (x, y, true) u ∧
          Logged u v { recOf 0x45 .firmware with site := siteWord x y 0 } ∧
          Dropped v t p (fun e => decide (some e.progSlot ≠ q.activeSlot)) codeTransferTimeout) ∧
      ((∀ hd r h j, s.headRun p = some (hd, r, h) → q.activeSlot = some j → j = r.progSlot ∨ ¬ named j) →
        exec (.drainFail p x y) s = .next s)) ∧
    (∀ failing : List (Nat × Nat × Bool), (∀ d ∈ failing, siteOk d.1 d.2.1 = true) →
      let fs := q.sounding
      let cmd := (s.bridge p).executing.find? (fun c => decide (c.opcode = 0x0A) && c.accepted)
      let ready := fs ≠ [] ∧ ∀ f ∈ fs, s.fieldInUse f = false ∧ (s.field f).power = .underway
      (cmd = none ∨ ¬ ready → exec (.sounding p failing) s = .next s) ∧
      (∀ c, cmd = some c → ready →
        let fresh := failing.filter (fun d => fs.contains (fieldOf d.1 d.2.1) &&
          ! s.helm.defects.any (fun e => decide (e.1 = d.1) && decide (e.2.1 = d.2.1) && (e.2.2 || ! d.2.2)))
        let data := fresh.flatMap (fun d => leBytes 4 (d.1 + d.2.1 * 2 ^ 16 + b2n d.2.2 * 2 ^ 31))
        ∃ a b d e f t, exec (.sounding p failing) s = .next t ∧
          Unloaded s a fs ∧
          (match q.activeSlot.bind (s.program p) with
            | none => b = a
            | some g => Loaded a b g (some (savesOf s g fs)) fs (rectFields q.rect)) ∧
          Chained FenceTaken b fresh d ∧
          Chained (fun s (k : Nat × Resident) t => Removed s t p k.1) d
            ((d.part p).programs.filter (fun k => fresh.any (fun v =>
              k.2.prog.sites.any (fun u => decide (u.x = v.1 ∧ u.y = v.2.1)) ||
              k.2.prog.routing.any (fun u => decide (u.x = v.1 ∧ u.y = v.2.1) && u.lanes.any (fun e => lmValid e.2))))) e ∧
          Only e f { parts := [p], helm := true } ∧ f.helm = { e.helm with counters := f.helm.counters } ∧
          f.part p = { e.part p with sounding := [], counters := (f.part p).counters } ∧ Only f t { bridges := [p] } ∧
          (let o := f.bridge p
           let code := bufCheck o (leAt c.body 24 8) (leAt c.body 32 4) data.length
           (code = codeOk → Finished
             { o with posted := o.posted ++ (if data = [] then [] else [{ addr := leAt c.body 24 8, data := data }]) }
             (t.bridge p) s.cycle c codeOk (leBytes 4 data.length)) ∧
           (code ≠ codeOk → Finished o (t.bridge p) s.cycle c code []))))

namespace Sys2Proof.Claims
open Sys2Proof.Machine

/-- Counter `id` of R238 grows by `n`, in the module and in partition `p`. -/
structure Counted (s t : State) (log : Logbook) (c : Option (Nat × Nat)) (p : Option Nat) (reports : List (Nat × Packet)) : Prop where
  only  : Only s t { parts := [0, 1, 2, 3], helm := true }
  helm  : t.helm = { s.helm with
    reports := reports, log := log,
    counters := (match c with
      | some (id, n) => tset s.helm.counters id (sat64 (tgetD s.helm.counters id 0) n)
      | none => s.helm.counters) }
  parts : ∀ k, t.part k = { s.part k with
    counters := (match c with
      | some (id, n) => if p = some k then tset (s.part k).counters id (sat64 (tgetD (s.part k).counters id 0) n) else (s.part k).counters
      | none => (s.part k).counters) }

/-- What a report does to the active run of partition `p` (R226, R227, R416). -/
def ReportTold (r : Report) (same : List Report) (s : State) (p : Nat) (t : State) : Prop :=
  let q := s.part p
  match q.active with
  | none => t = s
  | some a =>
    let mine := if r.kind = 3 then s.runUses p (s.program p a.run.progSlot) (fieldOf r.x r.y) = true
      else inRect q.rect (fieldOf r.x r.y) = true ∧ (r.kind = 4 → r.modul = s.myMod)
    let started := (r.x, r.y) ∈ a.startedCells
    let becomes := fun (b : Active) => Only s t { parts := [p] } ∧ t.part p = { q with active := some b }
    (¬ mine → t = s) ∧
    (mine → r.kind = 3 → r.code = 0 → becomes { a with discard := true }) ∧
    (mine → r.kind = 1 ∨ r.kind = 4 ∨ (r.kind = 3 ∧ r.code ≠ 0) → Stopped s t p (s.lowestCode p r same)) ∧
    (mine → r.kind = 2 → becomes (if started then { a with aflags := a.aflags ||| BitVec.ofNat 5 r.aflags } else a)) ∧
    (mine → r.kind = 5 → becomes (if started ∧ (r.x, r.y) ∉ a.retired then
      { a with retired := (r.x, r.y) :: a.retired, lastRetired := s.cycle } else a)) ∧
    (r.kind = 0 ∨ 5 < r.kind → t = s)

end Sys2Proof.Claims

/-- HELM_REPORT, FIX_SEAL and PARTITION_RESET_FINISH (R154, R155, R226, R227, R231, R233, R238, R258, R263, R416): the oldest report is
recorded, counted and told to the runs it concerns: a retired cell, flags, a discarded response, or a stop with the lowest code of its
cycle; the head of an advanced chain is sealed each millisecond or 1,024 records; a reset ends 100 µs after PRESET and the last advance
of the epoch. Which codes are counted where is in part read from the spec (log 37), the tie in one cycle too (log 35). -/
def Sys2Proof.Claims.ReportsSealsAndResetsFinish : Prop :=
  ∀ (s : State),
    (s.helm.reports = [] ∨ s.helm.fw.running = false → exec .helmReport s = .next s) ∧
    (∀ t0 pkt rest, s.helm.reports = (t0, pkt) :: rest → s.helm.fw.running = true →
      let r := reportOf (lgetD pkt.payload 0 0)
      let same := (rest.filter (fun v => decide (v.1 = t0))).map (fun v => reportOf (lgetD v.2.payload 0 0))
      let rec_ := if r.kind = 3 then { recOf 0x21 .firmware with code := r.code, site := siteWord r.x r.y pkt.srcPort, index := r.index }
        else if r.drop then { recOf 0x23 .firmware with code := r.code, site := siteWord r.x r.y pkt.srcPort, addr := r.addr }
        else { recOf 0x20 .firmware with
          code := r.code, site := siteWord r.x r.y pkt.srcPort, index := r.index, addr := r.addr,
          detail := leBytes 4 r.detail ++ leBytes 1 r.aflags }
      let c := if r.kind = 2 then (if r.detail = 0 then none else some (1, r.detail))
        else if r.code = memUncorrectable then some (3, 1) else if r.code = sightMismatch then some (9, 1)
        else if r.code = functionMismatch then some (0xA, 1) else if r.code = reduceMismatch then some (0xB, 1) else none
      ∃ u t, exec .helmReport s = .next t ∧
        Counted s u (s.helm.log.soft s.cycle s.mono { rec_ with origin := .firmware }) c (s.partOfField (fieldOf r.x r.y)) rest ∧
        Chained (ReportTold r same) u [0, 1, 2, 3] t) ∧
    (∀ p, p < 4 →
      let q := s.part p
      let due := s.helm.fw.running = true ∧ (q.sealAt + msec ≤ s.cycle ∨ q.sealSeq + 1024 ≤ q.chainSeq)
      (¬ due ∨ q.records = [] ∨ q.chainOn = false ∨ q.chainSeq ≤ q.sealSeq → exec (.fixSeal p) s = .next s) ∧
      (∀ r rest, q.records = r :: rest → q.chainOn = true → q.sealSeq < q.chainSeq → due → ∃ t, exec (.fixSeal p) s = .next t ∧
        Only s t { parts := [p], helm := true, fresh := true } ∧ t.fresh = s.fresh + 1 ∧
        t.helm = { s.helm with counters := tset s.helm.counters 0x11 (sat64 (tgetD s.helm.counters 0x11 0) 1) } ∧
        t.part p = { q with
          counters := tset q.counters 0x11 (sat64 (tgetD q.counters 0x11 0) 1), sealAt := s.cycle, sealSeq := q.chainSeq,
          seals := ({ part := p, seq := r.seq, time := s.mono, wall := s.helm.log.wall, chainId := q.chainId, head := sha512 r.bytes,
                      keyDraw := s.helm.fw.keyDraw, draw := s.fresh } :: q.seals).take 64 })) ∧
    (∀ p, p < 4 →
      let q := s.part p
      let fs := rectFields q.rect
      let early := ∀ t0, q.resetAt = some t0 → s.cycle < t0 + 100 * usec ∨ ∃ e, q.epochAt = some e ∧ s.cycle < e + 100 * usec
      (q.resetAt = none ∨ early → exec (.partitionResetFinish p) s = .next s) ∧
      (q.resetAt ≠ none → ¬ early → ∃ u v t, exec (.partitionResetFinish p) s = .next t ∧ EpochAdvanced s u fs ∧
        Only u v { sites := fs.flatMap fieldSites, fields := fs, parts := [p] } ∧
        v.part p = { q with
          resetAt := none, resetTag := none, epochAt := some s.cycle, nextStart := max q.nextStart (s.cycle + 100 * usec) } ∧
        (∀ f ∈ fs, v.field f = { s.field f with preset := false }) ∧
        (∀ x y, siteOk x y = true → fieldOf x y ∈ fs → v.cell x y = u.cell x y ∧ bitB (v.fenceWord x y) 1 = false ∧
          v.router x y = { u.router x y with fence := setBit (u.router x y).fence 1 false }) ∧
        (∀ tag c, q.resetTag = some tag → s.cmdOf p 0x12 tag = some c → Only v t { bridges := [p] } ∧
          Finished (v.bridge p) (t.bridge p) s.cycle c codeOk []) ∧
        ((∀ tag, q.resetTag = some tag → s.cmdOf p 0x12 tag = none) → t = v)))

/-! ### Peer lanes -/

namespace Sys2Proof.Claims
open Sys2Proof.Machine

/-- Counter `j` of a port has counted one more (R311): LINK_DOWNs, replays and duplicates in 32 bits, codewords in 64. -/
def portUp (h : Helm) (k j : Nat) : Helm :=
  { h with portCnt := tset h.portCnt (8 * k + j) (min (tgetD h.portCnt (8 * k + j) 0 + 1) (if j ≤ 2 then 2 ^ 32 - 1 else 2 ^ 64 - 1)) }

/-- The lane after a frame that holds a STATE flit, or does not (R296). -/
def toldLane (l : Lane) (told : Bool) : Lane :=
  if told then { l with sinceState := 0, sentAck := (l.expectSeq + 4095) % 4096, sentFreed := l.freed, nakSeq := none }
  else { l with sinceState := l.sinceState + 1 }

/-- One lane changes, and nothing else. -/
def LaneBecomes (s t : State) (k n : Nat) (l : Lane) : Prop := Only s t { lanes := [96 * k + n] } ∧ t.lane k n = l

/-- Requests that a link die has recorded are answered LINK_DOWN at its G-site (R302). -/
def LaneAnswered (s t : State) (k n : Nat) (l : Lane) (reqs : List LaneReq) : Prop :=
  let v := siteOfLane k n
  Only s t { sites := [v], lanes := [96 * k + n] } ∧ t.lane k n = { l with reqs := [] } ∧ t.cell v.1 v.2 = s.cell v.1 v.2 ∧
  t.router v.1 v.2 = { s.router v.1 v.2 with inject := (s.router v.1 v.2).inject ++ reqs.map (linkDownAnswer s.myMod v.1 v.2) }

/-- Active runs whose requests take the lane are stopped with LINK_DOWN (R260). -/
def LaneRunsFail (s t : State) (k n : Nat) : Prop :=
  Chained (fun s p t =>
    if (s.part p).active.any (fun a => (s.program p a.run.progSlot).any (fun g => (s.runLanes g).contains (k, n))) then
      Stopped s t p codeLinkDown else t = s) s [0, 1, 2, 3] t

/-- A lane is out until module reset, with its record (R303). -/
def LaneOut (s t : State) (k n : Nat) : Prop :=
  let l := s.lane k n
  Only s t { lanes := [96 * k + n], helm := true } ∧
  t.lane k n = { l.quiet (if l.state = .miswired ∨ l.state = .version then l.state else .training) with out := true, downAt := none } ∧
  t.helm = { s.helm with
    log := s.helm.log.soft s.cycle s.mono { recOf 0x32 .firmware with flags := 1, index := 256 * k + n, origin := .firmware } }

/-- A lane in service raises LINK_DOWN (R300, R302, R303, R311): it holds nothing from here on, its requests are answered, the runs that
use it complete, and the third time within 60 s puts it out; attempts in dead reckoning do not count (R319). -/
def Downed (s t : State) (k n : Nat) : Prop :=
  let l := s.lane k n
  let dead := s.helm.clocks.drSet
  let times := (s.cycle :: l.downTimes).filter (fun t => decide (s.cycle < t + 60000 * msec))
  (l.state ≠ .up → l.state ≠ .keepAlive → t = s) ∧
  (l.state = .up ∨ l.state = .keepAlive → ∃ u v w,
    LaneAnswered s u k n { l.quiet .training with downAt := some s.cycle, downTimes := if dead then l.downTimes else times } l.reqs ∧
    Only u v { helm := true } ∧
    v.helm = portUp { s.helm with
      log := s.helm.log.hard s.mono { recOf 0x31 .logger with flags := 1, index := 256 * k + n, origin := .logger } } k 1 ∧
    LaneRunsFail v w k n ∧
    (dead = false ∧ 3 ≤ times.length → LaneOut w t k n) ∧ (¬ (dead = false ∧ 3 ≤ times.length) → t = w))

/-- A replay from a held frame (R299, R300): it resends from there on; a ninth within 4 µs raises LINK_DOWN instead. -/
def Replayed (s t : State) (k n q : Nat) : Prop :=
  let l := s.lane k n
  let held := ∃ f ∈ l.replayBuf, f.seq = q
  let ts := l.replayTimes.take 8
  let ninth := ts.length = 8 ∧ s.cycle < ts.getLastD 0 + 4 * usec
  (¬ (l.state = .up ∧ held) → t = s) ∧
  (l.state = .up → held → ninth → Downed s t k n) ∧
  (l.state = .up → held → ¬ ninth → Only s t { lanes := [96 * k + n], helm := true } ∧ t.helm = portUp s.helm k 0 ∧
    t.lane k n = { l with
      replayFrom := some q, replayUntil := some q, replaySince := some s.cycle, replayTimes := s.cycle :: ts.take 7 })

/-- A HELLO flit (R304, R305): kept and checked; a lane that it finds wrong goes out of service with its requests answered. One that is no
HELLO, comes to a port without a peer, or to a lane out of service is ignored. -/
def HelloTaken (s t : State) (k n : Nat) (it : Item) : Prop :=
  let l := s.lane k n
  let p := s.helm.pins
  let id := itemLe it 3 1
  let heard := itemLe it 0 1 = 2 ∧ l.out = false ∧ portPeer p.topo s.myMod k ≠ none ∧ l.state ≠ .miswired ∧ l.state ≠ .version
  let wired := id / 4 % 4 = p.topo ∧ portPeer p.topo s.myMod k = some (id % 4) ∧ itemLe it 4 1 = k ∧ itemLe it 5 1 = n ∧
    itemLe it 6 2 = 0x1152
  let common := max (itemLe it 1 1) 1 ≤ min (itemLe it 2 1) 1
  let bad := fun (st : LaneState) => LaneAnswered s t k n { l.quiet st with hello := true } l.reqs
  (¬ heard → t = s) ∧
  (heard → ¬ wired → bad .miswired) ∧
  (heard → wired → ¬ common → bad .version) ∧
  (heard → wired → common → LaneBecomes s t k n { l with
    state := if l.state = .up ∨ l.state = .keepAlive then l.state else .training, ver := min (itemLe it 2 1) 1, peer := id % 4,
    peerStep := itemLe it 8 1, hello := true, peerKA := itemLe it 9 1 % 2 = 1,
    cleanAt := match l.downAt, l.cleanAt with
      | some t0, none => if t0 + msec ≤ s.cycle then some s.cycle else none
      | _, c => c })

/-- The control flit of a frame (R296): acknowledgements, credits, the peer's replay, its NAK; or a HELLO. -/
def CtlTaken (s t : State) (k n : Nat) (ctl : Option Item) : Prop :=
  match ctl with
  | none => t = s
  | some it =>
    let l := s.lane k n
    (itemLe it 0 1 = 1 → ∃ u,
      LaneBecomes s u k n { (l.acked (itemLe it 2 2 % 4096) s.cycle).credited it with peerReplay := itemLe it 1 1 / 2 % 2 = 1 } ∧
      (itemLe it 1 1 % 2 = 1 → Replayed u t k n (itemLe it 4 2 % 4096)) ∧ (itemLe it 1 1 % 2 = 0 → t = u)) ∧
    (itemLe it 0 1 = 2 → HelloTaken s t k n it) ∧
    (itemLe it 0 1 ≠ 1 → itemLe it 0 1 ≠ 2 → t = s)

/-- The data of a frame that reaches a lane in service (R298, R299): the expected frame is taken, one that came before is counted, any
other is asked for again. -/
def DataTaken (s t : State) (k n : Nat) (f : Frame) : Prop :=
  let l := s.lane k n
  let d := seqDist f.seq l.expectSeq
  let r := splitRx (l.rx ++ f.flits).length (l.rx ++ f.flits) []
  let ours := f.data = true ∧ l.state = .up
  (¬ ours → t = s) ∧
  (ours → d = 0 → LaneBecomes s t k n { l with
    expectSeq := (l.expectSeq + 1) % 4096, recvReplay := none, nakSeq := none, rx := r.1, rxPkts := l.rxPkts ++ r.2 }) ∧
  (ours → d ≠ 0 → d < 2048 → Only s t { lanes := [96 * k + n], helm := true } ∧ t.lane k n = l ∧ t.helm = portUp s.helm k 2) ∧
  (ours → 2048 ≤ d → LaneBecomes s t k n
    (if l.recvReplay.isSome then l else { l with recvReplay := some s.cycle, nakSeq := some l.expectSeq, nakAt := s.cycle }))

/-- The lane after the search for codeword lock (R293): declared after 64 codewords in a row with a zero syndrome, lost after 16 in a row
that cannot be corrected. -/
def searched (l : Lane) (c : Codeword) (cycle : Nat) : Lane :=
  let bad := if c.fix = none then l.badRun + 1 else 0
  let clean := if c.fix = some 0 then l.zeroRun + 1 else 0
  if l.synced then
    (if 16 ≤ bad then { l with synced := false, lockLost := some cycle, zeroRun := 0, badRun := 0 } else { l with badRun := bad })
  else (if 64 ≤ clean then { l with synced := true, lockLost := none, zeroRun := 0, badRun := 0 } else { l with zeroRun := clean })

/-- A link die's record of the request that a response answers is cleared, at whichever lane holds it (R302, R307). -/
def RecordCleared (s t : State) (p : Packet) : Prop :=
  (s.recorded p = none → t = s) ∧
  (∀ i, s.recorded p = some i → Only s t { lanes := [i] } ∧ ∀ r rest, takeFirst (answers p) (s.lane (i / 96) (i % 96)).reqs = some (r, rest) →
    t.lane (i / 96) (i % 96) = { s.lane (i / 96) (i % 96) with reqs := rest })

end Sys2Proof.Claims

/-- FRAME_SEND, FRAME_RECEIVE, NAK, NAK_REPEAT and ACK_TIMEOUT (R293, R295, R296, R298-R300, R303, R304, R310, R311): data frames go out in
sequence and are held; a codeword counts only with lock and few corrections; the expected frame is taken, an older one only counted, a
failed one asked for again; a resend starts at the frame named, or at the oldest held once its acknowledgement is late. When HELLO is
sent again, and how a resend makes room for news, is read from the spec (log 45). -/
def Obligations.PeerFramesKeepTheirOrder : Prop :=
  ∀ (s : State) (k n : Nat), k < 6 → n < 96 →
    let l := s.lane k n
    let ack := (l.expectSeq + 4095) % 4096
    let news : Bool := decide (l.sentAck ≠ ack) || decide (l.sentFreed ≠ l.freed)
    let due := l.nakSeq.isSome || (news && decide (3 ≤ l.sinceState))
    let ctl := if due then some l.stateFlit else none
    let sends := fun (m : Lane) => ∃ t, exec (.frameSend k n) s = .next t ∧ LaneBecomes s t k n m
    let helloes := sends { l with lastFrame := some (idleFrame (some (s.helloFlit k n))), sentKA := s.wantsKA k }
    let trains := (l.hello = true → sends { l with lastFrame := some (idleFrame none) }) ∧ (l.hello = false → helloes)
    let silent := exec (.frameSend k n) s = .next s
    (l.stateFlit = itemOf ([1, BitVec.ofNat 8 (b2n l.nakSeq.isSome + 2 * b2n l.replayUntil.isSome)] ++ leBytes 2 ack ++
      leBytes 2 (l.nakSeq.getD 0) ++ zeros 2 ++ (List.range 4).flatMap (fun c => leBytes 2 (lgetD l.freed c 0 % 65536)))) ∧
    (s.helloFlit k n = itemOf ([2, 1, 1, BitVec.ofNat 8 (s.myMod % 4 + 4 * s.helm.pins.topo), BitVec.ofNat 8 k, BitVec.ofNat 8 n] ++
      leBytes 2 0x1152 ++ [0x01, BitVec.ofNat 8 (b2n (s.wantsKA k))])) ∧
    (l.state = .up ∨ l.state = .keepAlive → s.wantsKA k ≠ l.sentKA → helloes) ∧
    (l.state = .keepAlive → s.wantsKA k = l.sentKA → sends { l with lastFrame := some (idleFrame none) }) ∧
    (l.state = .up → s.wantsKA k = l.sentKA →
      (∀ f rest, l.resend = some (f, rest) →
        (l.nakSeq.isSome = true ∨ (news = true ∧ 15 ≤ l.sinceState) → sends (toldLane { l with lastFrame := some (idleFrame ctl) } true)) ∧
        (l.nakSeq = none → news = false ∨ l.sinceState < 15 → sends (toldLane { l with lastFrame := some f, replayFrom := rest } false))) ∧
      (l.resend = none → l.tx = [] ∨ 128 ≤ l.replayBuf.length → sends (toldLane { l with lastFrame := some (idleFrame ctl) } due)) ∧
      (l.resend = none → l.tx ≠ [] → l.replayBuf.length < 128 →
        let m := if due then 19 else 20
        let f : Frame := { data := true, seq := l.sendSeq, ctl := ctl, flits := l.tx.take m }
        sends (toldLane { l with
          tx := l.tx.drop m, sendSeq := (l.sendSeq + 1) % 4096, replayBuf := l.replayBuf ++ [f], lastFrame := some f,
          ackAt := if l.replayBuf = [] then s.cycle else l.ackAt } due))) ∧
    (l.state = .training →
      let off := l.out = true ∨ ∃ t0, l.downAt = some t0 ∧ s.cycle < t0 + msec
      (off → silent) ∧ (¬ off → trains)) ∧
    (l.state = .unconnected →
      let on := l.out = false ∧ portPeer s.helm.pins.topo s.myMod k ≠ none ∧ s.helm.steps.step = 10 ∧ s.helm.steps.state = 1
      (¬ on → silent) ∧ (on → trains)) ∧
    (l.state = .miswired ∨ l.state = .version → silent) ∧
    (∀ w, (frameOf w = none ↔ 2 ≤ fld w 19 18 ∨ 20 < b2n (bitB w 5) + fld w 4 0) ∧
      ∀ f, frameOf w = some f → f.data = decide (fld w 19 18 = 0) ∧ f.seq = fld w 17 6 ∧
        f.ctl = (if bitB w 5 then some ((w >>> 20).setWidth 256) else none) ∧
        f.flits = (span (b2n (bitB w 5)) (fld w 4 0)).map (fun j => (w >>> (20 + 256 * j)).setWidth 256)) ∧
    (∀ c : Codeword, ∃ u t, exec (.frameReceive k n c) s = .next t ∧ LaneBecomes s u k n (searched l c s.cycle) ∧
      (l.synced = false → t = u) ∧
      (l.synced = true → ∃ v, (if c.fix.any (fun e => decide (1 ≤ e ∧ e ≤ 12)) then Only u v { helm := true } ∧ v.helm = portUp u.helm k 3
          else v = u) ∧
        (∀ f, c.fix.any (fun e => decide (e ≤ 12)) = true → frameOf c.msg = some f → ∃ w, CtlTaken v w k n f.ctl ∧ DataTaken w t k n f) ∧
        (c.fix.any (fun e => decide (e ≤ 12)) = false ∨ frameOf c.msg = none →
          let m := v.lane k n
          ∃ w, Only v w { helm := true } ∧ w.helm = portUp v.helm k 4 ∧
            (m.state = .up → LaneBecomes w t k n
              (if m.recvReplay.isSome then m else { m with recvReplay := some s.cycle, nakSeq := some m.expectSeq, nakAt := s.cycle })) ∧
            (m.state = .training → m.downAt ≠ none → m.cleanAt ≠ none → LaneOut w t k n) ∧
            (m.state ≠ .up → m.state ≠ .training ∨ m.downAt = none ∨ m.cleanAt = none → t = w)))) ∧
    (∀ q, ∃ t, exec (.nak k n q) s = .next t ∧ Replayed s t k n q) ∧
    (∃ t, exec (.nakRepeat k n) s = .next t ∧ LaneBecomes s t k n
      (if l.recvReplay.isSome ∧ l.nakAt + usec ≤ s.cycle then { l with nakSeq := some l.expectSeq, nakAt := s.cycle } else l)) ∧
    (l.state ≠ .up ∨ l.replayBuf = [] ∨ s.cycle < l.ackAt + 2 * usec → exec (.ackTimeout k n) s = .next s) ∧
    (∀ f rest, l.replayBuf = f :: rest → l.state = .up → l.ackAt + 2 * usec ≤ s.cycle →
      ∃ u t, exec (.ackTimeout k n) s = .next t ∧ LaneBecomes s u k n { l with ackAt := s.cycle } ∧ Replayed u t k n f.seq)

/-- LINK_DOWN, LANE_RETRAIN, PEER_HELLO, KEEP_ALIVE and PEER_PACKET_ARRIVE (R138, R149, R155, R260, R297, R300-R303, R305, R307, R308, R310): a
lane whose replay or lock is late goes down with its requests answered LINK_DOWN, the third time in 60 s it is out; a good lane comes
back from zero after 1 ms, a HELLO and 10 clean ms; a keep-alive port keeps its lowest lane; a packet from a peer is checked, resolved
again and takes its place at the V port, or is refused or discarded. When lanes park and retrain is read from the spec (log 45). -/
def Obligations.PeerLanesFailAndReturn : Prop :=
  ∀ (s : State) (k n : Nat), k < 6 → n < 96 →
    let l := s.lane k n
    let v := siteOfLane k n
    let lane := 96 * k + n
    let late := fun (t : Option Nat) (d : Nat) => ∃ t0, t = some t0 ∧ t0 + d ≤ s.cycle
    let down := late l.replaySince (4 * usec) ∨ late l.recvReplay (4 * usec) ∨ late l.lockLost usec
    (¬ down → exec (.linkDown k n) s = .next s) ∧
    (down → ∃ t, exec (.linkDown k n) s = .next t ∧ Downed s t k n) ∧
    (let begun := late l.downAt msec ∧ l.out = false ∧ l.state = .training ∧ s.helm.clocks.drSet = false
     (∀ good, ¬ begun → exec (.laneRetrain k n good) s = .next s) ∧
     (begun → ∃ t, exec (.laneRetrain k n false) s = .next t ∧ LaneOut s t k n) ∧
     (begun → ¬ late l.cleanAt (10 * msec) → exec (.laneRetrain k n true) s = .next s) ∧
     (begun → late l.cleanAt (10 * msec) → ∃ t, exec (.laneRetrain k n true) s = .next t ∧ LaneBecomes s t k n { Lane.reset with
        state := if s.inKeepAlive k then .training else .up, ver := l.ver, peer := l.peer,
        peerStep := l.peerStep, downTimes := l.downTimes, reqs := l.reqs, sentKA := l.sentKA, peerKA := l.peerKA, hello := true,
        synced := true })) ∧
    (Lane.reset.sendSeq = 0 ∧ Lane.reset.expectSeq = 0 ∧ Lane.reset.credits = [288, 288, 288, 288] ∧ Lane.reset.freed = [0, 0, 0, 0] ∧
      Lane.reset.replayBuf = [] ∧ Lane.reset.tx = [] ∧ Lane.reset.out = false ∧ Lane.reset.downAt = none) ∧
    (∀ it, ∃ t, exec (.peerHello k n it) s = .next t ∧ HelloTaken s t k n it) ∧
    (let good := fun (m : Nat) => (s.lane k m).out = false ∧ ((s.lane k m).state = .up ∨ (s.lane k m).state = .keepAlive)
     let ka := s.wantsKA k = true ∨ ∃ m, m < 96 ∧ good m ∧ (s.lane k m).peerKA = true
     let held := ∃ m, m < 96 ∧ (s.lane k m).state = .keepAlive
     (∀ m, m ∈ s.goodLanes k ↔ m < 96 ∧ good m) ∧
     (ka → held → exec (.keepAlive k) s = .next s) ∧
     (ka → ¬ held → ∃ t, exec (.keepAlive k) s = .next t ∧
       Chained (fun a m b => ∃ u, LaneAnswered a u k m
         ((a.lane k m).quiet (if (s.goodLanes k).head? = some m then .keepAlive else .training)) (a.lane k m).reqs ∧ LaneRunsFail u b k m)
         s (s.goodLanes k) t) ∧
     (¬ ka → ¬ held → 1 < (s.goodLanes k).length → exec (.keepAlive k) s = .next s) ∧
     (¬ ka → held ∨ (s.goodLanes k).length ≤ 1 → ∃ t, exec (.keepAlive k) s = .next t ∧
       Only s t { lanes := (List.range 96).map (fun m => 96 * k + m) } ∧ ∀ m, m < 96 →
         let o := s.lane k m
         t.lane k m = (if o.out = false ∧ (o.state = .keepAlive ∨ (o.state = .training ∧ o.downAt = none ∧ o.peer ≠ 0xFF)) then
           { o.quiet .training with downAt := some s.cycle } else o))) ∧
    (∀ c, c < 4 →
      let i := Instr.peerPacketArrive k n c
      let r := s.router v.1 v.2
      (takeFirst (fun (p : Packet) => p.cls = c) l.rxPkts = none ∨ s.routerUp v.1 v.2 = false → exec i s = .next s) ∧
      (∀ p0 rest, takeFirst (fun (p : Packet) => p.cls = c) l.rxPkts = some (p0, rest) → s.routerUp v.1 v.2 = true →
        let p := { p0 with detour := false, down := false }
        let m := { l with rxPkts := rest, freed := lset l.freed p0.cls ((lgetD l.freed p0.cls 0 + p0.size) % 65536) }
        let gives := fun (t : State) (q : Router) => Only s t { sites := [v], lanes := [lane] } ∧ t.lane k n = m ∧
          t.cell v.1 v.2 = s.cell v.1 v.2 ∧ t.router v.1 v.2 = q
        let sound := p.damaged = false ∧ opKnown p.op = true
        let routes := sound ∧ p.mc = false ∧ (p.cls = clsRsp → s.recorded p ≠ none)
        (¬ sound → ∃ t, exec i s = .next t ∧ gives t (discarded s v.1 v.2 r 3 0)) ∧
        (sound → ¬ routes → ∃ t, exec i s = .next t ∧ gives t (r.count 8)) ∧
        (routes → destOf s v.1 v.2 portV p = .refused → p.isReq = true → ∃ t, exec i s = .next t ∧
          gives t { r.count 0 with inject := r.inject ++ [p.fault s.myMod v.1 v.2 portV fabFencedTarget 3] }) ∧
        (routes → destOf s v.1 v.2 portV p = .refused → p.isReq = false → ∃ u t, exec i s = .next t ∧ gives u (r.count 8) ∧
          RecordCleared u t p) ∧
        (routes → ∀ a b q, destOf s v.1 v.2 portV p = .to a b q →
          let room := r.vcRoom portV p = true ∧ r.linkFree (6 + portV) s.cycle = true ∧ r.tailOf (6 + portV) = 0
          (¬ room → exec i s = .next s) ∧
          (room → ∃ u w t, exec i s = .next t ∧ gives u w ∧ RecordCleared u t p ∧ OnLink
            { r with bufs := r.bufs ++ [s.flight v.1 v.2 portV { p with dstX := a, dstY := b, dstPort := q } (s.cycle + 2)] } w))))

/-! ### Power, reefing, heat, clocks -/

namespace Sys2Proof.Claims
open Sys2Proof.Machine

/-- One field changes, and nothing else. -/
def FieldBecomes (s t : State) (f : Nat) (q : Field) : Prop := Only s t { fields := [f] } ∧ t.field f = q

/-- The record of a start-up step (R368): the boot ROM's up to step 3, firmware's from there on. -/
def stepRec (t : Steps) (reason f : Nat) : LogRec :=
  { recOf 0x05 .firmware with
    index := t.step, field := f, detail := leBytes 1 t.state ++ leBytes 1 reason, origin := if t.step ≤ 3 then .bootRom else .firmware }

/-- The step in progress fails (R341): REASON is the first that arose in it, and records tell it, and this one where it differs. -/
def StepFailed (s t : State) (reason : Nat) (code : Code) : Prop :=
  let a := s.helm.steps
  let b := { a with reason := if a.reason = 0 then reason else a.reason, code := if a.reason = 0 then code else a.code, state := 4 }
  let recs := (if a.reason = 0 ∨ a.reason = reason then [] else [stepRec a reason 0xFFFF]) ++ [stepRec b b.reason 0xFFFF]
  (a.state ≠ 1 → t = s) ∧
  (a.state = 1 → Only s t { helm := true } ∧
    t.helm = { s.helm with steps := b, log := recs.foldl (fun (l : Logbook) r => l.soft s.cycle s.mono r) s.helm.log })

/-- A field lost during steps 5 to 10 is a reason of the step in progress; that of the helm's path fails it (R365). -/
def StepLost (s t : State) (f : Nat) : Prop :=
  let a := s.helm.steps
  let now := a.state = 1 ∧ 5 ≤ a.step ∧ a.step ≤ 10
  (¬ now → t = s) ∧ (now → f = 4 → StepFailed s t reasonHelmPath 0) ∧
  (now → f ≠ 4 → Only s t { helm := true } ∧ t.helm = { s.helm with steps := if a.reason = 0 then { a with reason := reasonLosses, code := 0 } else a })

/-- Every run that uses a field completes with a code (R260). -/
def RunsFailOn (s t : State) (f : Nat) (code : Code) : Prop :=
  Chained (fun s p t => ∃ u,
    ((s.part p).active.any (fun a => s.runUses p (s.program p a.run.progSlot) f) = true → Stopped s u p code) ∧
    ((s.part p).active.any (fun a => s.runUses p (s.program p a.run.progSlot) f) = false → u = s) ∧
    Dropped u t p (fun r => u.runUses p (u.program p r.progSlot) f) code) s [0, 1, 2, 3] t

/-- The core rails of a field drop: its wafer side is lost, registers there are at reset and its storage holds no stated contents; its
base die, tower and settings stay (R325, R328). -/
structure Darkened (s t : State) (f : Nat) (next : PowerState) : Prop where
  only    : Only s t { sites := fieldSites f, fields := [f], parts := [0, 1, 2, 3], helm := true, fresh := true }
  fresh   : t.fresh = s.fresh + 1
  helm    : t.helm = { s.helm with counters := t.helm.counters }
  parts   : ∀ k, t.part k = { s.part k with counters := (t.part k).counters }
  field   : t.field f = { s.field f with
    rails := false, power := next, locked := false, lockSince := none, frsPart := 0, frsRect := [], frsOut := [], frsModules := 0,
    frsSync := [], gates := 0, fieldGate := false, mcBase := [], lostGen := s.fresh, idleSince := none, lullTry := none }
  cells   : ∀ x y, siteOk x y = true → fieldOf x y = f →
    { t.cell x y with data := Memory.zero, accGen := 0, pred := 0 } = Cell.reset ∧ (t.cell x y).data.cells = [] ∧ t.router x y = Router.reset

/-- A port of a site that faces field `f` over a boundary. -/
def Faces (f x y p : Nat) : Prop := (x, y, p) ∈ facing f

/-- A field leaves the mesh (R156 steps 1 to 3): FIELD_OFF in its routers, its entry in every table, PORT_OFF at the neighbours that have
their rails up. -/
structure FieldLeft (s t : State) (f : Nat) : Prop where
  rest    : { t with routers := s.routers, fields := s.fields, helm := { t.helm with lostFields := s.helm.lostFields } } = s
  lost    : t.helm.lostFields = if f ∈ s.helm.lostFields then s.helm.lostFields else s.helm.lostFields ++ [f]
  fields  : ∀ g, t.field g = if g = f then { s.field g with fieldOff := true } else s.field g
  fence   : ∀ x y, siteOk x y = true → fieldOf x y = f → bitB (t.fenceWord x y) 3 = true
  routers : ∀ x y, siteOk x y = true →
    { t.router x y with fence := (s.router x y).fence, dtField := tdel (s.router x y).dtField f } =
      { s.router x y with dtField := tdel (s.router x y).dtField f } ∧
    (t.router x y).dtField = tdel (s.router x y).dtField f
  ports   : ∀ x y p, siteOk x y = true → p < 4 →
    (Faces f x y p → (s.field (fieldOf x y)).rails = true → bitB (t.router x y).fence (4 + p) = true) ∧
    (¬ (Faces f x y p ∧ (s.field (fieldOf x y)).rails = true) → bitB (t.router x y).fence (4 + p) = bitB (s.router x y).fence (4 + p))

/-- A field is in the mesh again (R156, R331): no FIELD_OFF, no entry; the ports toward it and its own are open unless something else
beyond them is out of service. -/
structure FieldBack (s t : State) (f : Nat) : Prop where
  rest    : { t with routers := s.routers, fields := s.fields, helm := { t.helm with lostFields := s.helm.lostFields } } = s
  lost    : t.helm.lostFields = s.helm.lostFields.filter (fun g => decide (g ≠ f))
  fields  : ∀ g, t.field g = if g = f then { s.field g with fieldOff := false, lostAt := none } else s.field g
  fence   : ∀ x y, siteOk x y = true → fieldOf x y = f → bitB (t.fenceWord x y) 3 = false
  routers : ∀ x y, siteOk x y = true → { t.router x y with fence := (s.router x y).fence } = s.router x y
  ports   : ∀ x y p, siteOk x y = true → p < 4 →
    let edge := (Faces f x y p ∧ (s.field (fieldOf x y)).rails = true) ∨ (fieldOf x y = f ∧ ∃ g, fieldBeyond f p = some g ∧ Faces g x y p)
    (edge → bitB (t.router x y).fence (4 + p) = t.wantsOff x y p) ∧
    (¬ edge → bitB (t.router x y).fence (4 + p) = bitB (s.router x y).fence (4 + p))

/-- COUPLE is cleared on the far side of each boundary of a field (R318, R336). -/
def Uncoupled (s t : State) (f : Nat) : Prop :=
  Only s t { fields := (List.range 4).filterMap (fieldBeyond f) } ∧
  ∀ p g, p < 4 → fieldBeyond f p = some g → t.field g = { s.field g with couple := setBit (s.field g).couple (opposite p) false }

/-- Couplings toward locked neighbours are enabled on both sides (R318). -/
def Rejoined (s t : State) (f : Nat) : Prop :=
  Only s t { fields := f :: (List.range 4).filterMap (fieldBeyond f) } ∧
  let joins := fun (p g : Nat) => fieldBeyond f p = some g ∧ (s.field g).rails = true ∧ (s.field g).oscEn = true ∧ (s.field g).locked = true
  { t.field f with couple := (s.field f).couple } = s.field f ∧
  (∀ p, p < 4 → ((∃ g, joins p g) → bitB (t.field f).couple p = true) ∧
    ((∀ g, ¬ joins p g) → bitB (t.field f).couple p = bitB (s.field f).couple p)) ∧
  ∀ p g, p < 4 → fieldBeyond f p = some g →
    (joins p g → t.field g = { s.field g with couple := setBit (s.field g).couple (opposite p) true }) ∧ (¬ joins p g → t.field g = s.field g)

/-- A power stage trips (R157, R260, R325, R336, R365, R396): runs that use the field complete, it is dark, latched and lost, its tower in
self-refresh; the pins and the hardware logger show it. A field that is Off and lost already only latches. -/
def FieldLost (s t : State) (f : Nat) (code : Code) (r : LogRec) (heat : Bool) : Prop :=
  let q := s.field f
  let known := q.power = .off ∧ f ∈ s.helm.lostFields
  (known → FieldBecomes s t f { q with tripped := true }) ∧
  (¬ known → ∃ u v w x, RunsFailOn s u f code ∧
    (q.tripped = true → v = u) ∧
    (q.tripped = false → ∃ d, Darkened u d f .off ∧ FieldBecomes d v f { d.field f with
      tripped := true, sr := true, entry := none, waking := none, shutting := false, coolAt := none, past := none }) ∧
    (∃ a b, { a with routers := v.routers, helm := { a.helm with lostFields := v.helm.lostFields } } = v ∧
      a.helm.lostFields = (if f ∈ v.helm.lostFields then v.helm.lostFields else v.helm.lostFields ++ [f]) ∧
      (∀ x y, siteOk x y = true → a.router x y = { v.router x y with dtField := tdel (v.router x y).dtField f }) ∧
      Uncoupled a b f ∧
      FieldBecomes b w f { b.field f with
        fieldOff := false, hwThermal := (b.field f).hwThermal || heat, coolAt := none,
        lostAt := if f ∈ s.helm.lostFields then (b.field f).lostAt else some s.cycle }) ∧
    Only w x { helm := true } ∧
    x.helm = { w.helm with
      pins := { w.helm.pins with
        smbStatus := setBit (if heat then setBit w.helm.pins.smbStatus 7 true else w.helm.pins.smbStatus) 6 true,
        thermtrip := w.helm.pins.thermtrip || heat },
      log := w.helm.log.hard s.mono { r with flags := 1, code := code, field := f, origin := .logger } } ∧
    StepLost x t f)

/-- A field's state at the end of a thermal shutdown (R335 steps 4 to 6, R337). -/
def GoneOff (s t : State) (f : Nat) : Prop :=
  ∃ a b c, Uncoupled s a f ∧ FieldBecomes a b f { a.field f with couple := 0 } ∧
    ((s.field f).rails = true → Darkened b c f .off) ∧ ((s.field f).rails = false → c = b) ∧
    Only c t { fields := [f], helm := true } ∧
    t.field f = { c.field f with
      power := .off, sr := true, shutting := false, coolAt := none, entry := none, waking := none, past := none, savedCells := [],
      savedSync := [], savedRouters := [] } ∧
    t.helm = { c.helm with pins := { c.helm.pins with
      smbStatus := setBit (setBit c.helm.pins.smbStatus 7 true) 6 true, thermtrip := true } }

/-- The next part of a thermal shutdown (R156, R335): the field leaves the mesh; once its routers are empty, or 200 µs later, it is Off. -/
def CooledOff (s t : State) (f : Nat) : Prop :=
  match (s.field f).coolAt with
  | none => ∃ u, FieldLeft s u f ∧
    ((s.field f).rails = true → FieldBecomes u t f { u.field f with coolAt := some s.cycle }) ∧
    ((s.field f).rails = false → GoneOff u t f)
  | some t0 =>
    (s.fieldEmpty f = true ∨ t0 + 200 * usec ≤ s.cycle → GoneOff s t f) ∧
    (s.fieldEmpty f = false → s.cycle < t0 + 200 * usec → t = s)

/-- Firmware sets a reef level; one above the floor is recorded (R332, R338). -/
def ReefSet (s t : State) (f n : Nat) : Prop :=
  Only s t { fields := [f], helm := true } ∧ t.field f = { s.field f with reefReg := BitVec.ofNat 4 n } ∧
  t.helm = { s.helm with
    log := if s.floorOf f < n then s.helm.log.soft s.cycle s.mono
        { recOf 0x43 .firmware with field := f, detail := leBytes 1 (n - s.floorOf f) }
      else s.helm.log }

/-- Thermal shutdown is decided (R335 steps 1 and 2, R337). -/
def ShutdownBegun (s t : State) (f : Nat) (temp : Int) : Prop :=
  let q := s.field f
  (q.power = .off ∨ q.shutting = true → t = s) ∧
  (q.power ≠ .off → q.shutting = false → ∃ a b c d,
    (q.reefReg = 15 → a = s) ∧ (q.reefReg ≠ 15 → ReefSet s a f 15) ∧ RunsFailOn a b f thermalCritical ∧
    Only b c { sites := fieldSites f, fields := [f], helm := true } ∧
    (∀ x y, siteOk x y = true → fieldOf x y = f → c.router x y = b.router x y ∧
      c.cell x y = (let e := b.cell x y
        if e.state = .idle then e else { e with haltFrom := e.haltNext, stopping := true, sg := { e.sg with wins := [] } })) ∧
    c.field f = { b.field f with shutting := true, entry := none, waking := none, past := none } ∧
    c.helm = { b.helm with log := b.helm.log.hard s.mono { recOf 0x35 .logger with
      flags := 1, code := thermalCritical, field := f, detail := leBytes 2 (twos 16 temp), origin := .logger } } ∧
    StepLost c d f ∧ (q.power = .doldrums → CooledOff d t f) ∧ (q.power ≠ .doldrums → t = d))

/-- The rails of a field ramp up; the links to its neighbours are alive again (R316, R330). -/
def RailsRisen (s t : State) (f : Nat) : Prop :=
  let q := s.field f
  let held := q.rails = true ∨ q.tripped = true ∨ q.power = .off
  (held → t = s) ∧
  (¬ held → { t with routers := s.routers, fields := s.fields } = s ∧
    (∀ g, t.field g = if g = f then { q with rails := true, litAt := s.cycle, lockSince := if q.oscEn then some s.cycle else none }
      else s.field g) ∧
    ∀ x y, siteOk x y = true → { t.router x y with linkDown := (s.router x y).linkDown } = s.router x y ∧
      ∀ p, p < 4 → (Faces f x y p → bitB (t.router x y).linkDown p = false) ∧
        (¬ Faces f x y p → bitB (t.router x y).linkDown p = bitB (s.router x y).linkDown p))

/-- The routers of a field hold the defect map's fences again (R146, R150). -/
def MapApplied (s t : State) (f : Nat) : Prop :=
  { t with routers := s.routers } = s ∧
  (∀ x y, siteOk x y = true → { t.router x y with fence := (s.router x y).fence, dtSite := (s.router x y).dtSite } = s.router x y) ∧
  (∀ d ∈ s.helm.defects, fieldOf d.1 d.2.1 = f → d.2.2 = false →
    bitB (t.router d.1 d.2.1).fence 0 = true ∧
    ((∀ e ∈ s.helm.defects, siteIx e.1 e.2.1 = siteIx d.1 d.2.1 → e = d) →
      bitB (t.router d.1 d.2.1).fence 2 = s.pairServes d.1 d.2.1)) ∧
  (∀ d ∈ s.helm.defects, d.2.2 = true → ∀ p u v, p < 4 → beyond d.1 d.2.1 p = some (u, v) → fieldOf u v = f →
    bitB (t.router u v).fence (4 + opposite p) = true)

end Sys2Proof.Claims

/-- UNGATE, LULL, RAILS_OFF, RAILS_ON, SR_ENTER, SR_EXIT, PWR_GATE writes, cell gates and PWR_REEF (R20, R316, R324, R325, R327, R328, R330,
R332, R338): what each action changes in its field and what it leaves; a close that finds cells busy is refused and counted; an action
that does not apply changes nothing. Each action is one step (the model's choice, log 21). -/
def Obligations.PowerActionsChangeTheirField : Prop :=
  ∀ (s : State) (f : Nat), f < 144 →
    let q := s.field f
    let becomes := fun (i : Instr) (r : Field) => ∃ t, exec i s = .next t ∧ FieldBecomes s t f r
    (becomes (.ungate f) (if q.power = .lull ∧ q.locked = true then
      { q with power := .underway, fieldGate := false, gates := 0, idleSince := some s.cycle, lullTry := none } else q)) ∧
    (q.power ≠ .underway → exec (.lull f) s = .next s) ∧
    (q.power = .underway → becomes (.lull f) (if s.fieldQuiet f (fun _ => true) then
      { q with power := .lull, fieldGate := true, gates := BitVec.ofNat 64 (2 ^ 64 - 1), lullTry := none }
      else { q with refused := true, gateRefused := satInc q.gateRefused, lullTry := some s.cycle })) ∧
    (q.rails = false → exec (.railsOff f) s = .next s) ∧
    (q.rails = true → ∃ u t, exec (.railsOff f) s = .next t ∧ Darkened s u f (if q.shutting then .off else .doldrums) ∧
      (q.entry = none → t = u) ∧
      (q.entry ≠ none → Only u t { fields := [f], helm := true } ∧ t.field f = { u.field f with entry := none } ∧
        t.helm = { u.helm with log := u.helm.log.soft s.cycle s.mono { recOf 0x42 .firmware with field := f, detail := leBytes 1 2 } })) ∧
    (∃ t, exec (.railsOn f) s = .next t ∧ RailsRisen s t f) ∧
    (becomes (.srEnter f) { q with sr := true }) ∧
    (becomes (.srExit f) (if q.power = .off then q else { q with sr := false })) ∧
    (∀ hi v,
      let o := if hi then 32 else 0
      let quiet := fun (b : Nat) => s.fieldQuiet f (fun c => decide (c = b + o))
      let no := (List.range 32).filter (fun b => bitB v b && ! bitB q.gates (b + o) && ! quiet b)
      ∃ t, exec (.pwrGateWrite f hi v) s = .next t ∧ Only s t { fields := [f] } ∧
        t.field f = { q with
          gates := (t.field f).gates, refused := q.refused || decide (no ≠ []), gateRefused := no.foldl (fun w _ => satInc w) q.gateRefused } ∧
        ∀ b, b < 32 → bitB (t.field f).gates (b + o) = (bitB v b && (bitB q.gates (b + o) || quiet b)) ∧
          bitB (t.field f).gates (b + (32 - o)) = bitB q.gates (b + (32 - o))) ∧
    (∀ v, becomes (.pwrReefWrite f v) { q with reefReg := BitVec.ofNat 4 (fld v 3 0) }) ∧
    (∀ x y, siteOk x y = true →
      let c := s.cell x y
      let closes := s.clocked x y = true ∧ s.quiescent x y = true ∧ s.longQuiet x y = true
      let opens := c.gated = true ∧ s.lWaits x y = true
      (∀ d, tget s.cells (siteIx x y) = some d → s.longQuiet x y = decide (d.quietSince + 64 ≤ d.pulse)) ∧
      (¬ closes → exec (.cellGateClose x y) s = .next s) ∧
      (closes → ∃ t, exec (.cellGateClose x y) s = .next t ∧ OnlyCell s t x y ∧ t.cell x y = { c with gated := true }) ∧
      (¬ opens → exec (.cellGateOpen x y) s = .next s) ∧
      (opens → ∃ t, exec (.cellGateOpen x y) s = .next t ∧ OnlyCell s t x y ∧
        t.cell x y = { c with gated := false, quietSince := c.pulse }))

/-- LULL_IDLE_EXPIRY, DOLDRUMS_IDLE_EXPIRY, WAKE_REQUEST and DOLDRUMS_WAKE_DONE (R28, R156, R318, R326-R331, R417): an idle field is asked
into Lull, and from there towards Doldrums with its cells, routers and sync words saved and the mesh around it closed; a wake opens the
gates at once, takes an entry back, or begins; a field that has woken is Underway with what was saved; one that has not is lost. How a
save area is laid out is free (log 36); a wake whose field does not lock is the operand. -/
def Obligations.FieldsSleepAndWake : Prop :=
  ∀ (s : State) (f : Nat), f < 144 →
    let q := s.field f
    let here := s.serving = true ∧ s.svcUp f = true
    (∀ p, s.partOfField f = some p → (s.idleLimits f).1 =
      if (s.part p).lullIdle = 0xFFFFFFFF then none else some ((s.part p).lullIdle * usec)) ∧
    (let due := ∃ n, (s.idleLimits f).1 = some n ∧ here ∧ q.power = .underway ∧ n ≤ s.idleTime f ∧
      ∀ t0, q.lullTry = some t0 → t0 + n ≤ s.cycle
     (¬ due → exec (.lullIdleExpiry f) s = .next s) ∧ (due → exec (.lullIdleExpiry f) s = exec (.lull f) s)) ∧
    (let due := ∃ n, (s.idleLimits f).2 = some n ∧ here ∧ f ≠ 4 ∧ q.power = .lull ∧ q.entry = none ∧ q.shutting = false ∧ n ≤ s.idleTime f
     (¬ due → exec (.doldrumsIdleExpiry f) s = .next s) ∧
     (due → ∃ u v w t, exec (.doldrumsIdleExpiry f) s = .next t ∧ Only s u { fields := [f], fresh := true } ∧
       u.field f = { q with
         savedCells := (match s.activeIn f with
           | some (_, g) => savesOf s g [f]
           | none => []),
         savedSync := s.syncOf f, savedRouters := s.routers.filter (fun r => decide (fieldOf (r.1 % 576) (r.1 / 576) = f)),
         entry := some s.cycle, tower := (u.field f).tower } ∧
       (s.activeIn f = none → (u.field f).tower = q.tower) ∧
       (∀ p k r, s.partOfField f = some p → (s.part p).activeSlot = some k → tget (s.part p).programs k = some r → ∀ a,
         a < r.save ∨ r.save + r.prog.saveSize ≤ a → (u.field f).tower.byte a = q.tower.byte a) ∧
       FieldLeft u v f ∧ Uncoupled v w f ∧ FieldBecomes w t f { w.field f with couple := 0 })) ∧
    (exec (.wakeRequest f) s = .next (s.wake f)) ∧
    (q.power = .underway → FieldBecomes s (s.wake f) f { q with idleSince := some s.cycle }) ∧
    (q.power = .off ∨ (q.power = .lull ∧ (q.shutting = true ∨ s.svcUp f = false)) → s.wake f = s) ∧
    (q.power = .lull → q.shutting = false → s.svcUp f = true → ∃ u,
      (q.entry = none → u = s) ∧
      (q.entry ≠ none → ∃ a b, FieldBack s a f ∧ Rejoined a b f ∧ FieldBecomes b u f { b.field f with
        entry := none, sr := false, savedCells := [], savedSync := [], savedRouters := [] }) ∧
      FieldBecomes u (s.wake f) f (if q.locked then
        { u.field f with power := .underway, fieldGate := false, gates := 0, idleSince := some s.cycle, lullTry := none } else u.field f)) ∧
    (q.power = .doldrums → FieldBecomes s (s.wake f) f
      { q with waking := if q.waking.isNone && s.svcUp f then some s.cycle else q.waking }) ∧
    (∀ good, q.power ≠ .doldrums ∨ q.waking = none → exec (.doldrumsWakeDone f good) s = .next s) ∧
    (q.power = .doldrums → q.waking ≠ none → ∃ t, exec (.doldrumsWakeDone f false) s = .next t ∧
      FieldLost s t f fieldPowerLost (recOf 0x34 .logger) false) ∧
    (q.power = .doldrums → q.waking ≠ none → ∃ a b c d e g h i j t, exec (.doldrumsWakeDone f true) s = .next t ∧
      RailsRisen s a f ∧ FieldBecomes a b f { a.field f with sr := false, oscEn := true, locked := true, lockSince := none } ∧
      Rejoined b c f ∧
      { d with routers := c.routers } = c ∧
      (∀ x y, siteOk x y = true → (∀ v ∈ q.savedRouters, v.1 ≠ siteIx x y) → d.router x y = c.router x y) ∧
      (∀ v ∈ q.savedRouters, v.1 < 331776 → q.savedRouters.filter (fun w => decide (w.1 = v.1)) = [v] →
        let o := v.2
        let on := (s.activeIn f).isSome
        d.router (v.1 % 576) (v.1 / 576) = { Router.reset with
          fence := o.fence, updown := o.updown, mcHold := o.mcHold, dtSite := o.dtSite, mcTree := o.mcTree,
          wheel := if on then o.wheel else [], laneMap := if on then o.laneMap else [],
          dtField := o.dtField.filter (fun e => ! c.helm.lostFields.contains e.1) }) ∧
      (let z := d.field 4
       FieldBecomes d e f { d.field f with
         frsPart := (match s.partOfField f with
           | some p => word (2 ^ 31 + p)
           | none => 0),
         frsRect := z.frsRect, frsOut := z.frsOut, frsModules := z.frsModules, frsSync := z.frsSync }) ∧
      FieldBack e g f ∧ MapApplied g h f ∧
      (Only h i { sites := fieldSites f, fields := [f] } ∧
        i.field f = { h.field f with mcBase := (List.range 5).map (fun k => (k, mcFull (lgetD s.helm.fw.microcode k []))) } ∧
        ∀ x y, siteOk x y = true → fieldOf x y = f → i.router x y = h.router x y ∧ i.cell x y = { h.cell x y with mc := none }) ∧
      (s.activeIn f = none → j = i) ∧
      (∀ p o, s.activeIn f = some (p, o) → ∃ k, Loaded i k o (some q.savedCells) [f] (rectFields (s.part p).rect) ∧
        { j with routers := k.routers } = k ∧
        ∀ x y, siteOk x y = true → { j.router x y with mcTree := (k.router x y).mcTree } = k.router x y) ∧
      (∀ x y, siteOk x y = true → (∀ v ∈ q.savedSync, siteIx v.1 v.2.1 ≠ siteIx x y) → t.cell x y = j.cell x y) ∧
      ((∀ v ∈ q.savedSync, v.2.2.1 < 2) → ∀ v ∈ q.savedSync, s.bodyOut v.1 v.2.1 = false →
        q.savedSync.filter (fun w => decide (siteIx w.1 w.2.1 = siteIx v.1 v.2.1 ∧ w.2.2.1 = v.2.2.1)) = [v] →
        ((t.cell v.1 v.2.1).sw v.2.2.1).word = v.2.2.2) ∧
      (∀ x y, t.router x y = j.router x y) ∧
      Only j t { sites := q.savedSync.map (fun v => (v.1, v.2.1)), fields := [f], helm := true } ∧
      t.field f = { j.field f with
        power := .underway, idleSince := some s.cycle, waking := none, savedCells := [], savedSync := [], savedRouters := [] } ∧
      t.helm = { j.helm with log := j.helm.log.soft s.cycle s.mono { recOf 0x42 .firmware with field := f, detail := leBytes 1 0 } })

namespace Sys2Proof.Claims
open Sys2Proof.Machine

/-- A slip at one boundary (R317): SLIP at both fields, DOWN at both ends of every link across it. -/
def SlipSeen (s : State) (v : Nat × Nat) (t : State) : Prop :=
  match fieldBeyond v.1 v.2 with
  | none => t = s
  | some g =>
    { t with routers := s.routers, fields := s.fields } = s ∧
    (∀ j, j ≠ v.1 → j ≠ g → t.field j = s.field j) ∧
    t.field v.1 = { s.field v.1 with slip := setBit (s.field v.1).slip v.2 true } ∧
    t.field g = { s.field g with slip := setBit (s.field g).slip (opposite v.2) true } ∧
    ∀ x y, siteOk x y = true → { t.router x y with linkDown := (s.router x y).linkDown } = s.router x y ∧
      ∀ p, p < 4 → bitB (t.router x y).linkDown p = (bitB (s.router x y).linkDown p ||
        (decide ((x, y, p) ∈ facing v.1 ∧ fieldOf x y = g) || decide ((x, y, p) ∈ facing g ∧ fieldOf x y = v.1)))

/-- The field that has lost lock reports with its SLIP bits and is tripped (R317). -/
def SlipLost (s : State) (f : Nat) (t : State) : Prop :=
  ∃ u, Only s u { helm := true } ∧
    u.helm = { s.helm with log := s.helm.log.hard s.mono { recOf 0x33 .logger with
      flags := 1, field := f, detail := leBytes 1 (s.field f).slip.toNat, origin := .logger } } ∧
    FieldLost u t f fieldPowerLost (recOf 0x34 .logger) false

end Sys2Proof.Claims

/-- TRIP, POWER_STAGE_TRIP, ROSE_SLIP, HW_THERMAL_TRIP, TJ_HOT_REPORT, DRAM_HOT_REPORT, THERMAL_SHUTDOWN and TOWER_RAIL_OVERCURRENT (R19, R156,
R157, R317, R325, R333, R335-R337, R402, R407): what trips a field and what heat does; readings below their limits do nothing; a field in
shutdown leaves the mesh, and is Off once its routers are empty or 200 µs later. Which field of a slipping boundary has lost lock is in
part read from the spec (log 46). -/
def Sys2Proof.Claims.FailingFieldsAreSwitchedOff : Prop :=
  ∀ (s : State) (f : Nat), f < 144 →
    let q := s.field f
    let powerLost := fun (i : Instr) => ∃ t, exec i s = .next t ∧ FieldLost s t f fieldPowerLost (recOf 0x34 .logger) false
    (powerLost (.trip f)) ∧
    (q.rails = true ∨ (q.tripped = true ∧ f ∉ s.helm.lostFields) → powerLost (.powerStageTrip f)) ∧
    (q.rails = false → q.tripped = false ∨ f ∈ s.helm.lostFields → exec (.powerStageTrip f) s = .next s) ∧
    (∀ tj, (tj < 440 ∨ q.power = .off → exec (.hwThermalTrip f tj) s = .next s) ∧
      (440 ≤ tj → q.power ≠ .off → ∃ u t, exec (.hwThermalTrip f tj) s = .next t ∧ FieldBecomes s u f { q with tj := tj } ∧
        FieldLost u t f thermalCritical { recOf 0x35 .logger with detail := leBytes 2 (twos 16 tj) } true)) ∧
    (∀ tj, (tj < 420 → exec (.tjHotReport f tj) s = .next s) ∧
      (420 ≤ tj → ∃ u t, exec (.tjHotReport f tj) s = .next t ∧ FieldBecomes s u f { q with tj := tj } ∧
        (s.reefing = true → ShutdownBegun u t f tj) ∧ (s.reefing = false → t = u))) ∧
    (∀ td, (td < 380 → exec (.dramHotReport f td) s = .next s) ∧
      (380 ≤ td → ∃ u t, exec (.dramHotReport f td) s = .next t ∧ Only s u { fields := [f], helm := true } ∧
        u.field f = { q with td := td } ∧
        u.helm = { s.helm with pins := { s.helm.pins with smbStatus := setBit s.helm.pins.smbStatus 5 true } } ∧
        (s.reefing = true → ShutdownBegun u t f td) ∧ (s.reefing = false → t = u))) ∧
    (q.shutting = false → exec (.thermalShutdown f) s = .next s) ∧
    (q.shutting = true → ∃ t, exec (.thermalShutdown f) s = .next t ∧ CooledOff s t f) ∧
    (q.towerRails = false → exec (.towerRailOvercurrent f) s = .next s) ∧
    (q.towerRails = true → ∃ u v t, exec (.towerRailOvercurrent f) s = .next t ∧
      FieldLost s u f fieldPowerLost (recOf 0x34 .logger) false ∧ v = u.withdraw f ∧ (v.field f).withdrawn = true ∧
      Only v t { fields := [f], fresh := true } ∧ t.field f = { v.field f with
        towerRails := false, railsLatch := true, trained := false, sr := false, tower := (t.field f).tower } ∧
      (t.field f).tower.cells = []) ∧
    (∀ bounds : List (Nat × Nat), (∀ v ∈ bounds, v.1 < 144 ∧ v.2 < 4) →
      let all := dedup ((bounds.filter (fun v => (fieldBeyond v.1 v.2).isSome && bitB (BitVec.ofNat 4 (s.coupled v.1)) v.2)).map edgeOf)
      ∃ u t, exec (.roseSlip bounds) s = .next t ∧ Chained SlipSeen s all u ∧ Chained SlipLost u (dedup (all.map (slipLoser all))) t)

/-- REEF_STEP and REEF_PAST_FLOOR_EXPIRY (R332-R335): every 100 µs the sensors are read, what is at 105 °C or 1 ms past its floor is shut
down, and at most one field moves by one level: the hottest of those at or above 90 °C goes up, and only where none does the highest
level at or below 87 °C goes down. -/
def Sys2Proof.Claims.ReefingMovesOneLevel : Prop :=
  ∀ (s : State),
    let due := s.reefing = true ∧ s.helm.reefAt + 100 * usec ≤ s.cycle
    (∀ l, ¬ due → exec (.reefStep l) s = .next s) ∧
    (∀ l, due → ∃ u v w t, exec (.reefStep l) s = .next t ∧
      Only s u { fields := List.range 144 } ∧
      (∀ f, f < 144 → (s.svcUp f = false ∨ (∀ e ∈ l, e.1 ≠ f) → u.field f = s.field f) ∧
        (s.svcUp f = true → ∀ e ∈ l, e.1 = f → ∃ o ∈ l, o.1 = f ∧ (∀ e ∈ l, e.1 = f → e.2.2 ≤ o.2.2) ∧
          u.field f = { s.field f with tj := o.2.2 + (Config.calibration f).val, sensor := o.2.1 })) ∧
      Chained (fun s f t =>
        let q := s.field f
        let reefed := q.awake = true ∧ q.shutting = false
        let past := s.floorOf f < q.reefReg.toNat
        let long := ∃ t0, q.past = some t0 ∧ t0 + msec ≤ s.cycle
        (¬ reefed ∨ (q.tj < 420 ∧ past ∧ ¬ long) ∨ (q.tj < 420 ∧ ¬ past ∧ q.past = none) → t = s) ∧
        (reefed → 420 ≤ q.tj ∨ (past ∧ long) → ShutdownBegun s t f q.tj) ∧
        (reefed → q.tj < 420 → ¬ past → q.past ≠ none → FieldBecomes s t f { q with past := none })) u (List.range 144) v ∧
      (let live := fun (f : Nat) => f < 144 ∧ (v.field f).awake = true ∧ (v.field f).shutting = false ∧ v.svcUp f = true
       let hot := fun (f : Nat) => live f ∧ 360 ≤ (v.field f).tj ∧ (v.field f).reefReg.toNat < 15
       let cool := fun (f : Nat) => live f ∧ (v.field f).tj ≤ 348 ∧ 0 < (v.field f).reefReg.toNat
       ((∃ f, hot f) → ∃ f a, hot f ∧ (∀ g, hot g → (v.field g).tj ≤ (v.field f).tj) ∧ ReefSet v a f ((v.field f).reefReg.toNat + 1) ∧
         FieldBecomes a w f (if v.floorOf f < (v.field f).reefReg.toNat + 1 ∧ (v.field f).past = none then
           { a.field f with past := some s.cycle } else a.field f)) ∧
       ((∀ f, ¬ hot f) → (∃ f, cool f) → ∃ f, cool f ∧
         (∀ g, cool g → (v.field g).reefReg.toNat < (v.field f).reefReg.toNat ∨
           ((v.field g).reefReg.toNat = (v.field f).reefReg.toNat ∧ (v.field g).tj ≤ (v.field f).tj)) ∧
         ReefSet v w f ((v.field f).reefReg.toNat - 1)) ∧
       ((∀ f, ¬ hot f) → (∀ f, ¬ cool f) → w = v)) ∧
      Only w t { helm := true } ∧ t.helm = { w.helm with reefAt := s.cycle }) ∧
    (∀ f, f < 144 →
      let q := s.field f
      let late := (∃ t0, q.past = some t0 ∧ t0 + msec ≤ s.cycle) ∧ s.reefing = true ∧ q.awake = true ∧ s.floorOf f < q.reefReg.toNat
      (¬ late → exec (.reefPastFloorExpiry f) s = .next s) ∧
      (late → ∃ t, exec (.reefPastFloorExpiry f) s = .next t ∧ ShutdownBegun s t f q.tj))

/-- CRYSTAL_FAIL, CRYSTAL_GOOD_AGAIN, DEAD_RECKONING_ENTRY and DEAD_RECKONING_EXIT (R260, R314, R317, R319, R321, R322, R365): the selection
moves to the other crystal when the selected one fails and that one is good, and never back; a crystal is good again after 1 s; with both
lost in service every run completes with CLOCK_DEAD_RECKONING, every lane goes down and host links run at 16 GT/s at most; the exit
selects a crystal that is good again, and a field that has not locked is lost. -/
def Obligations.ClocksFailOver : Prop :=
  ∀ (s : State) (b : Bool),
    let c := s.helm.clocks
    let up := c.good b
    let other := c.good (! b)
    let note := fun (what : Nat) => { recOf 0x40 .firmware with detail := leBytes 1 (b2n b) ++ leBytes 1 what }
    (up = false → exec (.crystalFail b) s = .next s) ∧
    (up = true → ∃ u t, exec (.crystalFail b) s = .next t ∧ Only s u { helm := true } ∧
      (let d := if b then { c with okB := false, lockB := false, failB := true, failAtB := some s.cycle }
        else { c with okA := false, lockA := false, failA := true, failAtA := some s.cycle }
       let log := s.helm.log.soft s.cycle s.mono (note 0)
       (c.sel = b → other = true → u.helm = { s.helm with
         clocks := { d with sel := ! b }, log := log.soft s.cycle s.mono (note 2) } ∧ t = u) ∧
       (c.sel ≠ b ∨ other = false → u.helm = { s.helm with clocks := d, log := log }) ∧
       (other = false → s.helm.service = false → StepFailed u t reasonClock 0) ∧
       (c.sel ≠ b → other = true → t = u) ∧ (other = false → s.helm.service = true → t = u))) ∧
    (let due := ∃ t0, (if b then c.failAtB else c.failAtA) = some t0 ∧ t0 + 1000 * msec ≤ s.cycle
     (¬ due → exec (.crystalGoodAgain b) s = .next s) ∧
     (due → ∃ t, exec (.crystalGoodAgain b) s = .next t ∧ Only s t { helm := true } ∧ t.helm = { s.helm with
       clocks := if b then { c with okB := true, lockB := ! c.drSet, failAtB := none } else { c with okA := true, lockA := ! c.drSet, failAtA := none },
       log := s.helm.log.soft s.cycle s.mono (note 1) })) ∧
    (let recap := fun (o : Bridge) (cap : Nat) => if o.linkUp = true ∧ o.keepAlive = false then
       (let m := { o with rate := min cap o.fullRate }
        if m.up.length * m.width * m.rate < 544 then m.event evLinkDegraded else m) else o
     let dead := s.helm.service = true ∧ c.okA = false ∧ c.okB = false ∧ c.drSet = false
     (¬ dead → exec .deadReckoningEntry s = .next s) ∧
     (dead → ∃ u v w t, exec .deadReckoningEntry s = .next t ∧ Only s u { helm := true } ∧
       u.helm = { s.helm with
         clocks := { c with drSet := true, drEntries := min (c.drEntries + 1) 0xFFFF },
         log := s.helm.log.soft s.cycle s.mono { recOf 0x41 .firmware with detail := [1] } } ∧
       Chained (fun s p t => ∃ m, Stopped s m p clockDeadReckoning ∧ Dropped m t p (fun _ => true) clockDeadReckoning) u [0, 1, 2, 3] v ∧
       Chained (fun s i t => Downed s t (i / 96) (i % 96)) v (v.lanes.map (·.1)) w ∧
       { t with bridges := w.bridges } = w ∧ ∀ h, t.bridge h = recap (w.bridge h) 16) ∧
     (∀ l : List Nat, (∀ f ∈ l, f < 144) →
       (c.drSet = false ∨ up = false → exec (.deadReckoningExit b l) s = .next s) ∧
       (c.drSet = true → up = true → ∃ u v w t, exec (.deadReckoningExit b l) s = .next t ∧ Only s u { helm := true } ∧
         u.helm = { s.helm with clocks := { c with lockA := c.okA, lockB := c.okB, sel := b } } ∧
         Chained (fun s f t => ((s.field f).awake = true → FieldLost s t f fieldPowerLost (recOf 0x34 .logger) false) ∧
           ((s.field f).awake = false → t = s)) u l v ∧
         { w with bridges := v.bridges } = v ∧ (∀ h, w.bridge h = recap (v.bridge h) 32) ∧
         Only w t { helm := true } ∧ t.helm = { w.helm with
           clocks := { w.helm.clocks with drSet := false },
           log := w.helm.log.soft s.cycle s.mono { recOf 0x41 .firmware with detail := [0] } })))

/-! ### Start-up, supplies -/

namespace Sys2Proof.Claims
open Sys2Proof.Machine

/-- Start-up step `n` is in progress. -/
def InStep (s : State) (n : Nat) : Prop := s.helm.steps.step = n ∧ s.helm.steps.state = 1

/-- The step in progress as a reason arises in it: the first is kept (R341). -/
def arisen (a : Steps) (reason : Nat) : Steps := if a.state = 1 ∧ a.reason = 0 then { a with reason := reason, code := 0 } else a

def Arisen (s t : State) (reason : Nat) : Prop := Only s t { helm := true } ∧ t.helm = { s.helm with steps := arisen s.helm.steps reason }

/-- The step in progress ends (R340, R341): DONE, or DONE_DEGRADED when a reason arose in it, and a record tells it. -/
def StepEnded (s t : State) : Prop :=
  let b := { s.helm.steps with state := if s.helm.steps.reason = 0 then 2 else 3 }
  Only s t { helm := true } ∧
    t.helm = { s.helm with steps := b, log := s.helm.log.soft s.cycle s.mono (stepRec b b.reason 0xFFFF) }

/-- The step ends, unless it has failed (R341, R365). -/
def EndedUnlessFailed (s t : State) : Prop := (s.helm.steps.state = 4 → t = s) ∧ (s.helm.steps.state ≠ 4 → StepEnded s t)

/-- A host link trains at CLOCKS, when its operand is a link that can train (R265, R266, R339); of what trains it is the operand's. -/
def LinkTrained (s : State) (v : Nat × List Nat × Nat × Nat) (t : State) : Prop :=
  let b := s.bridge v.1
  let m := v.2.1
  let w := v.2.2.1
  let r := v.2.2.2
  let able := b.linkUp = true ∧ m ≠ [] ∧ m.Nodup ∧ (∀ k ∈ m, k < 4 ∧ k ∉ b.leftOut) ∧ (w = 8 ∨ w = 16) ∧ r ∈ [4, 8, 12, 16, 24, 32]
  let n : Bridge := { b with
    up := m, width := w, rate := min (if s.helm.clocks.drSet then 16 else 32) r, fullRate := r, keepAlive := false,
    leftOut := (List.range 4).filter (fun k => ! m.contains k) }
  (¬ able → t = s) ∧
  (able → Only s t { bridges := [v.1] } ∧
    t.bridge v.1 = if m.length * w * n.rate < 544 then n.event evLinkDegraded else n)

/-- A tower on the fast path (R341, R347, R361, R362): kept, in service again; out as before, or shed; or, when its training fails,
trained again and zeroed, which a record tells. -/
def TowerResumed (bad shed : Nat → Bool) (s : State) (f : Nat) (t : State) : Prop :=
  let q := s.field f
  let out := q.settings.any (·.withdrawn) = true ∨ q.railsLatch = true ∨ shed f = true
  (out → ∃ u, FieldBecomes s u f { q with withdrawn := true } ∧ Arisen u t reasonLosses) ∧
  (¬ out → bad f = true → ∃ u, FieldBecomes s u f { q with tower := Memory.zero, trained := true, sr := false, withdrawn := false } ∧
    Only u t { helm := true } ∧
    (let a := arisen u.helm.steps reasonZeroed
     t.helm = { u.helm with steps := a, log := u.helm.log.soft s.cycle s.mono (stepRec a reasonZeroed f) })) ∧
  (¬ out → bad f = false → FieldBecomes s t f { q with trained := true, sr := false, withdrawn := false })

/-- A tower on the full path (R347, R358, R402): every byte zero, trained, its field record made anew; one whose channels fail, that is
still training at the step's maximum time or whose rails are latched off is out of service. -/
def TowerTrained (failed : List (Nat × Nat)) (shed : Nat → Bool) (s : State) (f : Nat) (t : State) : Prop :=
  let q := s.field f
  let out := failed.any (fun v => decide (v.1 = f)) || shed f || q.railsLatch
  ∃ u, Only s u { fields := [f], fresh := true } ∧ u.fresh = s.fresh + 1 ∧
    u.field f = { q with
      tower := Memory.zero, trained := ! out, sr := false, withdrawn := out, towerRails := ! q.railsLatch,
      settings := some { towerOk := ! out, withdrawn := out, lanesOk := false, logPos := s.helm.log.count, draw := s.fresh,
                         failed := (failed.filter (fun v => decide (v.1 = f))).map (·.2), laneIn := [], laneOut := [] } } ∧
    (out = true → Arisen u t reasonLosses) ∧ (out = false → t = u)

/-- TOWERS, on the path that R361 gives: the fast one keeps every tower; the full one says in a record why, ends the summary and zeroes
every tower. -/
def TowersStarted (failed : List (Nat × Nat)) (shed : Nat → Bool) (s t : State) : Prop :=
  let h := s.helm
  let out := fun (s : State) (f : Nat) (t : State) => TowerResumed (fun f => failed.any (fun v => decide (v.1 = f))) shed s f t
  (s.fastFails = none → ∃ u v, Only s u { helm := true } ∧
    u.helm = { h with steps := { h.steps with fast := true, fastPath := true } } ∧ Chained out u (List.range 144) v ∧ StepEnded v t) ∧
  (∀ k, s.fastFails = some k → ∃ u v, Only s u { helm := true } ∧
    u.helm = { h with
      steps := { h.steps with fastPath := false }, summary := { h.summary with valid := false },
      log := h.log.soft s.cycle s.mono { recOf 0x46 .firmware with detail := leBytes 1 k } } ∧
    Chained (TowerTrained failed shed) u (List.range 144) v ∧ StepEnded v t)

/-- A link is down (R349): PORT_OFF at both ends. -/
def LinkCut (s : State) (v : Nat × Nat × Nat) (t : State) : Prop :=
  { t with routers := s.routers } = s ∧
  (siteOk v.1 v.2.1 = true →
    let off := fun (r : Router) (p : Nat) => { r with fence := setBit r.fence (4 + p) true }
    t.router v.1 v.2.1 = off (s.router v.1 v.2.1) v.2.2 ∧
    (∀ x y, beyond v.1 v.2.1 v.2.2 = some (x, y) → t.router x y = off (s.router x y) (opposite v.2.2)) ∧
    (∀ x y, siteOk x y = true → (x, y) ≠ (v.1, v.2.1) → beyond v.1 v.2.1 v.2.2 ≠ some (x, y) → t.router x y = s.router x y))

/-- Route set-up (R145, R146, R156, R349, R350): PORT_OFF toward what is down, dead or lost; class trees 0 to 4, which deliver at every
site of the class without an entry in the map; the lane maps of the report trees, as the operand gives them (log 28). -/
structure RoutesSet (s t : State) (down : List (Nat × Nat × Nat)) (tables : List (Nat × Nat × Nat × Word)) : Prop where
  rest    : { t with routers := s.routers, fields := s.fields, helm := s.helm } = s
  fields  : ∀ f, { t.field f with savedRouters := (s.field f).savedRouters } = s.field f
  routers : ∀ x y, siteOk x y = true →
    let r := s.router x y
    { t.router x y with fence := r.fence, dtSite := r.dtSite, mcTree := r.mcTree, laneMap := r.laneMap, joins := r.joins,
                        laneFault := r.laneFault } = r ∧
    ∀ b, b < 4 → bitB (t.router x y).fence b = bitB r.fence b
  links   : (∀ f ∈ s.helm.lostFields, f < 144) → ∀ v ∈ down, siteOk v.1 v.2.1 = true → v.2.2 < 4 →
    bitB (t.router v.1 v.2.1).fence (4 + v.2.2) = true ∧
    ∀ x y, beyond v.1 v.2.1 v.2.2 = some (x, y) → bitB (t.router x y).fence (4 + opposite v.2.2) = true
  dead    : (∀ f ∈ s.helm.lostFields, f < 144) → ∀ d ∈ s.helm.map, d.2.2 = true → siteOk d.1 d.2.1 = true →
    ∀ p x y, p < 4 → beyond d.1 d.2.1 p = some (x, y) → bitB (t.router x y).fence (4 + opposite p) = true
  lost    : ∀ f ∈ s.helm.lostFields, f < 144 → ∀ x y p, Faces f x y p → (s.field (fieldOf x y)).rails = true →
    bitB (t.router x y).fence (4 + p) = true
  trees   : ∀ k x y, k ∈ classes → siteOk x y = true → (s.field (fieldOf x y)).rails = true →
    mtValid (tgetD (t.router x y).mcTree k.code 0) = true →
    mtLocal (tgetD (t.router x y).mcTree k.code 0) = (decide (clsOf x y = k) && ! s.helm.map.any (fun d => d.1 = x && d.2.1 = y))
  others  : ∀ n x y, siteOk x y = true → (∀ k ∈ classes, n ≠ k.code) → tgetD (t.router x y).mcTree n 0 = tgetD (s.router x y).mcTree n 0
  maps    : ∀ v ∈ tables, siteOk v.1 v.2.1 = true → v.2.2.1 % 4 = 0 → 0x100 ≤ v.2.2.1 → v.2.2.1 < 0x150 →
    tables.filter (fun u => decide (siteIx u.1 u.2.1 = siteIx v.1 v.2.1 ∧ u.2.2.1 = v.2.2.1)) = [v] →
    tgetD (t.router v.1 v.2.1).laneMap ((v.2.2.1 - 0x100) / 4) 0 = v.2.2.2 &&& 0xFE000000#32

/-- MESH_TEST (R349, R350): on the full path the operand's links that fail among those it tests, on the fast path those of the summary,
are down; the map, the order of the routes and the routers follow; without a path to the helm the step fails. -/
def MeshTested (s t : State) (badLinks : List (Nat × Nat × Nat)) (tables : List (Nat × Nat × Nat × Word)) : Prop :=
  let h := s.helm
  let fast := h.steps.fastPath
  let down := if fast then h.summary.down else badLinks.filter s.tested
  let steps := { h.steps with fast := fast }
  let recs := if fast then [] else down.map (fun v => { recOf 0x30 .firmware with flags := 1, site := siteWord v.1 v.2.1 v.2.2 })
  ∃ u, RoutesSet s u down tables ∧
    u.helm = { h with
      steps := if down = [] then steps else arisen steps reasonLosses, summary := { h.summary with down := down },
      log := recs.foldl (fun (l : Logbook) r => l.soft s.cycle s.mono r) h.log, defects := h.map,
      order := some { dead := (h.map.filter (fun d => d.2.2)).map (fun d => (d.1, d.2.1)), lost := h.lostFields, cut := down } } ∧
    (u.helmLandings = [] → StepFailed u t reasonHelmPath 0) ∧ (u.helmLandings ≠ [] → StepEnded u t)

/-- The map and the Logbook take the fence of a site (R13, R368, R373). -/
def FenceLogged (s t : State) (d : Nat × Nat × Bool) : Prop :=
  let full := decide (960 ≤ s.helm.log.fences.length)
  let recs := (if full then [{ recOf 0x11 .firmware with site := siteWord d.1 d.2.1 0 }] else []) ++ [fenceRec d full]
  Only s t { helm := true } ∧ t.helm = { s.helm with
    defects := addDefect s.helm.defects d,
    log := recs.foldl (fun (l : Logbook) r => l.soft s.cycle s.mono { r with origin := .firmware })
      { s.helm.log with fences := s.helm.log.fences ++ (if full then [] else [fenceEntry d]) } }

/-- DEFECTS (R13, R14, R19, R146, R150, R355): the map is in force in every field with its rails up; towers that no P-cell serves are out;
records and stores tell it, and the classes below their minimum. -/
def DefectsApplied (s t : State) : Prop :=
  let h := s.helm
  ∃ u,
    let out := fun (f : Nat) => (s.field f).withdrawn || u.unserved f
    let recs := ((List.range 144).filter out).map (fun f => { recOf 0x36 .firmware with flags := 1, field := f }) ++
      (classes.filter u.isBelow).map (fun k => { recOf 0x12 .firmware with index := k.code, detail := leBytes 4 (u.usable k) })
    { u with routers := s.routers, fields := s.fields, helm := h } = s ∧
    u.helm = { h with
      defects := h.map, steps := if u.belowMinimum then arisen h.steps reasonMinimum else h.steps,
      log := recs.foldl (fun (l : Logbook) r => l.soft s.cycle s.mono r) h.log } ∧
    (∀ f, f < 144 → u.field f = { s.field f with withdrawn := out f, frsOut := (u.field f).frsOut } ∧
      ∀ g, g < 144 → bitB (tgetD (u.field f).frsOut (g / 32) 0) (g % 32) = (bitB (tgetD (s.field f).frsOut (g / 32) 0) (g % 32) || out g)) ∧
    (∀ f, 144 ≤ f → u.field f = s.field f) ∧
    (∀ x y, siteOk x y = true →
      { u.router x y with fence := (s.router x y).fence, dtSite := (s.router x y).dtSite } = s.router x y) ∧
    (∀ d ∈ h.map, siteOk d.1 d.2.1 = true → (s.field (fieldOf d.1 d.2.1)).rails = true →
      (d.2.2 = false → bitB (u.router d.1 d.2.1).fence 0 = true ∧
        ((∀ e ∈ h.map, siteIx e.1 e.2.1 = siteIx d.1 d.2.1 → e = d) → bitB (u.router d.1 d.2.1).fence 2 = u.pairServes d.1 d.2.1)) ∧
      (d.2.2 = true → ∀ p x y, p < 4 → beyond d.1 d.2.1 p = some (x, y) → bitB (u.router x y).fence (4 + opposite p) = true)) ∧
    StepEnded u t

/-- PEERS (R22, R303, R306, R356-R359): of each lane whose port leads to a module of the board, the lane is in service when its training
and test end well, or out until module reset with a record; stores and field records hold what came of it. `good` is how the lanes
train: the step that the peer's lane is in. -/
def PeersStarted (s t : State) (good : Nat → Nat → Option Nat) : Prop :=
  let h := s.helm
  let fast := h.steps.fastPath
  let peer := fun (k : Nat) => portPeer h.pins.topo s.myMod k
  let wrong := fun (k n : Nat) => decide ((s.lane k n).state = .miswired ∨ (s.lane k n).state = .version)
  let ok := fun (k n : Nat) => if wrong k n then none else good k n
  let saved := fun (k n : Nat) => fast && ((s.field (fieldOfLane k n)).settings).any (fun r => r.laneOut.contains (96 * k + n))
  let dark := fun (k n : Nat) => saved k n || s.routerDead (siteOfLane k n).1 (siteOfLane k n).2 || ! (s.field (fieldOfLane k n)).rails
  let fails := ((List.range 6).flatMap (fun k => (List.range 96).map (fun n => (k, n)))).filter (fun v =>
    (peer v.1).isSome && (ok v.1 v.2).isNone && ! saved v.1 v.2)
  (h.pins.topo = 3 → StepFailed s t reasonTopo 0) ∧
  (h.pins.topo ≠ 3 → ∃ u,
    { u with lanes := s.lanes, fields := s.fields, helm := h } = s ∧
    u.helm = { h with
      steps := (let a := { h.steps with fast := fast }; if fails = [] then a else arisen a reasonLosses),
      log := fails.foldl (fun (l : Logbook) v => l.soft s.cycle s.mono
        { recOf 0x32 .firmware with flags := 1, index := 256 * v.1 + v.2 }) h.log } ∧
    (∀ k n, k < 6 → n < 96 →
      let l := s.lane k n
      (peer k = none → u.lane k n = l) ∧
      (∀ m, peer k = some m →
        (ok k n = none → u.lane k n = { Lane.reset with
          state := if wrong k n then l.state else .training, out := true, ver := l.ver, peer := l.peer, peerStep := l.peerStep }) ∧
        (∀ st, ok k n = some st → u.lane k n = if dark k n then { l with out := true, state := .training } else { Lane.reset with
          state := .up, ver := 1, peer := m, peerStep := st, hello := true, sentKA := l.sentKA, peerKA := l.peerKA, synced := true }))) ∧
    (∀ f, f < 144 →
      let mine := fun (b : Lane → Bool) => (List.range 576).filter (fun i => decide (fieldOfLane (i / 96) (i % 96) = f) && b (u.lane (i / 96) (i % 96)))
      u.field f = { s.field f with
        frsModules := (u.field f).frsModules,
        settings := if fast then (s.field f).settings else (s.field f).settings.map (fun r => { r with
          lanesOk := true, laneIn := mine (fun l => decide (l.state = .up)), laneOut := mine (fun l => l.out) }) } ∧
      ∀ b, b < 32 → (bitB (u.field f).frsModules b = true ↔
        b < 4 ∧ ∃ k, k < 6 ∧ peer k = some b ∧ ∃ n, n < 96 ∧ (u.lane k n).state = .up)) ∧
    (∀ f, 144 ≤ f → u.field f = s.field f) ∧ StepEnded u t)

end Sys2Proof.Claims

/-- CLOCKS, HELM_LOAD, HELM_VERIFY and TOWERS (R265, R314, R339-R342, R346, R347, R358, R361, R362, R389-R391): crystals and loops, the
helm's own clock and the host links; the image that is found, its checks in their order, and firmware as it starts, with the rollback
and revocations it commits and the overflow fences renewed; the towers on the fast and the full path. A step's command has no effect
while that step is not in progress (the model's choice, log 7); an operand that names nothing of the module faults. -/
def Obligations.StartUpReachesTheTowers : Prop :=
  ∀ (s : State) (h : Nat) (a b : Bool) (img : List Byte) (links : List (Nat × List Nat × Nat × Nat)) (bad : List (Nat × Nat)),
    let hm := s.helm
    let w := hm.fw
    ((∃ v ∈ links, 4 ≤ v.1) → exec (.clocks a b links) s = .fault .noSuchHostSite) ∧
    ((∀ v ∈ links, v.1 < 4) →
      (¬ InStep s 1 → exec (.clocks a b links) s = .next s) ∧
      (InStep s 1 →
        let c := hm.clocks
        let c1 := { c with
          okA := a, lockA := a, failA := c.failA || ! a, failAtA := if a then c.failAtA else some s.cycle,
          okB := b, lockB := b, failB := c.failB || ! b, failAtB := if b then c.failAtB else some s.cycle }
        let recs := (if a then [] else [{ recOf 0x40 .bootRom with detail := [0, 0] }]) ++
          (if b then [] else [{ recOf 0x40 .bootRom with detail := [1, 0] }])
        let log := recs.foldl (fun (l : Logbook) r => l.soft s.cycle s.mono r) hm.log
        ∃ u t, exec (.clocks a b links) s = .next t ∧ Only s u { helm := true } ∧
          (a = false ∧ b = false → u.helm = { hm with clocks := c1, log := log } ∧ StepFailed u t reasonClock 0) ∧
          (a = true ∨ b = true → u.helm = { hm with clocks := { c1 with helmSrc := true, sel := ! a }, mcPhase := true, log := log } ∧
            ∃ v, Chained LinkTrained u links v ∧ StepEnded v t))) ∧
    (4 ≤ h → exec (.helmLoad h img) s = .fault .noSuchHostSite) ∧
    (h < 4 → ¬ InStep s 2 → exec (.helmLoad h img) s = .next s) ∧
    (h < 4 → InStep s 2 →
      let b := s.bridge h
      let host := bitB b.imgLo 0
      let head := if host then img else b.imgWin.read 0 256
      let len := leAt head 8 4
      let found := leAt head 0 4 = 0x53424C52 ∧ 256 ≤ len ∧ len ≤ 8 * 2 ^ 20 ∧
        (host = true → inWindow b (fld b.imgLo 31 6 * 64 + fld b.imgHi 15 0 * 2 ^ 32) len = true)
      ∃ u t, exec (.helmLoad h img) s = .next t ∧
        (found → Only s u { helm := true } ∧
          u.helm = { hm with fw := { w with image := if host then padTo len img else b.imgWin.read 0 len } } ∧ StepEnded u t) ∧
        (¬ found → StepFailed s t reasonImage 0)) ∧
    (¬ InStep s 3 → exec .helmVerify s = .next s) ∧
    (InStep s 3 →
      let l := w.image
      let note := fun (code : Code) => hm.log.soft s.cycle s.mono { recOf 0x06 .bootRom with code := code, detail := (l.drop 32).take 12 }
      let fails := fun (reason : Nat) (code : Code) => ∃ u t, exec .helmVerify s = .next t ∧ Only s u { helm := true } ∧
        u.helm = { hm with log := note code } ∧ StepFailed u t reason code
      (imageHead l = none → fails reasonImage 0) ∧
      (∀ d, imageHead l = some d →
        let sig := l.drop d.sigOff
        let slot := byteAt sig 2
        let form := d.kind = 0 ∧ l.length ≤ 8 * 2 ^ 20 ∧ d.firmwareSecs = true
        let signed := d.flags % 2 = 1 ∧ measureOf l d.sigOff = d.measurement ∧ slot < 4 ∧
          sha512 ((sig.drop 4).take 133) = leBytes 64 (lgetD hm.otp.keys slot 0).toNat ∧ bitB hm.otp.revoked slot = false ∧
          sigOk l d.sigOff slot 0 = true
        (¬ form → fails reasonImage 0) ∧
        (form → ¬ signed → fails reasonSecurity secImageSignature) ∧
        (form → signed → d.svn < hm.otp.rollback → fails reasonSecurity secRollback) ∧
        (form → signed → hm.otp.rollback ≤ d.svn → ∃ u t, exec .helmVerify s = .next t ∧ Only s u { helm := true, fresh := true } ∧
          u.fresh = s.fresh + 2 ∧
          u.helm = { hm with
            otp := { hm.otp with
              rollback := if d.flags.testBit 1 then max hm.otp.rollback d.svn else hm.otp.rollback,
              revoked := if d.flags.testBit 2 then hm.otp.revoked ||| BitVec.ofNat 4 (2 ^ slot - 1) else hm.otp.revoked },
            fw := { w with
              running := true, major := d.major, minor := d.minor, svn := d.svn, measurement := d.measurement, keyDraw := s.fresh,
              keyMono := s.mono, microcode := (d.secs.filter (fun v => decide (v.1 = 2))).map (·.2) },
            pins := { hm.pins with jtag := if hm.pins.jtag = 3 then 0 else hm.pins.jtag },
            log := (sortBy (fun a b => decide (a.1 ≤ b.1)) hm.log.overflow).foldl (fun (l : Logbook) c =>
              l.soft s.cycle s.mono (fenceRec (defectOf c.2) true)) (note 0) } ∧
          StepEnded u t))) ∧
    ((∃ v ∈ bad, 144 ≤ v.1 ∨ 64 ≤ v.2) → exec (.towers bad) s = .fault .noSuchField) ∧
    ((∀ v ∈ bad, v.1 < 144 ∧ v.2 < 64) →
      (¬ InStep s 4 → exec (.towers bad) s = .next s) ∧
      (InStep s 4 → ∃ t, exec (.towers bad) s = .next t ∧ TowersStarted bad (fun _ => false) s t)) ∧
    (let late := hm.log.ring.any (fun r => decide (r.flags % 2 = 1) && decide (hm.summary.logPos ≤ r.seq) &&
       ! (decide (r.type = 0x36) && decide (r.seq < hm.readyPos.getD 0)))
     s.fastFails =
      if hm.steps.warm = false ∨ hm.readyPos = none then some 1
      else if hm.steps.resetForce = true ∨ hm.steps.forceFull = true then some 2
      else if hm.summary.valid = false ∨ hm.summary.major ≠ w.major then some 3
      else if (List.range 144).any (fun f => (s.field f).settings.isNone) = true ∨ s.recordCrcs ≠ hm.summary.fieldCrc then some 4
      else if late then some 5 else none)

/-- FIELDS_POWER, ROSE_LOCK, MESH_TEST, CELL_MICROCODE, DEFECTS, PEERS and READY (R13, R15, R18, R19, R156, R231, R238, R306, R316, R342,
R347-R350, R354-R358, R360, R365): what each step puts in service, what it loses and records, and where it fails; READY makes every
locked field Underway. A step's command has no effect while that step is not in progress (the model's choice, log 7); an operand that names
nothing of the module faults. -/
def Obligations.StartUpReachesService : Prop :=
  ∀ (s : State) (fs : List Nat) (bad : List (Nat × Nat × Nat)) (tables : List (Nat × Nat × Nat × Word)) (inc : List (Nat × Nat)),
    let h := s.helm
    (∀ i n, (i, n) ∈ [(Instr.fieldsPower fs, 5), (.roseLock fs, 6)] →
      ((∃ f ∈ fs, 144 ≤ f) → exec i s = .fault .noSuchField) ∧ ((∀ f ∈ fs, f < 144) → ¬ InStep s n → exec i s = .next s)) ∧
    ((∀ f ∈ fs, f < 144) → InStep s 5 → ∃ u t, exec (.fieldsPower fs) s = .next t ∧
      Chained (fun s f t => (f ∈ fs → FieldLost s t f fieldPowerLost (recOf 0x34 .logger) false) ∧ (f ∉ fs → RailsRisen s t f))
        s (List.range 144) u ∧ EndedUnlessFailed u t) ∧
    ((∀ f ∈ fs, f < 144) → InStep s 6 → ∃ u v w t, exec (.roseLock fs) s = .next t ∧
      Chained (fun s f t => FieldLost s t f fieldPowerLost (recOf 0x34 .logger) false) s
        ((List.range 144).filter (fun f => (s.field f).rails && fs.contains f)) u ∧
      Only u v { fields := List.range 144 } ∧
      (∀ f, f < 144 → v.field f = if (u.field f).rails then
        { u.field f with oscEn := true, locked := true, lockSince := none, slip := 0 } else u.field f) ∧
      Chained (fun s f t => Rejoined s t f) v ((List.range 144).filter (fun f => (u.field f).rails)) w ∧ EndedUnlessFailed w t) ∧
    (let sites := (∀ v ∈ bad, siteOk v.1 v.2.1 = true) ∧ ∀ v ∈ tables, siteOk v.1 v.2.1 = true
     (¬ sites → exec (.meshTest bad tables) s = .fault .noSuchSite) ∧
     (sites → ¬ InStep s 7 → exec (.meshTest bad tables) s = .next s) ∧
     (sites → InStep s 7 → ∃ t, exec (.meshTest bad tables) s = .next t ∧ MeshTested s t bad tables)) ∧
    ((∃ v ∈ inc, siteOk v.1 v.2 = false) → exec (.cellMicrocode inc) s = .fault .noSuchSite) ∧
    ((∀ v ∈ inc, siteOk v.1 v.2 = true) →
      (¬ InStep s 8 → exec (.cellMicrocode inc) s = .next s) ∧
      (InStep s 8 → ∃ u v t, exec (.cellMicrocode inc) s = .next t ∧
        { u with cells := s.cells, fields := s.fields, helm := h } = s ∧ u.helm = { h with steps := { h.steps with fast := h.steps.fastPath } } ∧
        (∀ f, u.field f = if f < 144 ∧ (s.field f).rails = true then
          { s.field f with mcBase := (List.range 5).map (fun k => (k, mcFull (lgetD h.fw.microcode k []))) } else s.field f) ∧
        (∀ x y, siteOk x y = true → u.cell x y = if (s.field (fieldOf x y)).rails then { s.cell x y with mc := none } else s.cell x y) ∧
        Chained (fun s c t => (s.bodyOut c.1 c.2 = true → t = s) ∧
          (s.bodyOut c.1 c.2 = false → ∃ a, FenceLogged s a (c.1, c.2, false) ∧ Arisen a t reasonLosses)) u
          (inc.filter (fun c => (s.field (fieldOf c.1 c.2)).rails && ! s.bodyOut c.1 c.2)) v ∧ StepEnded v t)) ∧
    (¬ InStep s 9 → exec .defects s = .next s) ∧
    (InStep s 9 → ∃ t, exec .defects s = .next t ∧ DefectsApplied s t) ∧
    (∀ good, ((∃ v ∈ good, 6 ≤ v.1 ∨ 96 ≤ v.2.1) → exec (.peers good) s = .fault .noSuchLane) ∧
      ((∀ v ∈ good, v.1 < 6 ∧ v.2.1 < 96) →
        (¬ InStep s 10 → exec (.peers good) s = .next s) ∧
        (InStep s 10 → ∃ t, exec (.peers good) s = .next t ∧
          PeersStarted s t (fun k n => (good.find? (fun v => decide (v.1 = k) && decide (v.2.1 = n))).map (·.2.2))))) ∧
    (¬ InStep s 11 → exec .ready s = .next s) ∧
    (InStep s 11 → ∃ u t, exec .ready s = .next t ∧
      (u.pending = s.pending ∧ u.cycle = s.cycle ∧ u.mono = s.mono ∧ u.slowAt = s.slowAt ∧ u.fresh = s.fresh + 4 ∧ u.lanes = s.lanes ∧
        u.bridges = s.bridges ∧ u.sessions = s.sessions) ∧
      u.helm = { h with
        service := true, readyPos := some h.log.count, mcPhase := false, nextRunId := 0, counters := [], portCnt := [],
        summary := if h.steps.fastPath then h.summary else { h.summary with
          valid := decide (h.summary.down.length ≤ 1024), major := h.fw.major, logPos := h.log.count, fieldCrc := s.recordCrcs } } ∧
      (∀ p, let q := s.part p
        u.part p = if p < 4 then { q with
          chainOn := true, chainId := leBytes 32 (Config.random256 (s.fresh + p)).toNat, chainSeq := 0, records := [], seals := [],
          sealAt := s.cycle, sealSeq := 0, counters := (u.part p).counters } else { q with counters := (u.part p).counters }) ∧
      (∀ f, u.field f = if f < 144 ∧ (s.field f).rails = true ∧ (s.field f).locked = true then
        { s.field f with power := .underway, gates := 0, fieldGate := false, idleSince := some s.cycle, lullTry := none } else s.field f) ∧
      (∀ x y, siteOk x y = true → u.router x y = { s.router x y with total := [] } ∧
        (let c := s.cell x y
         u.cell x y = { c with pc := { c.pc with fixedSum := 0 }, sg := { c.sg with winSum := 0, skipSum := 0 } })) ∧
      StepEnded u t)

/-- RUN_ON_NEXT_STEP and STEP_TIMEOUT (R340, R341, R347, R356, R363, R364): RUN_ON begins the next step once one has ended; a step that has
passed its maximum time fails, TOWERS and PEERS go on without what is unfinished; before that time nothing happens. -/
def Obligations.StepsBeginAndTimeOut : Prop :=
  ∀ (s : State) (l : List Nat),
    let k := s.helm.steps
    let ends := k.runOn = true ∧ (k.state = 2 ∨ k.state = 3) ∧ 1 ≤ k.step ∧ k.step < 11
    let split := k.step = 4 ∨ k.step = 10
    let fast := (if k.step = 4 then s.fastFails = none else k.fastPath = true) ∧ ¬ (split ∧ l ≠ [])
    let late := fun (limits : List Nat) => k.since + lgetD limits (k.step - 1) 50 * msec ≤ s.cycle
    let isLate := (fast → late [50, 100, 100, 600, 100, 300, 2000, 500, 2000, 1500, 50]) ∧
      (¬ fast → late [50, 100, 100, 70000, 100, 300, 8000, 500, 2000, 30000, 50])
    (ends → ∃ t, exec .runOnNextStep s = .next t ∧ Only s t { helm := true } ∧ t.helm = { s.helm with steps := { k with
      step := k.step + 1, state := 1, fast := false, reason := 0, code := 0, since := s.cycle } }) ∧
    (¬ ends → exec .runOnNextStep s = .next s) ∧
    (k.state ≠ 1 ∨ ¬ isLate → exec (.stepTimeout l) s = .next s) ∧
    (k.state = 1 → isLate → ∃ t, exec (.stepTimeout l) s = .next t ∧
      (k.step = 4 → TowersStarted [] (fun f => l.contains f) s t) ∧
      (k.step = 10 → PeersStarted s t (fun p n => if l.contains (96 * p + n) then none else some (s.lane p n).peerStep)) ∧
      (¬ split → StepFailed s t reasonTimeout 0))

/-- MODULE_RESET, RESET_N, INPUT_OUT_OF_RANGE, RIM_DIE_OVERTEMP, INPUT_IN_RANGE and HOST_DIE_START (R20, R265, R266, R271, R339, R342, R348,
R359, R361, R366, R370, R371, R396-R400): a reset keeps the OTP, the Logbook, the towers and what is always on, and nothing of the
partitions; an input loss leaves MRAM, fuses and straps, and the logger's last writes; power-up counts on from the newest record. -/
def Obligations.ResetsAndSuppliesKeepWhatTheySay : Prop :=
  ∀ (s : State) (force : Bool) (h : Nat),
    let hm := s.helm
    let log := hm.log
    let one := fun (b : Bridge) => ({ b with
      linkUp := true, up := ((List.range 4).filter (fun m => ! b.leftOut.contains m)).take 1, width := 16, rate := 4, fullRate := 4 } : Bridge)
    let slow := fun (b : Bridge) => if b.keepAlive then b else b.event evLinkDegraded
    (∀ i, (i = .moduleReset force ∨ (i = .resetN ∧ force = false)) →
      (hm.pins.inRange = false → exec i s = .next s) ∧
      (hm.pins.inRange = true → ∃ t, exec i s = .next t ∧ t.pending = s.pending ∧ t.cycle = s.cycle ∧ t.mono = s.mono ∧
        t.slowAt = s.slowAt ∧ t.routers = [] ∧ t.lanes = [] ∧ t.partitions = [] ∧ t.sessions = [] ∧
        (let seals := (List.range 4).filter (fun p => hm.fw.running && decide ((s.part p).records ≠ []) && (s.part p).chainOn &&
           decide ((s.part p).sealSeq < (s.part p).chainSeq))
         t.fresh = s.fresh + seals.length + 1 ∧
         t.helm = { Helm.reset with
           steps := { Steps.reset with resetForce := force, warm := true }, clocks := { Clocks.reset with drift := hm.clocks.drift },
           otp := hm.otp, summary := hm.summary, pins := { hm.pins with thermtrip := false }, readyPos := hm.readyPos,
           log := ({ log with waiting := [] } : Logbook).hard s.mono { recOf 0x01 .logger with detail := [1] } } ∧
         ∀ f, f < 144 →
          let q := s.field f
          let kept := q.rails && q.awake
          t.field f = { Field.reset with
            power := if kept then q.power else .doldrums, rails := kept, gates := if kept then q.gates else 0,
            fieldGate := kept && q.fieldGate, litAt := s.cycle, sr := q.towerRails, tj := q.tj, sensor := q.sensor, td := q.td,
            tower := q.tower, trained := q.trained, towerRails := q.towerRails, railsLatch := q.railsLatch, settings := q.settings,
            mcBase := (t.field f).mcBase, lostGen := s.fresh + seals.length } ∧
          (kept = false → (t.field f).mcBase = []) ∧
          (kept = true → ∀ k, tget (t.field f).mcBase k = (tget q.mcBase k).map (fun m =>
            { m with complete := false, crcFail := false, badCrc := 0, crc := 0, expect := 0 }))) ∧
        (∀ x y, siteOk x y = true →
          { t.cell x y with data := Memory.zero, accGen := 0, pred := 0, mc := none } = Cell.reset ∧ (t.cell x y).data.cells = [] ∧
          ((∀ e ∈ s.cells, e.1 ≠ siteIx x y) → (t.cell x y).mc = none) ∧
          (∀ c, s.cells.filter (fun e => decide (e.1 = siteIx x y)) = [(siteIx x y, c)] →
            (t.cell x y).mc = if (s.field (fieldOf x y)).rails && (s.field (fieldOf x y)).awake then c.mc.map (fun m =>
              { m with complete := false, crcFail := false, badCrc := 0, crc := 0, expect := 0 }) else none)) ∧
        (∀ k, let b := s.bridge k
          let b1 := { Bridge.reset with
            hostUp := b.hostUp, linkUp := b.linkUp, leftOut := b.leftOut, retryAt := b.retryAt, bar0 := b.bar0, msixCtl := b.msixCtl,
            capRegs := b.capRegs, msixTable := b.msixTable, msixPending := b.msixPending, posted := b.posted, msix := b.msix,
            lastRead := b.lastRead }
          t.bridge k = if b.linkUp then slow (one b1) else b1))) ∧
    (∀ i recs, (i, recs) ∈ [(Instr.inputOutOfRange, [recOf 0x02 .logger]),
        (.rimDieOvertemp, [{ recOf 0x35 .logger with flags := 1, code := thermalCritical }, recOf 0x02 .logger])] →
      (hm.pins.inRange = false → exec i s = .next s) ∧
      (hm.pins.inRange = true → ∃ t, exec i s = .next t ∧ t.pending = s.pending ∧ t.cycle = s.cycle ∧ t.mono = s.mono ∧
        t.slowAt = s.slowAt ∧ t.fresh = s.fresh ∧ t.cells = [] ∧ t.routers = [] ∧ t.fields = [] ∧ t.lanes = [] ∧ t.partitions = [] ∧
        t.sessions = [] ∧
        t.helm = { Helm.reset with
          steps := { Steps.reset with
            step := if hm.steps.state = 1 then hm.steps.step else 0, state := if hm.steps.state = 1 then 4 else 0,
            reason := if hm.steps.state = 1 then (if hm.steps.reason = 0 then reasonSupply else hm.steps.reason) else 0 },
          otp := hm.otp, log := t.helm.log,
          pins := { Pins.reset with inRange := false, modId := hm.pins.modId, topo := hm.pins.topo } } ∧
        t.helm.log.stopped = true ∧ t.helm.log.queue = [] ∧ t.helm.log.waiting = [] ∧ t.helm.log.dropped = 0 ∧
        t.helm.log.fences = log.fences ∧ t.helm.log.wall = log.wall ∧ t.helm.log.wallOk = log.wallOk ∧
        (log.queue = [] → (∀ k, log.keep = some k → log.count + 1 < k + ringPlaces) →
          let flag := fun (r : LogRec) => { r with mono := s.mono, wall := log.wall, flags := r.flags + (if log.wallOk then 4 else 0) }
          let put := (recs.map flag).foldl (fun (v : List LogRec × Nat) r => (({ r with seq := v.2 } :: v.1).take ringPlaces, v.2 + 1))
            (log.ring, log.count)
          t.helm.log.ring = put.1 ∧ t.helm.log.count = put.2 ∧ t.helm.log.keep = log.keep ∧ t.helm.log.overflow = log.overflow) ∧
        ∀ k, t.bridge k = { Bridge.reset with hostUp := (s.bridge k).hostUp, posted := (s.bridge k).posted, msix := (s.bridge k).msix })) ∧
    (hm.pins.inRange = true → exec .inputInRange s = .next s) ∧
    (hm.pins.inRange = false → ∃ t, exec .inputInRange s = .next t ∧
      (let mono := match log.ring with
         | r :: _ => r.mono + 1
         | [] => 0
       let l : Logbook := { log with
         queue := [], waiting := [], dropped := 0, lost := 0, wall := 0, wallOk := false, heldLo := [], capture := [], lastWrite := 0,
         stopped := false }
       let room := ∀ k, log.keep = some k → log.count < k + ringPlaces
       { t with mono := s.mono, bridges := s.bridges, helm := hm } = s ∧ t.mono = mono ∧
       t.helm = { hm with steps := Steps.reset, pins := { hm.pins with inRange := true }, log := t.helm.log } ∧
       (room → t.helm.log = { l with
         ring := ({ recOf 0x01 .logger with mono := mono, seq := log.count } :: log.ring).take ringPlaces, count := log.count + 1 }) ∧
       (¬ room → t.helm.log = { l with dropped := 1, lost := satInc 0 }) ∧
       ∀ k, let b := s.bridge k
         t.bridge k = if b.hostUp then slow (one b) else b)) ∧
    (4 ≤ h → exec (.hostDieStart h) s = .fault .noSuchHostSite) ∧
    (h < 4 → ∃ t, exec (.hostDieStart h) s = .next t ∧ Only s t { bridges := [h] } ∧
      (let b := s.bridge h
       let b1 := { b with hostUp := true }
       t.bridge h = if b.hostUp then b else if hm.pins.inRange then slow (one b1) else b1))

/-! ### Logbook, host links, service network, microcode, SMBus and JTAG -/

namespace Sys2Proof.Claims
open Sys2Proof.Machine

/-- A record as the queue takes it: MONO, WALL and the flag of a set wall time (R367, R369). -/
def stamped (l : Logbook) (mono : Nat) (r : LogRec) : LogRec :=
  { r with mono := mono, wall := l.wall, flags := r.flags + (if l.wallOk then 4 else 0) }

/-- A place of the queue has come free (R369): the record that has waited longest takes it; with none waiting, one LOST record tells what was
dropped. -/
def Refilled (l m : Logbook) (mono : Nat) : Prop :=
  (∀ r c w, l.waiting = (r, c) :: w → m = { l with waiting := w, queue := l.queue ++ [stamped l mono r] }) ∧
  (l.waiting = [] → l.dropped = 0 → m = l) ∧
  (l.waiting = [] → l.dropped ≠ 0 → m = { l with
    dropped := 0, queue := l.queue ++ [stamped l mono { recOf 0x04 .logger with index := l.dropped }] })

/-- The logbook after one record: it takes the next SEQ and the place of the oldest; the newest copy of an overflow fence sets LOG_KEEP
(R366, R371, R373). -/
def written (l : Logbook) (r : LogRec) : Logbook :=
  let copies := (l.overflow.filter (fun c => decide (c.2 ≠ fenceEntry r.defect))) ++ [(l.count, fenceEntry r.defect)]
  { l with
    ring := ({ r with seq := l.count } :: l.ring).take 65472, count := l.count + 1,
    overflow := if r.kept then copies else l.overflow, keep := if r.kept then (copies.map (·.1)).min? else l.keep }

/-- A record may be written: below the limit of LOG_KEEP, or as a renewal in the place of an earlier copy for its site (R373). -/
def Room (l : Logbook) (r : LogRec) : Prop :=
  (∀ k, l.keep = some k → l.count < k + 65472) ∨
    (r.kept = true ∧ ∃ o, l.ring.find? (fun o => decide (o.seq + 65472 = l.count)) = some o ∧ o.type = 0x10 ∧ o.site = r.site)

/-- Only the Logbook changes. -/
def LogBecomes (s t : State) (l : Logbook) : Prop := Only s t { helm := true } ∧ t.helm = { s.helm with log := l }

end Sys2Proof.Claims

/-- LOG_RECORD_WRITE, BOOT_ROM_RECORD_DROP, FENCE_RENEWAL, LOG_WALL_LO and HI writes, LOG_LO_READ (R289, R366, R369-R373): the record that has
waited longest takes the next SEQ, one in 2 µs; at the limit of LOG_KEEP a hardware event is dropped, a renewal passes, any other record
waits, the boot ROM's no longer than 10 ms; the oldest copy of a fence is written again when it has fallen far behind; the wall-time
mark changes as one value; a LO read captures the HI of the same moment. What waits at the limit is in part read from the spec (log 44). -/
def Obligations.LogbookWritesInOrder : Prop :=
  ∀ (s : State) (h off : Nat) (v : Word),
    let l := s.helm.log
    let held := l.stopped = true ∨ (l.lastWrite ≠ 0 ∧ s.cycle < l.lastWrite + 2 * usec)
    (held → exec .logRecordWrite s = .next s) ∧
    (¬ held → l.queue = [] → ∃ t, exec .logRecordWrite s = .next t ∧ LogBecomes s t l) ∧
    (¬ held → ∀ r rest, l.queue = r :: rest → ∃ t m, exec .logRecordWrite s = .next t ∧ LogBecomes s t { m with lastWrite := s.cycle } ∧
      (Room l r → Refilled (written { l with queue := rest } r) m s.mono) ∧
      (¬ Room l r → r.origin = .logger →
        Refilled { l with queue := rest, dropped := l.dropped + 1, lost := satInc l.lost } m s.mono) ∧
      (¬ Room l r → r.origin ≠ .logger →
        (∀ n q o, l.queue = n ++ q :: o → q.kept = true → Room l q → (∀ e ∈ n, e.kept = false ∨ ¬ Room l e) →
          Refilled (written { l with queue := n ++ o } q) m s.mono) ∧
        ((∀ q ∈ l.queue, q.kept = false ∨ ¬ Room l q) → m = l))) ∧
    (let isLate := fun (r : LogRec) => r.origin = .bootRom ∧ ¬ Room l r ∧ r.mono + 328 ≤ s.mono
     (l.stopped = true ∨ (∀ r, l.queue.head? = some r → ¬ isLate r) → ∃ t, exec .bootRomRecordDrop s = .next t ∧ LogBecomes s t l) ∧
     (l.stopped = false → ∀ r rest, l.queue = r :: rest → isLate r → ∃ t m, exec .bootRomRecordDrop s = .next t ∧ LogBecomes s t m ∧
       Refilled { l with queue := rest, dropped := l.dropped + 1, lost := satInc l.lost } m s.mono)) ∧
    (let due := fun (c : Nat × Word) => c ∈ l.overflow ∧ c.1 + 32768 ≤ l.count ∧
       ∀ r ∈ l.queue ++ l.waiting.map (·.1), r.kept = true → fenceEntry r.defect ≠ c.2
     ((∀ c, ¬ due c) ∨ s.helm.fw.running = false → exec .fenceRenewal s = .next s) ∧
     (s.helm.fw.running = true → (∃ c, due c) → ∃ c t, due c ∧ (∀ d, due d → c.1 ≤ d.1) ∧ exec .fenceRenewal s = .next t ∧
       Logged s t (fenceRec (defectOf c.2) true))) ∧
    (off ∉ [0x08, 0x10, 0x18, 0x28] → exec (.logLoRead h off) s = .fault .noSuchPart) ∧
    (4 ≤ h → exec (.logWallLoWrite h v) s = .fault .noSuchHostSite ∧ exec (.logWallHiWrite h v) s = .fault .noSuchHostSite ∧
      (off ∈ [0x08, 0x10, 0x18, 0x28] → exec (.logLoRead h off) s = .fault .noSuchHostSite)) ∧
    (h < 4 →
      let b := s.bridge h
      let gated := { b with gatedCount := satInc b.gatedCount, gatedStatus := setBit b.gatedStatus 2 true }
      (b.clocked 2 = false →
        (∃ t, exec (.logWallLoWrite h v) s = .next t ∧ Only s t { bridges := [h] } ∧ t.bridge h = gated) ∧
        (∃ t, exec (.logWallHiWrite h v) s = .next t ∧ Only s t { bridges := [h] } ∧ t.bridge h = gated) ∧
        (off ∈ [0x08, 0x10, 0x18, 0x28] → ∃ t, exec (.logLoRead h off) s = .next t ∧ Only s t { bridges := [h] } ∧
          t.bridge h = { gated with lastRead := [0, 0, 0, 0] })) ∧
      (b.clocked 2 = true →
        (∃ t, exec (.logWallLoWrite h v) s = .next t ∧ LogBecomes s t { l with heldLo := t.helm.log.heldLo } ∧
          ∀ k, tget t.helm.log.heldLo k = if k = h then some v else tget l.heldLo k) ∧
        (∃ t, exec (.logWallHiWrite h v) s = .next t ∧
          LogBecomes s t (({ l with wall := v.toNat * 2 ^ 32 + (tgetD l.heldLo h 0).toNat, wallOk := true } : Logbook).hard s.mono
            { recOf 0x03 .logger with index := h })) ∧
        (∀ n, (off, n) ∈ [(0x08, l.count), (0x10, l.wall), (0x18, s.mono), (0x28, l.keep.getD (2 ^ 64 - 1))] →
          ∃ t, exec (.logLoRead h off) s = .next t ∧ Only s t { bridges := [h], helm := true } ∧
            t.bridge h = { b with lastRead := wordBytes (word n) } ∧
            t.helm = { s.helm with log := { l with capture := t.helm.log.capture } } ∧
            t.logReg h (off + 4) = word (n / 2 ^ 32) ∧
            ∀ k, k ≠ 64 * h + off + 4 → tget t.helm.log.capture k = tget l.capture k)))

namespace Sys2Proof.Claims
open Sys2Proof.Machine

/-- A base die that the service network does not reach takes its alternate parent, once, when the helm is reached from it without
passing the die itself: no loop is formed (R28). -/
def ParentSwitched (s : State) (g : Nat) (t : State) : Prop :=
  let alt := if g % 12 = 0 then g + 1 else g - 1
  let due := (s.field g).altParent = false ∧ s.svcUp g = false ∧ s.reachesHelm g 288 (some alt) = true
  (due → FieldBecomes s t g { s.field g with altParent := true }) ∧ (¬ due → t = s)

end Sys2Proof.Claims

/-- HOST_MODULE_RETRY, HOST_LINK_RETRAIN, LINK_DEGRADED and SERVICE_PARENT_TIMEOUT (R28, R265, R266, R290, R319): a module that trains
joins its link, at most one attempt a second; the keep-alive and a slow link end in the link that was trained; a link that has
weakened leaves out what failed, and one below 64 GB/s of payload says so; a silent parent is given up by its child, and by each further
base die of the column that is reached no more. Which modules train is the operand (log 47). -/
def Sys2Proof.Claims.HostLinksAndServiceParentsChange : Prop :=
  ∀ (s : State) (h m w r f : Nat) (l : List Nat) (good : Bool),
    let b := s.bridge h
    (4 ≤ m → exec (.hostModuleRetry h m good) s = .fault .noSuchPart) ∧
    (4 ≤ h → (m < 4 → exec (.hostModuleRetry h m good) s = .fault .noSuchHostSite) ∧
      exec (.hostLinkRetrain h l w r) s = .fault .noSuchHostSite ∧ exec (.linkDegraded h l w r) s = .fault .noSuchHostSite) ∧
    (h < 4 →
      (m < 4 →
        let due := b.linkUp = true ∧ m ∈ b.leftOut ∧ b.retryAt + 1000 * msec ≤ s.cycle
        ∃ t, exec (.hostModuleRetry h m good) s = .next t ∧ Only s t { bridges := [h] } ∧
          (¬ due → t.bridge h = b) ∧ (due → good = false → t.bridge h = { b with retryAt := s.cycle }) ∧
          (due → good = true → t.bridge h = { b with
            retryAt := s.cycle, leftOut := b.leftOut.filter (fun k => decide (k ≠ m)), up := if b.keepAlive then b.up else b.up ++ [m] })) ∧
      (let slow := b.keepAlive = true ∨ b.up.length * b.width * b.rate < 544
       (slow → b.trainable l w r = true → ∃ t, exec (.hostLinkRetrain h l w r) s = .next t ∧ LinkTrained s (h, l, w, r) t) ∧
       (¬ slow ∨ b.trainable l w r = false → ∃ t, exec (.hostLinkRetrain h l w r) s = .next t ∧ Only s t {})) ∧
      (let weaker := b.keepAlive = false ∧ (∀ k ∈ l, k ∈ b.up) ∧ (l.length < b.up.length ∨ w < b.width ∨ r < b.rate) ∧
         w ≤ b.width ∧ r ≤ b.rate
       (weaker → b.trainable l w r = true → ∃ t, exec (.linkDegraded h l w r) s = .next t ∧ LinkTrained s (h, l, w, r) t) ∧
       (¬ weaker ∨ b.trainable l w r = false → ∃ t, exec (.linkDegraded h l w r) s = .next t ∧ Only s t {}))) ∧
    (144 ≤ f → exec (.serviceParentTimeout f) s = .fault .noSuchField) ∧
    (f < 144 → ∃ u t, exec (.serviceParentTimeout f) s = .next t ∧ FieldBecomes s u f { s.field f with primaryDead := true } ∧
      (s.helm.fw.running = false → t = u) ∧
      (s.helm.fw.running = true → Chained ParentSwitched u ((List.range (12 - f / 12)).map (fun k => f + 12 * k)) t))

namespace Sys2Proof.Claims
open Sys2Proof.Machine

/-- Only the microcode of one cell changes. -/
def McBecomes (s t : State) (x y : Nat) (m : Microcode) : Prop :=
  OnlyCell s t x y ∧ t.cell x y = { s.cell x y with mc := some m }

/-- The check of a whole image (R352): COMPLETE, or every chunk discarded and CRC_FAIL. -/
def checked (m : Microcode) : Microcode :=
  let c := dword (crc64 ((List.range m.count).flatMap (fun i => tgetD m.chunks i (zeros 224))))
  { m with crc := c, complete := decide (c = m.expect), crcFail := decide (c ≠ m.expect), chunks := if c = m.expect then m.chunks else [] }

end Sys2Proof.Claims

/-- MC_PORT, MC_CLEAR, MC_VERIFY and MC_REPORT (R351-R353): a chunk of the cell's class whose code is right is kept at its index, once, and
one whose code is wrong is counted; the last one has the image checked; CLEAR discards; VERIFY checks a whole image; REPORT puts its
101 items into the cell's own lane. The registers are there while microcode is sent or the field wakes, in cells that are in service. -/
def Obligations.MicrocodeIsTakenAndChecked : Prop :=
  ∀ (s : State) (x y : Nat) (fl : List Item),
    let m := s.mcOf x y
    let b := flitsBytes fl
    let d := b.drop 224
    let i := leAt d 0 2
    let all := [Instr.mcPort x y fl, .mcClear x y, .mcVerify x y, .mcReport x y]
    let here := (s.helm.mcPhase = true ∨ (s.field (fieldOf x y)).waking.isSome = true) ∧ s.bodyOut x y = false
    (siteOk x y = false → ∀ c ∈ all, exec c s = .fault .noSuchSite) ∧
    (siteOk x y = true → ¬ here → ∀ c ∈ all, exec c s = .next s) ∧
    (siteOk x y = true → here →
      let gives := fun (c : Instr) (n : Microcode) => ∃ t, exec c s = .next t ∧ McBecomes s t x y n
      let fits := fl.length = 8 ∧ byteAt d 2 = (clsOf x y).code ∧ i < 160 ∧ tget m.chunks i = none
      (m = (match (s.cell x y).mc with
        | some n => n
        | none => tgetD (s.field (fieldOf x y)).mcBase (clsOf x y).code Microcode.reset)) ∧
      (¬ fits → gives (.mcPort x y fl) m) ∧
      (fits → crc32 (b.take 224) ≠ leAt d 8 4 → gives (.mcPort x y fl) { m with badCrc := min (m.badCrc + 1) 255 }) ∧
      (fits → crc32 (b.take 224) = leAt d 8 4 →
        let n := { m with count := if m.count = 0 then leAt d 4 2 else m.count, chunks := tset m.chunks i (b.take 224) }
        let whole := 0 < n.count ∧ ∀ k, k < n.count → (tget n.chunks k).isSome = true
        (¬ whole → gives (.mcPort x y fl) n) ∧ (whole → gives (.mcPort x y fl) (checked { n with expect := dword (leAt d 16 8) }))) ∧
      gives (.mcClear x y) { m with chunks := [], count := 0, complete := false, crcFail := false } ∧
      (let whole := 0 < m.count ∧ ∀ k, k < m.count → (tget m.chunks k).isSome = true
       (whole → gives (.mcVerify x y) (checked m)) ∧ (¬ whole → gives (.mcVerify x y) m)) ∧
      (∃ t, exec (.mcReport x y) s = .next t ∧ Only s t { sites := [(x, y)] } ∧ t.cell x y = s.cell x y ∧
        { t.router x y with lanes := (s.router x y).lanes } = s.router x y ∧
        (t.router x y).lane 19 = (s.router x y).lane 19 ++
          (reportItems m (clsOf x y).code).map (fun it => { data := it, bad := false, ready := s.cycle }) ∧
        (∀ l, l ≠ 19 → (t.router x y).lane l = (s.router x y).lane l) ∧
        (reportItems m (clsOf x y).code).length = 101))

/-- SMBUS_BLOCK_READ, SMBUS_BLOCK_WRITE, ALERT_RESPONSE, JTAG_INSTRUCTION and TELEMETRY_SAMPLE (R408-R412): a good read gives the register
and a bad one nothing; a write of SMB_STATUS clears what it names and no more; the alert answer stands while ALERT_N is low; EXTEST
is BYPASS once firmware runs; a sample shows on the registers; two low or high samples in a row, or more than a second of hot
coolant, set their bit. The target's address and the JTAG codes are presumed (logs 6 and 18), the sample count is the model's (log 33). -/
def Sys2Proof.Claims.ServicePinsAnswer : Prop :=
  ∀ (s : State) (code : Nat) (v : Word) (good : Bool),
    let p := s.helm.pins
    let pins := fun (i : Instr) (q : Pins) => ∃ t, exec i s = .next t ∧ Only s t { helm := true } ∧ t.helm = { s.helm with pins := q }
    let heard := p.inRange = true ∧ good = true
    (∀ g, (code, g) ∈ [(0x00, deviceId), (0x02, p.smbMask), (0x10, word p.vin), (0x11, word p.iin), (0x12, word p.pin), (0x20, p.tjMax),
        (0x21, p.tdMax), (0x22, word p.coolIn), (0x23, word p.coolOut), (0x30, p.fields)] →
      heard → pins (.smbusBlockRead code good) { p with smbRead := some g }) ∧
    (heard → pins (.smbusBlockRead 0x01 good) { p with
      smbRead := some ((p.smbStatus &&& 0xFC#32) ||| word (256 * b2n s.helm.fw.running + 2 * b2n s.helm.clocks.drSet)) }) ∧
    (¬ heard ∨ code ∉ [0x00, 0x01, 0x02, 0x10, 0x11, 0x12, 0x20, 0x21, 0x22, 0x23, 0x30] →
      pins (.smbusBlockRead code good) { p with smbRead := none }) ∧
    (heard → pins (.smbusBlockWrite 0x01 v good) { p with smbStatus := p.smbStatus &&& ~~~ (v &&& 0xFC#32) }) ∧
    (heard → pins (.smbusBlockWrite 0x02 v good) { p with smbMask := v &&& 0x1FE#32 }) ∧
    (¬ heard ∨ (code ≠ 0x01 ∧ code ≠ 0x02) → pins (.smbusBlockWrite code v good) p) ∧
    (pins .alertResponse { p with
      smbAra := if p.inRange = true ∧ p.smbStatus &&& 0xFC#32 &&& ~~~ p.smbMask ≠ 0 then some (BitVec.ofNat 8 (0x58 + p.modId % 4)) else none }) ∧
    (pins (.jtagInstruction code) { p with
      jtag := if code = 1 then 1 else if code = 2 then 2 else if code = 3 ∧ s.helm.fw.running = false then 3 else 0 }) ∧
    (∀ mv da w ci co (td : Nat × Int),
      let i := Instr.telemetrySample mv da w ci co td
      (144 ≤ td.1 → exec i s = .fault .noSuchField) ∧
      (td.1 < 144 → p.inRange = false → exec i s = .next s) ∧
      (td.1 < 144 → p.inRange = true → ∃ u t, exec i s = .next t ∧ FieldBecomes s u td.1 { s.field td.1 with td := td.2 } ∧
        Only u t { helm := true } ∧
        t.helm = { s.helm with pins := { p with
          vin := mv % 2 ^ 32, iin := da % 2 ^ 32, pin := w % 2 ^ 32, coolIn := ci % 2 ^ 16, coolOut := co % 2 ^ 16,
          tjMax := t.helm.pins.tjMax, tdMax := t.helm.pins.tdMax, fields := u.fieldCounts,
          lowSamples := if mv < 44000 then p.lowSamples + 1 else 0, highSamples := if 56000 < mv then p.highSamples + 1 else 0,
          hotSamples := if 160 < ci then p.hotSamples + 1 else 0, smbStatus := t.helm.pins.smbStatus } } ∧
        (∃ f g, f < 144 ∧ g < 144 ∧ (∀ k, k < 144 → (u.field k).tj ≤ (u.field f).tj ∧ (u.field k).td ≤ (u.field g).td) ∧
          (∀ k, k < f → (u.field k).tj < (u.field f).tj) ∧ (∀ k, k < g → (u.field k).td < (u.field g).td) ∧
          t.helm.pins.tjMax = word (f * 2 ^ 24 + twos 16 (u.field f).tj) ∧
          t.helm.pins.tdMax = word (g * 2 ^ 24 + twos 16 (u.field g).td)) ∧
        ∀ k, k < 32 → bitB t.helm.pins.smbStatus k = (bitB p.smbStatus k || decide (k = 3 ∧ mv < 44000 ∧ 1 ≤ p.lowSamples) ||
          decide (k = 2 ∧ 56000 < mv ∧ 1 ≤ p.highSamples) || decide (k = 4 ∧ 160 < ci ∧ 1000 ≤ p.hotSamples))))

/-! ### Every step -/

namespace Sys2Proof.Claims
open Sys2Proof.Machine

/-- Every addressed store has its canonical form. -/
def MemoriesCanonical (s : State) : Prop :=
  (∀ e ∈ s.cells, e.2.data.wf = true) ∧ (∀ e ∈ s.fields, e.2.tower.wf = true) ∧ (∀ e ∈ s.bridges, e.2.imgWin.wf = true)

/-- Commands after which the module starts afresh, and the two start-up steps that take the defect map from OTP and Logbook. -/
def MapAfresh (i : Instr) : Prop :=
  (∃ f, i = .moduleReset f) ∨ i = .resetN ∨ i = .inputOutOfRange ∨ i = .rimDieOvertemp ∨ (∃ b t, i = .meshTest b t) ∨ i = .defects

end Sys2Proof.Claims

/-- A step takes the command at the front of the queue and runs it on the state with the queue's rest. -/
def Obligations.StepRunsFrontCommand : Prop :=
  ∀ (s : State) (c : Instr) (rest : List Instr), step { s with pending := c :: rest } = exec c { s with pending := rest }

namespace Sys2Proof.Claims
open Sys2Proof.Machine

/-- One core cycle of a listed cell (R29, R31, R54, R59, R178, R261, R301, R324, R332): requests age unless a lane replays; a full posted write
buffer is counted; the watchdog counts while the cell is clocked; a new pulse begins, unless reefing swallows it. A fenced body
stands still. -/
def CellTicked (s : State) (x y : Nat) (c d : Cell) : Prop :=
  let k := clsOf x y
  let aged := { c with
    reqs := if s.replaying then c.reqs else c.reqs.map (fun r => { r with age := r.age + 1 }),
    pc := if c.pc.pwb.length < 16 then c.pc else { c.pc with cnt := cntAdd c.pc.cnt 4 1 } }
  let watched := { aged with wdogCount := if (wdogHit k aged).isSome then aged.wdogCount + 1 else 0 }
  let begun := { watched with
    pulse := c.pulse + 1, predWas := none, predCmp := 0, wdogWas := none, bankUse := [], accHeld := [], dataWas := none }
  let pulse := k ≠ .c ∨ swallowed s.cycle (s.field (fieldOf x y)).reef.toNat = false
  (s.bodyOut x y = true → d = c) ∧
  (s.bodyOut x y = false → s.clocked x y = false → d = aged) ∧
  (s.bodyOut x y = false → s.clocked x y = true →
    (¬ pulse → d = { watched with quietSince := if s.quiescent x y then c.quietSince else c.pulse }) ∧
    (pulse → d = { begun with
      quietSince := if s.quiescent x y then c.quietSince else c.pulse + 1,
      outStalls := if heldBy k begun true then satInc c.outStalls else c.outStalls,
      inStalls := if heldBy k begun false then satInc c.inStalls else c.inStalls }))

/-- One core cycle of a listed field (R316, R326, R332): LOCKED after 65,536 cycles within bounds, the reef level at a 16-cycle boundary, and
the idle time of a field in use from zero. -/
def FieldTicked (s : State) (f : Nat) (q r : Field) : Prop :=
  let lock := ∃ t, q.lockSince = some t ∧ t + 65536 ≤ s.cycle
  let used := (s.partitions ≠ [] ∨ ∃ b ∈ s.bridges, b.2.executing ≠ []) ∧ s.inUse f = true
  r = { q with locked := r.locked, lockSince := r.lockSince, reef := if (s.cycle + 1) % 16 = 0 then q.reefReg else q.reef,
               idleSince := r.idleSince } ∧
  (lock → r.locked = true ∧ r.lockSince = none) ∧ (¬ lock → r.locked = q.locked ∧ r.lockSince = q.lockSince) ∧
  (used → r.idleSince = some (s.cycle + 1)) ∧ (¬ used → r.idleSince = q.idleSince)

/-- R290: a link's keep-alive begins when the fields that count for it sleep and nothing wakes them. -/
def BridgeTicked (s : State) (h : Nat) (b d : Bridge) : Prop :=
  let fs := if partExists (s.part h) then rectFields (s.part h).rect else List.range 144
  let due := b.linkUp = true ∧ b.keepAlive = false ∧ s.serving = true ∧ (s.part h).active = none ∧ (s.part h).queue = [] ∧
    ∀ f ∈ fs, f = 4 ∨ ((s.field f).power = .doldrums ∧ (s.field f).waking = none)
  (due → d = { b with keepAlive := true, up := b.up.take 1, rate := 4 }) ∧ (¬ due → d = b)

/-- The retirement report of a run's last op leaves its cell (R416). -/
def RetireReported (s : State) (i : Nat) (t : State) : Prop :=
  let x := i % 576
  let y := i / 576
  let due := (s.cell x y).owes = true ∧ retiredAll (s.cell x y) = true
  (¬ due → t = s) ∧
  (due → CellSends s t x y [reportPkt s.myMod x y portL (reportFlit 5 0 x y 0xFF 0 0 0 0)] ∧
    t.cell x y = { s.cell x y with owes := false })

/-- A run that was stopped completes 20 µs later at the latest (R254). -/
def OverdueEnded (s : State) (p : Nat) (t : State) : Prop :=
  let due := ∃ a u, (s.part p).active = some a ∧ a.stopAt = some u ∧ u + 20 * usec ≤ s.cycle
  (¬ due → t = s) ∧ (due → p < 4 → exec (.runEnd p) s = .next t)

end Sys2Proof.Claims

/-- With no command waiting one core cycle passes (the model's choice, logs 2, 9, 13 and 48): cells, routers, fields, heads of run queues and
links advance; owed retirement reports leave; a stopped run completes in time; MONO counts the slow oscillator's periods (R29, R59, R134,
R254, R290, R313, R319, R332, R371, R416). -/
def Obligations.EmptyQueuePassesOneCycle : Prop :=
  ∀ (s : State), s.pending = [] → ∃ u v w t, step s = .next t ∧
    { u with cells := s.cells, routers := s.routers, fields := s.fields, partitions := s.partitions, bridges := s.bridges } = s ∧
    (∀ x y, siteOk x y = true →
      (tget s.cells (siteIx x y) = none → tget u.cells (siteIx x y) = none) ∧
      (∀ c, tget s.cells (siteIx x y) = some c → ∃ d, tget u.cells (siteIx x y) = some d ∧ CellTicked s x y c d) ∧
      u.router x y = { s.router x y with tail := ((s.router x y).tail.map (fun t =>
        if (s.router x y).linkFree t.1 s.cycle then (t.1, t.2 - 1) else t)).filter (fun t => decide (t.2 ≠ 0)) }) ∧
    (∀ f, (tget s.fields f = none → tget u.fields f = none) ∧
      ∀ q, tget s.fields f = some q → ∃ r, tget u.fields f = some r ∧ FieldTicked s f q r) ∧
    (∀ p, (tget s.partitions p = none → tget u.partitions p = none) ∧
      ∀ q, tget s.partitions p = some q → ∃ r, tget u.partitions p = some r ∧
        (s.headRun p = none → r = q) ∧
        (∀ h o g, s.headRun p = some (h, o, g) → r = if s.allUp p g then q else { q with headAt := some { h with at_ := s.cycle + 1 } })) ∧
    (∀ h, (tget s.bridges h = none → tget u.bridges h = none) ∧
      ∀ b, tget s.bridges h = some b → ∃ d, tget u.bridges h = some d ∧ BridgeTicked s h b d) ∧
    Chained RetireReported u (s.cells.map (·.1)) v ∧ Chained OverdueEnded v (s.partitions.map (·.1)) w ∧
    { t with cycle := w.cycle, mono := w.mono, slowAt := w.slowAt, helm := w.helm } = w ∧ t.cycle = s.cycle + 1 ∧
    (s.cycle < w.slowAt → t.mono = w.mono ∧ t.slowAt = w.slowAt) ∧
    (w.slowAt ≤ s.cycle → t.mono = w.mono + 1 ∧ w.slowAt + 56847 ≤ t.slowAt ∧ t.slowAt ≤ w.slowAt + 59166) ∧
    t.helm = { w.helm with clocks := { w.helm.clocks with drift := t.helm.clocks.drift } } ∧
    (w.helm.clocks.drSet = false ∨ s.cycle % 20 ≠ 0 → t.helm.clocks.drift = w.helm.clocks.drift) ∧
    (w.helm.clocks.drSet = true → s.cycle % 20 = 0 →
      w.helm.clocks.drift - 1 ≤ t.helm.clocks.drift ∧ t.helm.clocks.drift ≤ w.helm.clocks.drift + 1)

/-- A command whose operands name objects of the module always answers a next state, in every state; any other command faults and
none is refused. -/
def Obligations.WellFormedCommandsComplete : Prop :=
  ∀ (c : Instr) (s : State), (c.wf = true → ∃ t, exec c s = .next t) ∧ (c.wf = false → ∃ f, exec c s = .fault f)

/-- Every step leaves the key slots and the shipped defect map as they are, never lowers the rollback counter, never takes a revocation back, and takes
exactly the front command off the queue (R13, R375, R390). -/
def Obligations.EveryStepKeepsTheFuses : Prop :=
  ∀ (s t : State), step s = .next t → t.helm.otp.keys = s.helm.otp.keys ∧ t.helm.otp.shipped = s.helm.otp.shipped ∧
    s.helm.otp.rollback ≤ t.helm.otp.rollback ∧
    (∀ k, k < 4 → bitB s.helm.otp.revoked k = true → bitB t.helm.otp.revoked k = true) ∧ t.pending = s.pending.drop 1

/-- No step but a reset, a loss of the input or the two steps that take the map from OTP and Logbook brings a fenced body back into
service or a dead router back to life (R13, R14). -/
def Obligations.NoStepRemovesAFence : Prop :=
  ∀ (s t : State) (x y : Nat), step s = .next t → (∀ c rest, s.pending = c :: rest → ¬ MapAfresh c) →
    (s.bodyOut x y = true → t.bodyOut x y = true) ∧ (s.routerDead x y = true → t.routerDead x y = true)

/-- Every step keeps the canonical form of every addressed store: cells' data storage, towers, image windows. -/
def Obligations.EveryStepKeepsStoresCanonical : Prop :=
  ∀ (s t : State), MemoriesCanonical s → step s = .next t → MemoriesCanonical t

/-- The machine right after reset (R59, R158, R271, R322, R338, R339, R341, R366, R396, R411): no step has begun, no firmware runs,
every field is in Doldrums with no rail up, registers read their reset values, and the Logbook holds POWER_ON. The queue is empty and
every store canonical. -/
def Obligations.ResetIsAsShipped : Prop :=
  State.reset.pending = [] ∧ MemoriesCanonical State.reset ∧ State.reset.helm.steps.step = 0 ∧ State.reset.helm.steps.state = 0 ∧
    State.reset.helm.fw.running = false ∧ State.reset.helm.service = false ∧ State.reset.helm.clocks.helmSrc = false ∧
    (∀ f, (State.reset.field f).power = .doldrums ∧ (State.reset.field f).rails = false ∧ (State.reset.field f).reefReg = 0 ∧
      State.reset.readBase f 0x100 = 0x32#32 ∧ pwrStatus (State.reset.field f) = 2#32) ∧
    (∀ x y, (State.reset.cell x y).state = .idle ∧ (State.reset.cell x y).slotEn = 0 ∧ (State.reset.cell x y).wdogLimit = 0x10000#32 ∧
      (State.reset.router x y).fence = 0 ∧ (State.reset.router x y).mcHold = 0x1000#32) ∧
    (∀ h, (State.reset.bridge h).head = 0 ∧ (State.reset.bridge h).tail = 0 ∧ ringOn (State.reset.bridge h) = false ∧
      (State.reset.bridge h).clkEn = 0x7E#32) ∧
    State.reset.helm.log.ring.map (fun r => (r.type, r.seq, r.mono)) = [(1, 0, 0)] ∧ State.reset.helm.log.count = 1 ∧
    State.reset.helm.pins.thermtrip = false ∧ State.reset.helm.pins.fields = 0x9000#32

/-! ### Rules of the arithmetic, of tiles and of the hash unit -/

/-- R69: INT8 group sums are exact and at most 2^19 in magnitude; the accumulator addition wraps in two's complement and sets OVF when
it does; up to 4,095 firings into an accumulator that starts at zero never wrap. -/
def Obligations.Int8SumsAreExact : Prop :=
  (∀ (a w : Oper), (groupInt a w (groupElems 8 a w)).natAbs ≤ 2 ^ 19 ∧
    sext 32 (groupResult 8 a w).1.toNat = groupInt a w (groupElems 8 a w) ∧ (groupResult 8 a w).2 = 0) ∧
  (∀ (acc g : Word), let z := sext 32 acc.toNat + sext 32 g.toNat
    sext 32 (accAdd true acc g).1.toNat = (z + 2 ^ 31) % 2 ^ 32 - 2 ^ 31 ∧
    ((accAdd true acc g).2 = if -(2 ^ 31) ≤ z ∧ z < 2 ^ 31 then 0 else flOvf)) ∧
  (∀ (l : List (Oper × Oper)),
    let sum := fun (l : List (Oper × Oper)) => l.foldl (fun (acc : Word) (e : Oper × Oper) => (accAdd true acc (groupResult 8 e.1 e.2).1).1) 0
    (l.length ≤ 4095 → sext 32 (sum l).toNat = (l.map (fun e => groupInt e.1 e.2 (groupElems 8 e.1 e.2))).sum) ∧
    (∀ (e : Oper × Oper), l.length < 4095 → (accAdd true (sum l) (groupResult 8 e.1 e.2).1).2 = 0))

/-- R126: the four sets that a key probes; they are distinct, K = 1 probes 632, 495, 358 and 221, and a record changes entries of
its key's four sets only. -/
def Obligations.HashProbesFourSets : Prop :=
  (∀ (K : Word) (p : Nat), p < 4 →
    let h := K * 0x9E3779B1#32
    hProbe K.toNat p = ((h.extractLsb' 22 10).toNat + p * ((h.extractLsb' 12 10) ||| 1#10).toNat) % 1024) ∧
  (∀ (K : Word), ((List.range 4).map (hProbe K.toNat)).Nodup) ∧
  (List.range 4).map (hProbe 1) = [632, 495, 358, 221] ∧
  (∀ (t : Tbl (BitVec 128)) (r : BitVec 128) (i : Nat), (∀ p, p < 4 → i / 4 ≠ hProbe (hKey r) p) →
    tgetD (hAdd t r [0, 1, 2, 3]).1 i 0 = tgetD t i 0)

/-- R46: an ACC_OUT or ACC_CLR slot does not issue while an overlapping DOT is in flight, nor a DOT while an overlapping ACC_OUT or
ACC_CLR is; additions into one accumulator take effect in issue order. -/
def Obligations.AccumulatorHazardsAreInterlocked : Prop :=
  ∀ (s : State) (x y n : Nat) (o : Op), siteOk x y = true → n < 64 → clsOf x y = .c → o ∈ (s.cell x y).ops →
    let c := s.cell x y
    let w := c.slot n
    let rng := dotRange c w
    (o.isDot = true → overlaps (accOutBase w (c.run n)) 8 o.accLo o.accLen = true → exec (.accOut x y n) s = .next s) ∧
    (o.isDot = true → overlaps (sOpc w) (sOpb w) o.accLo o.accLen = true → exec (.accClr x y n) s = .next s) ∧
    (o.isDot = false → overlaps rng.1 (rng.2 + 1 - rng.1) o.accLo o.accLen = true → exec (.dot x y n) s = .next s) ∧
    (∀ e, c.ops.find? (fun v => v.id = o.id) = some o → e ∈ c.ops → e.id < o.id → e.adds ≠ [] → o.adds ≠ [] →
      overlaps o.accLo o.accLen e.accLo e.accLen = true → exec (.resultWrite x y o.id) s = .next s)

/-- R93: an element is live when it lies in the tile and, with MSK_EN, in the live tiles and under the boundary masks; a tile with no
live element is dead and every item of it reads as zero; without MSK_EN the live counts and the mask entry are ignored. -/
def Obligations.ElementsAreLiveUnderMasks : Prop :=
  ∀ (d : Desc) (m : BitVec 256) (p : Pos) (k : Nat),
    (elemLive d m p k = true ↔ p.r < d.rows ∧ k < d.cols ∧
      (d.mskEn = true → p.t0 < d.live0 ∧ p.t1 < d.live1 ∧ (p.t0 + 1 = d.live0 → m.getLsbD (128 + k) = true) ∧
        (p.t1 + 1 = d.live1 → m.getLsbD p.r = true))) ∧
    (liveMask d m p).testBit k = (decide (k < epi d.fmt) && elemLive d m p (p.c * epi d.fmt + k)) ∧
    (d.mskEn = false → ∀ (m' : BitVec 256) (a b : Nat), elemLive { d with live0 := a, live1 := b } m' p k = elemLive d m p k) ∧
    (∀ (mem : Memory) (lim : Nat), (∀ (r j : Nat), elemLive d m { p with r := r } j = false) →
      readItem mem lim d p (liveMask d m p) = 0)

/-! ### Statements of two parts -/

/-- Both of `SteeringSlotsWriteTheChosenItem` and `CmpWritesItsPredicateTwoPulsesLater`, each stated above with its rules. -/
def Obligations.SteeringAndCompareSlotsWriteTheChosenItem : Prop := Sys2Proof.Claims.SteeringSlotsWriteTheChosenItem ∧ Sys2Proof.Claims.CmpWritesItsPredicateTwoPulsesLater

/-- Both of `SyncAndDmaSlotsStayInFlight` and `DmaCompletionFillsThePromisedPlaces`, each stated above with its rules. -/
def Obligations.SyncAndDmaSlotsStayInFlightAndComplete : Prop := Sys2Proof.Claims.SyncAndDmaSlotsStayInFlight ∧ Sys2Proof.Claims.DmaCompletionFillsThePromisedPlaces

/-- Both of `StreamItemsMoveUnderCredits` and `CreditsReturnAndRingsRefill`, each stated above with its rules. -/
def Obligations.StreamItemsAndCreditsMove : Prop := Sys2Proof.Claims.StreamItemsMoveUnderCredits ∧ Sys2Proof.Claims.CreditsReturnAndRingsRefill

/-- Both of `SyncOperationsWriteTheWord` and `WaitsAreAnsweredParkedOrPending`, each stated above with its rules. -/
def Obligations.SyncWordOperationsAreAnswered : Prop := Sys2Proof.Claims.SyncOperationsWriteTheWord ∧ Sys2Proof.Claims.WaitsAreAnsweredParkedOrPending

/-- Both of `PostedWritesDrainInOrder` and `StreamLinesAreFetchedAndInvalidated`, each stated above with its rules. -/
def Obligations.PostedWritesAndStreamLinesMove : Prop := Sys2Proof.Claims.PostedWritesDrainInOrder ∧ Sys2Proof.Claims.StreamLinesAreFetchedAndInvalidated

/-- Both of `MulticastBranchesAcceptOrDrop` and `MulticastReportsSettle`, each stated above with its rules. -/
def Obligations.MulticastBranchesReportAndSettle : Prop := Sys2Proof.Claims.MulticastBranchesAcceptOrDrop ∧ Sys2Proof.Claims.MulticastReportsSettle

/-- Both of `VectorSlotsWriteLaneResults` and `FaultyFiringsFreezeTheCell`, each stated above with its rules. -/
def Obligations.VectorSlotsWriteLaneResultsOrFreeze : Prop := Sys2Proof.Claims.VectorSlotsWriteLaneResults ∧ Sys2Proof.Claims.FaultyFiringsFreezeTheCell

/-- Both of `ResultWriteDeliversAnOp` and `CellEventsHappen`, each stated above with its rules. -/
def Obligations.CellEventsAndResultsHappen : Prop := Sys2Proof.Claims.ResultWriteDeliversAnOp ∧ Sys2Proof.Claims.CellEventsHappen

/-- Both of `GatherSlotsWork` and `HashSlotsAddAndDrain`, each stated above with its rules. -/
def Obligations.GatherAndHashSlotsWork : Prop := Sys2Proof.Claims.GatherSlotsWork ∧ Sys2Proof.Claims.HashSlotsAddAndDrain

/-- Both of `FunctionSlotsWriteTheFunctionOfTheirItem` and `ReductionSlotsWriteAfterTheirLastItem`, each stated above with its rules. -/
def Obligations.FunctionAndReductionSlotsWrite : Prop := Sys2Proof.Claims.FunctionSlotsWriteTheFunctionOfTheirItem ∧ Sys2Proof.Claims.ReductionSlotsWriteAfterTheirLastItem

/-- Both of `ResponsesReachTheirRequester` and `RequestsTimeOutOrAreSentAgain`, each stated above with its rules. -/
def Obligations.ResponsesAndTimeoutsReachTheRequester : Prop := Sys2Proof.Claims.ResponsesReachTheirRequester ∧ Sys2Proof.Claims.RequestsTimeOutOrAreSentAgain

/-- Both of `FailingFieldsAreSwitchedOff` and `ReefingMovesOneLevel`, each stated above with its rules. -/
def Obligations.HotAndFailingFieldsReefOrSwitchOff : Prop := Sys2Proof.Claims.FailingFieldsAreSwitchedOff ∧ Sys2Proof.Claims.ReefingMovesOneLevel

/-- Both of `RunInputsAndOutputsAreDigested` and `EgressCoalescesHostWrites`, each stated above with its rules. -/
def Obligations.RunDataIsDigestedAndCoalesced : Prop := Sys2Proof.Claims.RunInputsAndOutputsAreDigested ∧ Sys2Proof.Claims.EgressCoalescesHostWrites

/-- Both of `InjectedPacketsAreResolvedOnce` and `PacketsEjectThroughFenceAndCrc`, each stated above with its rules. -/
def Obligations.PacketsEnterAndLeaveTheMesh : Prop := Sys2Proof.Claims.InjectedPacketsAreResolvedOnce ∧ Sys2Proof.Claims.PacketsEjectThroughFenceAndCrc

/-- Both of `HostLinksAndServiceParentsChange` and `ServicePinsAnswer`, each stated above with its rules. -/
def Obligations.HostLinksAndServicePinsAnswer : Prop := Sys2Proof.Claims.HostLinksAndServiceParentsChange ∧ Sys2Proof.Claims.ServicePinsAnswer

/-- Both of `ReportsSealsAndResetsFinish` and `FailingSitesAreFenced`, each stated above with its rules. -/
def Obligations.ReportsAndFailingSitesEndRuns : Prop := Sys2Proof.Claims.ReportsSealsAndResetsFinish ∧ Sys2Proof.Claims.FailingSitesAreFenced
end

