-- ==== Sys2Proof/Laws/Tables.lean ====
section
/-!
SUPPORT. Sparse tables: a number that was set reads as what was set, every other number as before.
-/
namespace Sys2Proof.Machine

theorem tget_tset_same {α : Type} (t : Tbl α) (k : Nat) (v : α) : tget (tset t k v) k = some v := by
  induction t with
  | nil => simp [tset, tget]
  | cons p t ih =>
    obtain ⟨j, a⟩ := p
    simp only [tset]
    split
    · simp [tget]
    · split
      · simp [tget]
      · next h => simp [tget, h, ih]

theorem tget_tset_other {α : Type} (t : Tbl α) {k j : Nat} (v : α) (h : j ≠ k) : tget (tset t k v) j = tget t j := by
  induction t with
  | nil => simp [tset, tget, Ne.symm h]
  | cons p t ih =>
    obtain ⟨i, a⟩ := p
    simp only [tset]
    split
    · simp [tget, Ne.symm h]
    · split
      · next hk => subst hk; simp [tget, Ne.symm h]
      · simp only [tget, ih]

theorem tget_tset {α : Type} (t : Tbl α) (k j : Nat) (v : α) : tget (tset t k v) j = if j = k then some v else tget t j := by
  by_cases h : j = k
  · subst h; simp [tget_tset_same]
  · simp [h, tget_tset_other t v h]

@[simp] theorem tgetD_tset_same {α : Type} (t : Tbl α) (k : Nat) (v d : α) : tgetD (tset t k v) k d = v := by
  simp [tgetD, tget_tset_same]

theorem tgetD_tset_other {α : Type} (t : Tbl α) {k j : Nat} (v d : α) (h : j ≠ k) : tgetD (tset t k v) j d = tgetD t j d := by
  simp [tgetD, tget_tset_other t v h]

theorem tgetD_tset {α : Type} (t : Tbl α) (k j : Nat) (v d : α) : tgetD (tset t k v) j d = if j = k then v else tgetD t j d := by
  by_cases h : j = k
  · subst h; simp
  · simp [h, tgetD_tset_other t v d h]

@[simp] theorem tgetD_nil {α : Type} (k : Nat) (d : α) : tgetD ([] : Tbl α) k d = d := rfl

theorem tget_filter {α : Type} (f : Nat × α → Bool) (t : Tbl α) (k : Nat) (h : ∀ v, f (k, v) = true) :
    tget (t.filter f) k = tget t k := by
  induction t with
  | nil => rfl
  | cons p t ih =>
    obtain ⟨j, a⟩ := p
    by_cases hj : j = k
    · subst hj; simp [h, tget]
    · rw [List.filter_cons]
      split <;> simp [tget, hj, ih]

theorem tget_tdel_same {α : Type} (t : Tbl α) (k : Nat) : tget (tdel t k) k = none := by
  induction t with
  | nil => rfl
  | cons p t ih =>
    obtain ⟨j, a⟩ := p
    simp only [tdel] at ih ⊢
    rw [List.filter_cons]
    split
    · next h => simp only [decide_eq_true_eq] at h; simpa [tget, h] using ih
    · exact ih

theorem tget_tdel_other {α : Type} (t : Tbl α) {k j : Nat} (h : j ≠ k) : tget (tdel t k) j = tget t j :=
  tget_filter _ t j (fun _ => by simpa using h)

/-- Sites of the mesh have different numbers (R6). -/
theorem siteIx_inj {x y u v : Nat} (hx : x < 576) (hu : u < 576) (h : siteIx x y = siteIx u v) : x = u ∧ y = v := by
  simp only [siteIx] at h
  omega

theorem siteOk_iff {x y : Nat} : siteOk x y = true ↔ x < 576 ∧ y < 576 := by simp [siteOk]

end Sys2Proof.Machine
end

