-- ==== Sys2Proof/Laws/State.lean ====
section
/-!
SUPPORT. Reading the state after an update: one lemma for each field and each update that leaves it, and what each update writes.
-/
namespace Sys2Proof.Machine

/-! ### After `setCell` -/

@[simp] theorem setCell_pending (s : State) (x y : Nat) (c : Cell) : (s.setCell x y c).pending = s.pending := rfl
@[simp] theorem setCell_cycle (s : State) (x y : Nat) (c : Cell) : (s.setCell x y c).cycle = s.cycle := rfl
@[simp] theorem setCell_mono (s : State) (x y : Nat) (c : Cell) : (s.setCell x y c).mono = s.mono := rfl
@[simp] theorem setCell_slowAt (s : State) (x y : Nat) (c : Cell) : (s.setCell x y c).slowAt = s.slowAt := rfl
@[simp] theorem setCell_fresh (s : State) (x y : Nat) (c : Cell) : (s.setCell x y c).fresh = s.fresh := rfl
@[simp] theorem setCell_routers (s : State) (x y : Nat) (c : Cell) : (s.setCell x y c).routers = s.routers := rfl
@[simp] theorem setCell_fields (s : State) (x y : Nat) (c : Cell) : (s.setCell x y c).fields = s.fields := rfl
@[simp] theorem setCell_lanes (s : State) (x y : Nat) (c : Cell) : (s.setCell x y c).lanes = s.lanes := rfl
@[simp] theorem setCell_bridges (s : State) (x y : Nat) (c : Cell) : (s.setCell x y c).bridges = s.bridges := rfl
@[simp] theorem setCell_partitions (s : State) (x y : Nat) (c : Cell) : (s.setCell x y c).partitions = s.partitions := rfl
@[simp] theorem setCell_sessions (s : State) (x y : Nat) (c : Cell) : (s.setCell x y c).sessions = s.sessions := rfl
@[simp] theorem setCell_helm (s : State) (x y : Nat) (c : Cell) : (s.setCell x y c).helm = s.helm := rfl
@[simp] theorem setCell_router_eq (s : State) (x y : Nat) (c : Cell) (u v : Nat) : (s.setCell x y c).router u v = s.router u v := rfl
@[simp] theorem setCell_field_eq (s : State) (x y : Nat) (c : Cell) (j : Nat) : (s.setCell x y c).field j = s.field j := rfl
@[simp] theorem setCell_lane_eq (s : State) (x y : Nat) (c : Cell) (i j : Nat) : (s.setCell x y c).lane i j = s.lane i j := rfl
@[simp] theorem setCell_bridge_eq (s : State) (x y : Nat) (c : Cell) (j : Nat) : (s.setCell x y c).bridge j = s.bridge j := rfl
@[simp] theorem setCell_part_eq (s : State) (x y : Nat) (c : Cell) (j : Nat) : (s.setCell x y c).part j = s.part j := rfl
@[simp] theorem setCell_session_eq (s : State) (x y : Nat) (c : Cell) (j : Nat) : (s.setCell x y c).session j = s.session j := rfl
@[simp] theorem setCell_bodyOut_eq (s : State) (x y : Nat) (c : Cell) (u v : Nat) : (s.setCell x y c).bodyOut u v = s.bodyOut u v := rfl
@[simp] theorem setCell_routerDead_eq (s : State) (x y : Nat) (c : Cell) (u v : Nat) : (s.setCell x y c).routerDead u v = s.routerDead u v := rfl
@[simp] theorem setCell_myMod_eq (s : State) (x y : Nat) (c : Cell) : (s.setCell x y c).myMod = s.myMod := rfl
@[simp] theorem setCell_ticks_eq (s : State) (x y : Nat) (c : Cell) : (s.setCell x y c).ticks = s.ticks := rfl

/-! ### After `onCell` -/

@[simp] theorem onCell_pending (s : State) (x y : Nat) (f : Cell → Cell) : (s.onCell x y f).pending = s.pending := rfl
@[simp] theorem onCell_cycle (s : State) (x y : Nat) (f : Cell → Cell) : (s.onCell x y f).cycle = s.cycle := rfl
@[simp] theorem onCell_mono (s : State) (x y : Nat) (f : Cell → Cell) : (s.onCell x y f).mono = s.mono := rfl
@[simp] theorem onCell_slowAt (s : State) (x y : Nat) (f : Cell → Cell) : (s.onCell x y f).slowAt = s.slowAt := rfl
@[simp] theorem onCell_fresh (s : State) (x y : Nat) (f : Cell → Cell) : (s.onCell x y f).fresh = s.fresh := rfl
@[simp] theorem onCell_routers (s : State) (x y : Nat) (f : Cell → Cell) : (s.onCell x y f).routers = s.routers := rfl
@[simp] theorem onCell_fields (s : State) (x y : Nat) (f : Cell → Cell) : (s.onCell x y f).fields = s.fields := rfl
@[simp] theorem onCell_lanes (s : State) (x y : Nat) (f : Cell → Cell) : (s.onCell x y f).lanes = s.lanes := rfl
@[simp] theorem onCell_bridges (s : State) (x y : Nat) (f : Cell → Cell) : (s.onCell x y f).bridges = s.bridges := rfl
@[simp] theorem onCell_partitions (s : State) (x y : Nat) (f : Cell → Cell) : (s.onCell x y f).partitions = s.partitions := rfl
@[simp] theorem onCell_sessions (s : State) (x y : Nat) (f : Cell → Cell) : (s.onCell x y f).sessions = s.sessions := rfl
@[simp] theorem onCell_helm (s : State) (x y : Nat) (f : Cell → Cell) : (s.onCell x y f).helm = s.helm := rfl
@[simp] theorem onCell_router_eq (s : State) (x y : Nat) (f : Cell → Cell) (u v : Nat) : (s.onCell x y f).router u v = s.router u v := rfl
@[simp] theorem onCell_field_eq (s : State) (x y : Nat) (f : Cell → Cell) (j : Nat) : (s.onCell x y f).field j = s.field j := rfl
@[simp] theorem onCell_lane_eq (s : State) (x y : Nat) (f : Cell → Cell) (i j : Nat) : (s.onCell x y f).lane i j = s.lane i j := rfl
@[simp] theorem onCell_bridge_eq (s : State) (x y : Nat) (f : Cell → Cell) (j : Nat) : (s.onCell x y f).bridge j = s.bridge j := rfl
@[simp] theorem onCell_part_eq (s : State) (x y : Nat) (f : Cell → Cell) (j : Nat) : (s.onCell x y f).part j = s.part j := rfl
@[simp] theorem onCell_session_eq (s : State) (x y : Nat) (f : Cell → Cell) (j : Nat) : (s.onCell x y f).session j = s.session j := rfl
@[simp] theorem onCell_bodyOut_eq (s : State) (x y : Nat) (f : Cell → Cell) (u v : Nat) : (s.onCell x y f).bodyOut u v = s.bodyOut u v := rfl
@[simp] theorem onCell_routerDead_eq (s : State) (x y : Nat) (f : Cell → Cell) (u v : Nat) : (s.onCell x y f).routerDead u v = s.routerDead u v := rfl
@[simp] theorem onCell_myMod_eq (s : State) (x y : Nat) (f : Cell → Cell) : (s.onCell x y f).myMod = s.myMod := rfl
@[simp] theorem onCell_ticks_eq (s : State) (x y : Nat) (f : Cell → Cell) : (s.onCell x y f).ticks = s.ticks := rfl

/-! ### After `onRouter` -/

@[simp] theorem onRouter_pending (s : State) (x y : Nat) (f : Router → Router) : (s.onRouter x y f).pending = s.pending := rfl
@[simp] theorem onRouter_cycle (s : State) (x y : Nat) (f : Router → Router) : (s.onRouter x y f).cycle = s.cycle := rfl
@[simp] theorem onRouter_mono (s : State) (x y : Nat) (f : Router → Router) : (s.onRouter x y f).mono = s.mono := rfl
@[simp] theorem onRouter_slowAt (s : State) (x y : Nat) (f : Router → Router) : (s.onRouter x y f).slowAt = s.slowAt := rfl
@[simp] theorem onRouter_fresh (s : State) (x y : Nat) (f : Router → Router) : (s.onRouter x y f).fresh = s.fresh := rfl
@[simp] theorem onRouter_cells (s : State) (x y : Nat) (f : Router → Router) : (s.onRouter x y f).cells = s.cells := rfl
@[simp] theorem onRouter_fields (s : State) (x y : Nat) (f : Router → Router) : (s.onRouter x y f).fields = s.fields := rfl
@[simp] theorem onRouter_lanes (s : State) (x y : Nat) (f : Router → Router) : (s.onRouter x y f).lanes = s.lanes := rfl
@[simp] theorem onRouter_bridges (s : State) (x y : Nat) (f : Router → Router) : (s.onRouter x y f).bridges = s.bridges := rfl
@[simp] theorem onRouter_partitions (s : State) (x y : Nat) (f : Router → Router) : (s.onRouter x y f).partitions = s.partitions := rfl
@[simp] theorem onRouter_sessions (s : State) (x y : Nat) (f : Router → Router) : (s.onRouter x y f).sessions = s.sessions := rfl
@[simp] theorem onRouter_helm (s : State) (x y : Nat) (f : Router → Router) : (s.onRouter x y f).helm = s.helm := rfl
@[simp] theorem onRouter_cell_eq (s : State) (x y : Nat) (f : Router → Router) (u v : Nat) : (s.onRouter x y f).cell u v = s.cell u v := rfl
@[simp] theorem onRouter_field_eq (s : State) (x y : Nat) (f : Router → Router) (j : Nat) : (s.onRouter x y f).field j = s.field j := rfl
@[simp] theorem onRouter_lane_eq (s : State) (x y : Nat) (f : Router → Router) (i j : Nat) : (s.onRouter x y f).lane i j = s.lane i j := rfl
@[simp] theorem onRouter_bridge_eq (s : State) (x y : Nat) (f : Router → Router) (j : Nat) : (s.onRouter x y f).bridge j = s.bridge j := rfl
@[simp] theorem onRouter_part_eq (s : State) (x y : Nat) (f : Router → Router) (j : Nat) : (s.onRouter x y f).part j = s.part j := rfl
@[simp] theorem onRouter_session_eq (s : State) (x y : Nat) (f : Router → Router) (j : Nat) : (s.onRouter x y f).session j = s.session j := rfl
@[simp] theorem onRouter_bodyOut_eq (s : State) (x y : Nat) (f : Router → Router) (u v : Nat) : (s.onRouter x y f).bodyOut u v = s.bodyOut u v := rfl
@[simp] theorem onRouter_routerDead_eq (s : State) (x y : Nat) (f : Router → Router) (u v : Nat) : (s.onRouter x y f).routerDead u v = s.routerDead u v := rfl
@[simp] theorem onRouter_myMod_eq (s : State) (x y : Nat) (f : Router → Router) : (s.onRouter x y f).myMod = s.myMod := rfl
@[simp] theorem onRouter_ticks_eq (s : State) (x y : Nat) (f : Router → Router) : (s.onRouter x y f).ticks = s.ticks := rfl

/-! ### After `onField` -/

@[simp] theorem onField_pending (s : State) (f : Nat) (g : Field → Field) : (s.onField f g).pending = s.pending := rfl
@[simp] theorem onField_cycle (s : State) (f : Nat) (g : Field → Field) : (s.onField f g).cycle = s.cycle := rfl
@[simp] theorem onField_mono (s : State) (f : Nat) (g : Field → Field) : (s.onField f g).mono = s.mono := rfl
@[simp] theorem onField_slowAt (s : State) (f : Nat) (g : Field → Field) : (s.onField f g).slowAt = s.slowAt := rfl
@[simp] theorem onField_fresh (s : State) (f : Nat) (g : Field → Field) : (s.onField f g).fresh = s.fresh := rfl
@[simp] theorem onField_cells (s : State) (f : Nat) (g : Field → Field) : (s.onField f g).cells = s.cells := rfl
@[simp] theorem onField_routers (s : State) (f : Nat) (g : Field → Field) : (s.onField f g).routers = s.routers := rfl
@[simp] theorem onField_lanes (s : State) (f : Nat) (g : Field → Field) : (s.onField f g).lanes = s.lanes := rfl
@[simp] theorem onField_bridges (s : State) (f : Nat) (g : Field → Field) : (s.onField f g).bridges = s.bridges := rfl
@[simp] theorem onField_partitions (s : State) (f : Nat) (g : Field → Field) : (s.onField f g).partitions = s.partitions := rfl
@[simp] theorem onField_sessions (s : State) (f : Nat) (g : Field → Field) : (s.onField f g).sessions = s.sessions := rfl
@[simp] theorem onField_helm (s : State) (f : Nat) (g : Field → Field) : (s.onField f g).helm = s.helm := rfl
@[simp] theorem onField_router_eq (s : State) (f : Nat) (g : Field → Field) (u v : Nat) : (s.onField f g).router u v = s.router u v := rfl
@[simp] theorem onField_lane_eq (s : State) (f : Nat) (g : Field → Field) (i j : Nat) : (s.onField f g).lane i j = s.lane i j := rfl
@[simp] theorem onField_bridge_eq (s : State) (f : Nat) (g : Field → Field) (j : Nat) : (s.onField f g).bridge j = s.bridge j := rfl
@[simp] theorem onField_part_eq (s : State) (f : Nat) (g : Field → Field) (j : Nat) : (s.onField f g).part j = s.part j := rfl
@[simp] theorem onField_session_eq (s : State) (f : Nat) (g : Field → Field) (j : Nat) : (s.onField f g).session j = s.session j := rfl
@[simp] theorem onField_bodyOut_eq (s : State) (f : Nat) (g : Field → Field) (u v : Nat) : (s.onField f g).bodyOut u v = s.bodyOut u v := rfl
@[simp] theorem onField_routerDead_eq (s : State) (f : Nat) (g : Field → Field) (u v : Nat) : (s.onField f g).routerDead u v = s.routerDead u v := rfl
@[simp] theorem onField_myMod_eq (s : State) (f : Nat) (g : Field → Field) : (s.onField f g).myMod = s.myMod := rfl
@[simp] theorem onField_ticks_eq (s : State) (f : Nat) (g : Field → Field) : (s.onField f g).ticks = s.ticks := rfl

/-! ### After `onLane` -/

@[simp] theorem onLane_pending (s : State) (k n : Nat) (g : Lane → Lane) : (s.onLane k n g).pending = s.pending := rfl
@[simp] theorem onLane_cycle (s : State) (k n : Nat) (g : Lane → Lane) : (s.onLane k n g).cycle = s.cycle := rfl
@[simp] theorem onLane_mono (s : State) (k n : Nat) (g : Lane → Lane) : (s.onLane k n g).mono = s.mono := rfl
@[simp] theorem onLane_slowAt (s : State) (k n : Nat) (g : Lane → Lane) : (s.onLane k n g).slowAt = s.slowAt := rfl
@[simp] theorem onLane_fresh (s : State) (k n : Nat) (g : Lane → Lane) : (s.onLane k n g).fresh = s.fresh := rfl
@[simp] theorem onLane_cells (s : State) (k n : Nat) (g : Lane → Lane) : (s.onLane k n g).cells = s.cells := rfl
@[simp] theorem onLane_routers (s : State) (k n : Nat) (g : Lane → Lane) : (s.onLane k n g).routers = s.routers := rfl
@[simp] theorem onLane_fields (s : State) (k n : Nat) (g : Lane → Lane) : (s.onLane k n g).fields = s.fields := rfl
@[simp] theorem onLane_bridges (s : State) (k n : Nat) (g : Lane → Lane) : (s.onLane k n g).bridges = s.bridges := rfl
@[simp] theorem onLane_partitions (s : State) (k n : Nat) (g : Lane → Lane) : (s.onLane k n g).partitions = s.partitions := rfl
@[simp] theorem onLane_sessions (s : State) (k n : Nat) (g : Lane → Lane) : (s.onLane k n g).sessions = s.sessions := rfl
@[simp] theorem onLane_helm (s : State) (k n : Nat) (g : Lane → Lane) : (s.onLane k n g).helm = s.helm := rfl
@[simp] theorem onLane_cell_eq (s : State) (k n : Nat) (g : Lane → Lane) (u v : Nat) : (s.onLane k n g).cell u v = s.cell u v := rfl
@[simp] theorem onLane_router_eq (s : State) (k n : Nat) (g : Lane → Lane) (u v : Nat) : (s.onLane k n g).router u v = s.router u v := rfl
@[simp] theorem onLane_field_eq (s : State) (k n : Nat) (g : Lane → Lane) (j : Nat) : (s.onLane k n g).field j = s.field j := rfl
@[simp] theorem onLane_bridge_eq (s : State) (k n : Nat) (g : Lane → Lane) (j : Nat) : (s.onLane k n g).bridge j = s.bridge j := rfl
@[simp] theorem onLane_part_eq (s : State) (k n : Nat) (g : Lane → Lane) (j : Nat) : (s.onLane k n g).part j = s.part j := rfl
@[simp] theorem onLane_session_eq (s : State) (k n : Nat) (g : Lane → Lane) (j : Nat) : (s.onLane k n g).session j = s.session j := rfl
@[simp] theorem onLane_bodyOut_eq (s : State) (k n : Nat) (g : Lane → Lane) (u v : Nat) : (s.onLane k n g).bodyOut u v = s.bodyOut u v := rfl
@[simp] theorem onLane_routerDead_eq (s : State) (k n : Nat) (g : Lane → Lane) (u v : Nat) : (s.onLane k n g).routerDead u v = s.routerDead u v := rfl
@[simp] theorem onLane_myMod_eq (s : State) (k n : Nat) (g : Lane → Lane) : (s.onLane k n g).myMod = s.myMod := rfl
@[simp] theorem onLane_ticks_eq (s : State) (k n : Nat) (g : Lane → Lane) : (s.onLane k n g).ticks = s.ticks := rfl

/-! ### After `onBridge` -/

@[simp] theorem onBridge_pending (s : State) (h : Nat) (g : Bridge → Bridge) : (s.onBridge h g).pending = s.pending := rfl
@[simp] theorem onBridge_cycle (s : State) (h : Nat) (g : Bridge → Bridge) : (s.onBridge h g).cycle = s.cycle := rfl
@[simp] theorem onBridge_mono (s : State) (h : Nat) (g : Bridge → Bridge) : (s.onBridge h g).mono = s.mono := rfl
@[simp] theorem onBridge_slowAt (s : State) (h : Nat) (g : Bridge → Bridge) : (s.onBridge h g).slowAt = s.slowAt := rfl
@[simp] theorem onBridge_fresh (s : State) (h : Nat) (g : Bridge → Bridge) : (s.onBridge h g).fresh = s.fresh := rfl
@[simp] theorem onBridge_cells (s : State) (h : Nat) (g : Bridge → Bridge) : (s.onBridge h g).cells = s.cells := rfl
@[simp] theorem onBridge_routers (s : State) (h : Nat) (g : Bridge → Bridge) : (s.onBridge h g).routers = s.routers := rfl
@[simp] theorem onBridge_fields (s : State) (h : Nat) (g : Bridge → Bridge) : (s.onBridge h g).fields = s.fields := rfl
@[simp] theorem onBridge_lanes (s : State) (h : Nat) (g : Bridge → Bridge) : (s.onBridge h g).lanes = s.lanes := rfl
@[simp] theorem onBridge_partitions (s : State) (h : Nat) (g : Bridge → Bridge) : (s.onBridge h g).partitions = s.partitions := rfl
@[simp] theorem onBridge_sessions (s : State) (h : Nat) (g : Bridge → Bridge) : (s.onBridge h g).sessions = s.sessions := rfl
@[simp] theorem onBridge_helm (s : State) (h : Nat) (g : Bridge → Bridge) : (s.onBridge h g).helm = s.helm := rfl
@[simp] theorem onBridge_cell_eq (s : State) (h : Nat) (g : Bridge → Bridge) (u v : Nat) : (s.onBridge h g).cell u v = s.cell u v := rfl
@[simp] theorem onBridge_router_eq (s : State) (h : Nat) (g : Bridge → Bridge) (u v : Nat) : (s.onBridge h g).router u v = s.router u v := rfl
@[simp] theorem onBridge_field_eq (s : State) (h : Nat) (g : Bridge → Bridge) (j : Nat) : (s.onBridge h g).field j = s.field j := rfl
@[simp] theorem onBridge_lane_eq (s : State) (h : Nat) (g : Bridge → Bridge) (i j : Nat) : (s.onBridge h g).lane i j = s.lane i j := rfl
@[simp] theorem onBridge_part_eq (s : State) (h : Nat) (g : Bridge → Bridge) (j : Nat) : (s.onBridge h g).part j = s.part j := rfl
@[simp] theorem onBridge_session_eq (s : State) (h : Nat) (g : Bridge → Bridge) (j : Nat) : (s.onBridge h g).session j = s.session j := rfl
@[simp] theorem onBridge_bodyOut_eq (s : State) (h : Nat) (g : Bridge → Bridge) (u v : Nat) : (s.onBridge h g).bodyOut u v = s.bodyOut u v := rfl
@[simp] theorem onBridge_routerDead_eq (s : State) (h : Nat) (g : Bridge → Bridge) (u v : Nat) : (s.onBridge h g).routerDead u v = s.routerDead u v := rfl
@[simp] theorem onBridge_myMod_eq (s : State) (h : Nat) (g : Bridge → Bridge) : (s.onBridge h g).myMod = s.myMod := rfl
@[simp] theorem onBridge_ticks_eq (s : State) (h : Nat) (g : Bridge → Bridge) : (s.onBridge h g).ticks = s.ticks := rfl

/-! ### After `onPart` -/

@[simp] theorem onPart_pending (s : State) (p : Nat) (g : Partition → Partition) : (s.onPart p g).pending = s.pending := rfl
@[simp] theorem onPart_cycle (s : State) (p : Nat) (g : Partition → Partition) : (s.onPart p g).cycle = s.cycle := rfl
@[simp] theorem onPart_mono (s : State) (p : Nat) (g : Partition → Partition) : (s.onPart p g).mono = s.mono := rfl
@[simp] theorem onPart_slowAt (s : State) (p : Nat) (g : Partition → Partition) : (s.onPart p g).slowAt = s.slowAt := rfl
@[simp] theorem onPart_fresh (s : State) (p : Nat) (g : Partition → Partition) : (s.onPart p g).fresh = s.fresh := rfl
@[simp] theorem onPart_cells (s : State) (p : Nat) (g : Partition → Partition) : (s.onPart p g).cells = s.cells := rfl
@[simp] theorem onPart_routers (s : State) (p : Nat) (g : Partition → Partition) : (s.onPart p g).routers = s.routers := rfl
@[simp] theorem onPart_fields (s : State) (p : Nat) (g : Partition → Partition) : (s.onPart p g).fields = s.fields := rfl
@[simp] theorem onPart_lanes (s : State) (p : Nat) (g : Partition → Partition) : (s.onPart p g).lanes = s.lanes := rfl
@[simp] theorem onPart_bridges (s : State) (p : Nat) (g : Partition → Partition) : (s.onPart p g).bridges = s.bridges := rfl
@[simp] theorem onPart_sessions (s : State) (p : Nat) (g : Partition → Partition) : (s.onPart p g).sessions = s.sessions := rfl
@[simp] theorem onPart_helm (s : State) (p : Nat) (g : Partition → Partition) : (s.onPart p g).helm = s.helm := rfl
@[simp] theorem onPart_cell_eq (s : State) (p : Nat) (g : Partition → Partition) (u v : Nat) : (s.onPart p g).cell u v = s.cell u v := rfl
@[simp] theorem onPart_router_eq (s : State) (p : Nat) (g : Partition → Partition) (u v : Nat) : (s.onPart p g).router u v = s.router u v := rfl
@[simp] theorem onPart_field_eq (s : State) (p : Nat) (g : Partition → Partition) (j : Nat) : (s.onPart p g).field j = s.field j := rfl
@[simp] theorem onPart_lane_eq (s : State) (p : Nat) (g : Partition → Partition) (i j : Nat) : (s.onPart p g).lane i j = s.lane i j := rfl
@[simp] theorem onPart_bridge_eq (s : State) (p : Nat) (g : Partition → Partition) (j : Nat) : (s.onPart p g).bridge j = s.bridge j := rfl
@[simp] theorem onPart_session_eq (s : State) (p : Nat) (g : Partition → Partition) (j : Nat) : (s.onPart p g).session j = s.session j := rfl
@[simp] theorem onPart_bodyOut_eq (s : State) (p : Nat) (g : Partition → Partition) (u v : Nat) : (s.onPart p g).bodyOut u v = s.bodyOut u v := rfl
@[simp] theorem onPart_routerDead_eq (s : State) (p : Nat) (g : Partition → Partition) (u v : Nat) : (s.onPart p g).routerDead u v = s.routerDead u v := rfl
@[simp] theorem onPart_myMod_eq (s : State) (p : Nat) (g : Partition → Partition) : (s.onPart p g).myMod = s.myMod := rfl
@[simp] theorem onPart_ticks_eq (s : State) (p : Nat) (g : Partition → Partition) : (s.onPart p g).ticks = s.ticks := rfl

/-! ### After `onSession` -/

@[simp] theorem onSession_pending (s : State) (n : Nat) (g : Session → Session) : (s.onSession n g).pending = s.pending := rfl
@[simp] theorem onSession_cycle (s : State) (n : Nat) (g : Session → Session) : (s.onSession n g).cycle = s.cycle := rfl
@[simp] theorem onSession_mono (s : State) (n : Nat) (g : Session → Session) : (s.onSession n g).mono = s.mono := rfl
@[simp] theorem onSession_slowAt (s : State) (n : Nat) (g : Session → Session) : (s.onSession n g).slowAt = s.slowAt := rfl
@[simp] theorem onSession_fresh (s : State) (n : Nat) (g : Session → Session) : (s.onSession n g).fresh = s.fresh := rfl
@[simp] theorem onSession_cells (s : State) (n : Nat) (g : Session → Session) : (s.onSession n g).cells = s.cells := rfl
@[simp] theorem onSession_routers (s : State) (n : Nat) (g : Session → Session) : (s.onSession n g).routers = s.routers := rfl
@[simp] theorem onSession_fields (s : State) (n : Nat) (g : Session → Session) : (s.onSession n g).fields = s.fields := rfl
@[simp] theorem onSession_lanes (s : State) (n : Nat) (g : Session → Session) : (s.onSession n g).lanes = s.lanes := rfl
@[simp] theorem onSession_bridges (s : State) (n : Nat) (g : Session → Session) : (s.onSession n g).bridges = s.bridges := rfl
@[simp] theorem onSession_partitions (s : State) (n : Nat) (g : Session → Session) : (s.onSession n g).partitions = s.partitions := rfl
@[simp] theorem onSession_helm (s : State) (n : Nat) (g : Session → Session) : (s.onSession n g).helm = s.helm := rfl
@[simp] theorem onSession_cell_eq (s : State) (n : Nat) (g : Session → Session) (u v : Nat) : (s.onSession n g).cell u v = s.cell u v := rfl
@[simp] theorem onSession_router_eq (s : State) (n : Nat) (g : Session → Session) (u v : Nat) : (s.onSession n g).router u v = s.router u v := rfl
@[simp] theorem onSession_field_eq (s : State) (n : Nat) (g : Session → Session) (j : Nat) : (s.onSession n g).field j = s.field j := rfl
@[simp] theorem onSession_lane_eq (s : State) (n : Nat) (g : Session → Session) (i j : Nat) : (s.onSession n g).lane i j = s.lane i j := rfl
@[simp] theorem onSession_bridge_eq (s : State) (n : Nat) (g : Session → Session) (j : Nat) : (s.onSession n g).bridge j = s.bridge j := rfl
@[simp] theorem onSession_part_eq (s : State) (n : Nat) (g : Session → Session) (j : Nat) : (s.onSession n g).part j = s.part j := rfl
@[simp] theorem onSession_bodyOut_eq (s : State) (n : Nat) (g : Session → Session) (u v : Nat) : (s.onSession n g).bodyOut u v = s.bodyOut u v := rfl
@[simp] theorem onSession_routerDead_eq (s : State) (n : Nat) (g : Session → Session) (u v : Nat) : (s.onSession n g).routerDead u v = s.routerDead u v := rfl
@[simp] theorem onSession_myMod_eq (s : State) (n : Nat) (g : Session → Session) : (s.onSession n g).myMod = s.myMod := rfl
@[simp] theorem onSession_ticks_eq (s : State) (n : Nat) (g : Session → Session) : (s.onSession n g).ticks = s.ticks := rfl

/-! ### After `onHelm` -/

@[simp] theorem onHelm_pending (s : State) (g : Helm → Helm) : (s.onHelm g).pending = s.pending := rfl
@[simp] theorem onHelm_cycle (s : State) (g : Helm → Helm) : (s.onHelm g).cycle = s.cycle := rfl
@[simp] theorem onHelm_mono (s : State) (g : Helm → Helm) : (s.onHelm g).mono = s.mono := rfl
@[simp] theorem onHelm_slowAt (s : State) (g : Helm → Helm) : (s.onHelm g).slowAt = s.slowAt := rfl
@[simp] theorem onHelm_fresh (s : State) (g : Helm → Helm) : (s.onHelm g).fresh = s.fresh := rfl
@[simp] theorem onHelm_cells (s : State) (g : Helm → Helm) : (s.onHelm g).cells = s.cells := rfl
@[simp] theorem onHelm_routers (s : State) (g : Helm → Helm) : (s.onHelm g).routers = s.routers := rfl
@[simp] theorem onHelm_fields (s : State) (g : Helm → Helm) : (s.onHelm g).fields = s.fields := rfl
@[simp] theorem onHelm_lanes (s : State) (g : Helm → Helm) : (s.onHelm g).lanes = s.lanes := rfl
@[simp] theorem onHelm_bridges (s : State) (g : Helm → Helm) : (s.onHelm g).bridges = s.bridges := rfl
@[simp] theorem onHelm_partitions (s : State) (g : Helm → Helm) : (s.onHelm g).partitions = s.partitions := rfl
@[simp] theorem onHelm_sessions (s : State) (g : Helm → Helm) : (s.onHelm g).sessions = s.sessions := rfl
@[simp] theorem onHelm_cell_eq (s : State) (g : Helm → Helm) (u v : Nat) : (s.onHelm g).cell u v = s.cell u v := rfl
@[simp] theorem onHelm_router_eq (s : State) (g : Helm → Helm) (u v : Nat) : (s.onHelm g).router u v = s.router u v := rfl
@[simp] theorem onHelm_field_eq (s : State) (g : Helm → Helm) (j : Nat) : (s.onHelm g).field j = s.field j := rfl
@[simp] theorem onHelm_lane_eq (s : State) (g : Helm → Helm) (i j : Nat) : (s.onHelm g).lane i j = s.lane i j := rfl
@[simp] theorem onHelm_bridge_eq (s : State) (g : Helm → Helm) (j : Nat) : (s.onHelm g).bridge j = s.bridge j := rfl
@[simp] theorem onHelm_part_eq (s : State) (g : Helm → Helm) (j : Nat) : (s.onHelm g).part j = s.part j := rfl
@[simp] theorem onHelm_session_eq (s : State) (g : Helm → Helm) (j : Nat) : (s.onHelm g).session j = s.session j := rfl

/-! ### After `onLog` -/

@[simp] theorem onLog_pending (s : State) (g : Logbook → Logbook) : (s.onLog g).pending = s.pending := rfl
@[simp] theorem onLog_cycle (s : State) (g : Logbook → Logbook) : (s.onLog g).cycle = s.cycle := rfl
@[simp] theorem onLog_mono (s : State) (g : Logbook → Logbook) : (s.onLog g).mono = s.mono := rfl
@[simp] theorem onLog_slowAt (s : State) (g : Logbook → Logbook) : (s.onLog g).slowAt = s.slowAt := rfl
@[simp] theorem onLog_fresh (s : State) (g : Logbook → Logbook) : (s.onLog g).fresh = s.fresh := rfl
@[simp] theorem onLog_cells (s : State) (g : Logbook → Logbook) : (s.onLog g).cells = s.cells := rfl
@[simp] theorem onLog_routers (s : State) (g : Logbook → Logbook) : (s.onLog g).routers = s.routers := rfl
@[simp] theorem onLog_fields (s : State) (g : Logbook → Logbook) : (s.onLog g).fields = s.fields := rfl
@[simp] theorem onLog_lanes (s : State) (g : Logbook → Logbook) : (s.onLog g).lanes = s.lanes := rfl
@[simp] theorem onLog_bridges (s : State) (g : Logbook → Logbook) : (s.onLog g).bridges = s.bridges := rfl
@[simp] theorem onLog_partitions (s : State) (g : Logbook → Logbook) : (s.onLog g).partitions = s.partitions := rfl
@[simp] theorem onLog_sessions (s : State) (g : Logbook → Logbook) : (s.onLog g).sessions = s.sessions := rfl
@[simp] theorem onLog_cell_eq (s : State) (g : Logbook → Logbook) (u v : Nat) : (s.onLog g).cell u v = s.cell u v := rfl
@[simp] theorem onLog_router_eq (s : State) (g : Logbook → Logbook) (u v : Nat) : (s.onLog g).router u v = s.router u v := rfl
@[simp] theorem onLog_field_eq (s : State) (g : Logbook → Logbook) (j : Nat) : (s.onLog g).field j = s.field j := rfl
@[simp] theorem onLog_lane_eq (s : State) (g : Logbook → Logbook) (i j : Nat) : (s.onLog g).lane i j = s.lane i j := rfl
@[simp] theorem onLog_bridge_eq (s : State) (g : Logbook → Logbook) (j : Nat) : (s.onLog g).bridge j = s.bridge j := rfl
@[simp] theorem onLog_part_eq (s : State) (g : Logbook → Logbook) (j : Nat) : (s.onLog g).part j = s.part j := rfl
@[simp] theorem onLog_session_eq (s : State) (g : Logbook → Logbook) (j : Nat) : (s.onLog g).session j = s.session j := rfl

/-! ### After `onPins` -/

@[simp] theorem onPins_pending (s : State) (g : Pins → Pins) : (s.onPins g).pending = s.pending := rfl
@[simp] theorem onPins_cycle (s : State) (g : Pins → Pins) : (s.onPins g).cycle = s.cycle := rfl
@[simp] theorem onPins_mono (s : State) (g : Pins → Pins) : (s.onPins g).mono = s.mono := rfl
@[simp] theorem onPins_slowAt (s : State) (g : Pins → Pins) : (s.onPins g).slowAt = s.slowAt := rfl
@[simp] theorem onPins_fresh (s : State) (g : Pins → Pins) : (s.onPins g).fresh = s.fresh := rfl
@[simp] theorem onPins_cells (s : State) (g : Pins → Pins) : (s.onPins g).cells = s.cells := rfl
@[simp] theorem onPins_routers (s : State) (g : Pins → Pins) : (s.onPins g).routers = s.routers := rfl
@[simp] theorem onPins_fields (s : State) (g : Pins → Pins) : (s.onPins g).fields = s.fields := rfl
@[simp] theorem onPins_lanes (s : State) (g : Pins → Pins) : (s.onPins g).lanes = s.lanes := rfl
@[simp] theorem onPins_bridges (s : State) (g : Pins → Pins) : (s.onPins g).bridges = s.bridges := rfl
@[simp] theorem onPins_partitions (s : State) (g : Pins → Pins) : (s.onPins g).partitions = s.partitions := rfl
@[simp] theorem onPins_sessions (s : State) (g : Pins → Pins) : (s.onPins g).sessions = s.sessions := rfl
@[simp] theorem onPins_cell_eq (s : State) (g : Pins → Pins) (u v : Nat) : (s.onPins g).cell u v = s.cell u v := rfl
@[simp] theorem onPins_router_eq (s : State) (g : Pins → Pins) (u v : Nat) : (s.onPins g).router u v = s.router u v := rfl
@[simp] theorem onPins_field_eq (s : State) (g : Pins → Pins) (j : Nat) : (s.onPins g).field j = s.field j := rfl
@[simp] theorem onPins_lane_eq (s : State) (g : Pins → Pins) (i j : Nat) : (s.onPins g).lane i j = s.lane i j := rfl
@[simp] theorem onPins_bridge_eq (s : State) (g : Pins → Pins) (j : Nat) : (s.onPins g).bridge j = s.bridge j := rfl
@[simp] theorem onPins_part_eq (s : State) (g : Pins → Pins) (j : Nat) : (s.onPins g).part j = s.part j := rfl
@[simp] theorem onPins_session_eq (s : State) (g : Pins → Pins) (j : Nat) : (s.onPins g).session j = s.session j := rfl

/-! ### After `onSteps` -/

@[simp] theorem onSteps_pending (s : State) (g : Steps → Steps) : (s.onSteps g).pending = s.pending := rfl
@[simp] theorem onSteps_cycle (s : State) (g : Steps → Steps) : (s.onSteps g).cycle = s.cycle := rfl
@[simp] theorem onSteps_mono (s : State) (g : Steps → Steps) : (s.onSteps g).mono = s.mono := rfl
@[simp] theorem onSteps_slowAt (s : State) (g : Steps → Steps) : (s.onSteps g).slowAt = s.slowAt := rfl
@[simp] theorem onSteps_fresh (s : State) (g : Steps → Steps) : (s.onSteps g).fresh = s.fresh := rfl
@[simp] theorem onSteps_cells (s : State) (g : Steps → Steps) : (s.onSteps g).cells = s.cells := rfl
@[simp] theorem onSteps_routers (s : State) (g : Steps → Steps) : (s.onSteps g).routers = s.routers := rfl
@[simp] theorem onSteps_fields (s : State) (g : Steps → Steps) : (s.onSteps g).fields = s.fields := rfl
@[simp] theorem onSteps_lanes (s : State) (g : Steps → Steps) : (s.onSteps g).lanes = s.lanes := rfl
@[simp] theorem onSteps_bridges (s : State) (g : Steps → Steps) : (s.onSteps g).bridges = s.bridges := rfl
@[simp] theorem onSteps_partitions (s : State) (g : Steps → Steps) : (s.onSteps g).partitions = s.partitions := rfl
@[simp] theorem onSteps_sessions (s : State) (g : Steps → Steps) : (s.onSteps g).sessions = s.sessions := rfl
@[simp] theorem onSteps_cell_eq (s : State) (g : Steps → Steps) (u v : Nat) : (s.onSteps g).cell u v = s.cell u v := rfl
@[simp] theorem onSteps_router_eq (s : State) (g : Steps → Steps) (u v : Nat) : (s.onSteps g).router u v = s.router u v := rfl
@[simp] theorem onSteps_field_eq (s : State) (g : Steps → Steps) (j : Nat) : (s.onSteps g).field j = s.field j := rfl
@[simp] theorem onSteps_lane_eq (s : State) (g : Steps → Steps) (i j : Nat) : (s.onSteps g).lane i j = s.lane i j := rfl
@[simp] theorem onSteps_bridge_eq (s : State) (g : Steps → Steps) (j : Nat) : (s.onSteps g).bridge j = s.bridge j := rfl
@[simp] theorem onSteps_part_eq (s : State) (g : Steps → Steps) (j : Nat) : (s.onSteps g).part j = s.part j := rfl
@[simp] theorem onSteps_session_eq (s : State) (g : Steps → Steps) (j : Nat) : (s.onSteps g).session j = s.session j := rfl

/-! ### After `onClocks` -/

@[simp] theorem onClocks_pending (s : State) (g : Clocks → Clocks) : (s.onClocks g).pending = s.pending := rfl
@[simp] theorem onClocks_cycle (s : State) (g : Clocks → Clocks) : (s.onClocks g).cycle = s.cycle := rfl
@[simp] theorem onClocks_mono (s : State) (g : Clocks → Clocks) : (s.onClocks g).mono = s.mono := rfl
@[simp] theorem onClocks_slowAt (s : State) (g : Clocks → Clocks) : (s.onClocks g).slowAt = s.slowAt := rfl
@[simp] theorem onClocks_fresh (s : State) (g : Clocks → Clocks) : (s.onClocks g).fresh = s.fresh := rfl
@[simp] theorem onClocks_cells (s : State) (g : Clocks → Clocks) : (s.onClocks g).cells = s.cells := rfl
@[simp] theorem onClocks_routers (s : State) (g : Clocks → Clocks) : (s.onClocks g).routers = s.routers := rfl
@[simp] theorem onClocks_fields (s : State) (g : Clocks → Clocks) : (s.onClocks g).fields = s.fields := rfl
@[simp] theorem onClocks_lanes (s : State) (g : Clocks → Clocks) : (s.onClocks g).lanes = s.lanes := rfl
@[simp] theorem onClocks_bridges (s : State) (g : Clocks → Clocks) : (s.onClocks g).bridges = s.bridges := rfl
@[simp] theorem onClocks_partitions (s : State) (g : Clocks → Clocks) : (s.onClocks g).partitions = s.partitions := rfl
@[simp] theorem onClocks_sessions (s : State) (g : Clocks → Clocks) : (s.onClocks g).sessions = s.sessions := rfl
@[simp] theorem onClocks_cell_eq (s : State) (g : Clocks → Clocks) (u v : Nat) : (s.onClocks g).cell u v = s.cell u v := rfl
@[simp] theorem onClocks_router_eq (s : State) (g : Clocks → Clocks) (u v : Nat) : (s.onClocks g).router u v = s.router u v := rfl
@[simp] theorem onClocks_field_eq (s : State) (g : Clocks → Clocks) (j : Nat) : (s.onClocks g).field j = s.field j := rfl
@[simp] theorem onClocks_lane_eq (s : State) (g : Clocks → Clocks) (i j : Nat) : (s.onClocks g).lane i j = s.lane i j := rfl
@[simp] theorem onClocks_bridge_eq (s : State) (g : Clocks → Clocks) (j : Nat) : (s.onClocks g).bridge j = s.bridge j := rfl
@[simp] theorem onClocks_part_eq (s : State) (g : Clocks → Clocks) (j : Nat) : (s.onClocks g).part j = s.part j := rfl
@[simp] theorem onClocks_session_eq (s : State) (g : Clocks → Clocks) (j : Nat) : (s.onClocks g).session j = s.session j := rfl

/-! ### After `draw` -/

@[simp] theorem draw_pending (s : State) : (s.draw).pending = s.pending := rfl
@[simp] theorem draw_cycle (s : State) : (s.draw).cycle = s.cycle := rfl
@[simp] theorem draw_mono (s : State) : (s.draw).mono = s.mono := rfl
@[simp] theorem draw_slowAt (s : State) : (s.draw).slowAt = s.slowAt := rfl
@[simp] theorem draw_cells (s : State) : (s.draw).cells = s.cells := rfl
@[simp] theorem draw_routers (s : State) : (s.draw).routers = s.routers := rfl
@[simp] theorem draw_fields (s : State) : (s.draw).fields = s.fields := rfl
@[simp] theorem draw_lanes (s : State) : (s.draw).lanes = s.lanes := rfl
@[simp] theorem draw_bridges (s : State) : (s.draw).bridges = s.bridges := rfl
@[simp] theorem draw_partitions (s : State) : (s.draw).partitions = s.partitions := rfl
@[simp] theorem draw_sessions (s : State) : (s.draw).sessions = s.sessions := rfl
@[simp] theorem draw_helm (s : State) : (s.draw).helm = s.helm := rfl
@[simp] theorem draw_cell_eq (s : State) (u v : Nat) : (s.draw).cell u v = s.cell u v := rfl
@[simp] theorem draw_router_eq (s : State) (u v : Nat) : (s.draw).router u v = s.router u v := rfl
@[simp] theorem draw_field_eq (s : State) (j : Nat) : (s.draw).field j = s.field j := rfl
@[simp] theorem draw_lane_eq (s : State) (i j : Nat) : (s.draw).lane i j = s.lane i j := rfl
@[simp] theorem draw_bridge_eq (s : State) (j : Nat) : (s.draw).bridge j = s.bridge j := rfl
@[simp] theorem draw_part_eq (s : State) (j : Nat) : (s.draw).part j = s.part j := rfl
@[simp] theorem draw_session_eq (s : State) (j : Nat) : (s.draw).session j = s.session j := rfl
@[simp] theorem draw_bodyOut_eq (s : State) (u v : Nat) : (s.draw).bodyOut u v = s.bodyOut u v := rfl
@[simp] theorem draw_routerDead_eq (s : State) (u v : Nat) : (s.draw).routerDead u v = s.routerDead u v := rfl
@[simp] theorem draw_myMod_eq (s : State) : (s.draw).myMod = s.myMod := rfl
@[simp] theorem draw_ticks_eq (s : State) : (s.draw).ticks = s.ticks := rfl

/-! ### What an update writes -/

theorem setCell_cell (s : State) (x y u v : Nat) (c : Cell) :
    (s.setCell x y c).cell u v = if siteIx u v = siteIx x y then c else s.cell u v := tgetD_tset _ _ _ _ _

@[simp] theorem setCell_cell_same (s : State) (x y : Nat) (c : Cell) : (s.setCell x y c).cell x y = c := by simp [setCell_cell]

theorem setCell_cell_other (s : State) {x y u v : Nat} (c : Cell) (h : siteIx u v ≠ siteIx x y) :
    (s.setCell x y c).cell u v = s.cell u v := by simp [setCell_cell, h]

@[simp] theorem onCell_cell_same (s : State) (x y : Nat) (f : Cell → Cell) : (s.onCell x y f).cell x y = f (s.cell x y) :=
  setCell_cell_same _ _ _ _

theorem onCell_cell_other (s : State) {x y u v : Nat} (f : Cell → Cell) (h : siteIx u v ≠ siteIx x y) :
    (s.onCell x y f).cell u v = s.cell u v := setCell_cell_other _ _ h

theorem onRouter_router (s : State) (x y u v : Nat) (f : Router → Router) :
    (s.onRouter x y f).router u v = if siteIx u v = siteIx x y then f (s.router x y) else s.router u v := tgetD_tset _ _ _ _ _

@[simp] theorem onRouter_router_same (s : State) (x y : Nat) (f : Router → Router) :
    (s.onRouter x y f).router x y = f (s.router x y) := by simp [onRouter_router]

theorem onRouter_router_other (s : State) {x y u v : Nat} (f : Router → Router) (h : siteIx u v ≠ siteIx x y) :
    (s.onRouter x y f).router u v = s.router u v := by simp [onRouter_router, h]

theorem onField_field (s : State) (f j : Nat) (g : Field → Field) :
    (s.onField f g).field j = if j = f then g (s.field f) else s.field j := tgetD_tset _ _ _ _ _

@[simp] theorem onField_field_same (s : State) (f : Nat) (g : Field → Field) : (s.onField f g).field f = g (s.field f) := by
  simp [onField_field]

theorem onField_field_other (s : State) {f j : Nat} (g : Field → Field) (h : j ≠ f) : (s.onField f g).field j = s.field j := by
  simp [onField_field, h]

/-- A field's update that keeps the draw of its lost contents leaves every cell as it was. -/
theorem onField_cell (s : State) (f u v : Nat) (g : Field → Field) (h : (g (s.field f)).lostGen = (s.field f).lostGen) :
    (s.onField f g).cell u v = s.cell u v := by
  have : (tgetD (s.onField f g).fields (fieldOf u v) Field.reset).lostGen = (tgetD s.fields (fieldOf u v) Field.reset).lostGen := by
    have e := onField_field s f (fieldOf u v) g
    simp only [State.field] at e
    rw [e]
    split
    · next hj => rw [hj]; exact h
    · rfl
  show tgetD s.cells _ (cellDefault _ _) = tgetD s.cells _ (cellDefault _ _)
  rw [this]

theorem onLane_lane (s : State) (k n i j : Nat) (g : Lane → Lane) :
    (s.onLane k n g).lane i j = if 96 * i + j = 96 * k + n then g (s.lane k n) else s.lane i j := tgetD_tset _ _ _ _ _

@[simp] theorem onLane_lane_same (s : State) (k n : Nat) (g : Lane → Lane) : (s.onLane k n g).lane k n = g (s.lane k n) := by
  simp [onLane_lane]

theorem onBridge_bridge (s : State) (h j : Nat) (g : Bridge → Bridge) :
    (s.onBridge h g).bridge j = if j = h then g (s.bridge h) else s.bridge j := tgetD_tset _ _ _ _ _

@[simp] theorem onBridge_bridge_same (s : State) (h : Nat) (g : Bridge → Bridge) : (s.onBridge h g).bridge h = g (s.bridge h) := by
  simp [onBridge_bridge]

theorem onBridge_bridge_other (s : State) {h j : Nat} (g : Bridge → Bridge) (e : j ≠ h) :
    (s.onBridge h g).bridge j = s.bridge j := by simp [onBridge_bridge, e]

theorem onPart_part (s : State) (p j : Nat) (g : Partition → Partition) :
    (s.onPart p g).part j = if j = p then g (s.part p) else s.part j := tgetD_tset _ _ _ _ _

@[simp] theorem onPart_part_same (s : State) (p : Nat) (g : Partition → Partition) : (s.onPart p g).part p = g (s.part p) := by
  simp [onPart_part]

theorem onSession_session (s : State) (n j : Nat) (g : Session → Session) :
    (s.onSession n g).session j = if j = n then g (s.session n) else s.session j := tgetD_tset _ _ _ _ _

@[simp] theorem onSession_session_same (s : State) (n : Nat) (g : Session → Session) :
    (s.onSession n g).session n = g (s.session n) := by simp [onSession_session]

@[simp] theorem onHelm_helm (s : State) (g : Helm → Helm) : (s.onHelm g).helm = g s.helm := rfl
@[simp] theorem onLog_helm (s : State) (g : Logbook → Logbook) : (s.onLog g).helm = { s.helm with log := g s.helm.log } := rfl
@[simp] theorem onPins_helm (s : State) (g : Pins → Pins) : (s.onPins g).helm = { s.helm with pins := g s.helm.pins } := rfl
@[simp] theorem onSteps_helm (s : State) (g : Steps → Steps) : (s.onSteps g).helm = { s.helm with steps := g s.helm.steps } := rfl
@[simp] theorem onClocks_helm (s : State) (g : Clocks → Clocks) :
    (s.onClocks g).helm = { s.helm with clocks := g s.helm.clocks } := rfl
@[simp] theorem draw_fresh (s : State) : s.draw.fresh = s.fresh + 1 := rfl

end Sys2Proof.Machine
end

