-- ==== Sys2Proof/Laws/Fire.lean ====
section
/-!
SUPPORT. The shared operation of every slot firing: what it answers, and what an issue does to the cell.
-/
namespace Sys2Proof.Machine

/-! ### Lists without repeats -/

theorem mem_dedup (l : List Nat) (q : Nat) : q ∈ dedup l ↔ q ∈ l := by
  have key : ∀ (l acc : List Nat), q ∈ l.foldl (fun acc k => if acc.contains k then acc else acc ++ [k]) acc ↔ q ∈ acc ∨ q ∈ l := by
    intro l
    induction l with
    | nil => simp
    | cons k l ih =>
      intro acc
      rw [List.foldl_cons, ih]
      by_cases hk : acc.contains k
      · have : k ∈ acc := by simpa using hk
        simp only [hk, if_true, List.mem_cons]
        constructor
        · rintro (h | h)
          · exact .inl h
          · exact .inr (.inr h)
        · rintro (h | rfl | h)
          · exact .inl h
          · exact .inl this
          · exact .inr h
      · simp only [hk, Bool.false_eq_true, if_false, List.mem_append, List.mem_cons, List.not_mem_nil, or_false, or_assoc]
  simpa [dedup] using key l []

theorem dedup_nodup (l : List Nat) : (dedup l).Nodup := by
  have key : ∀ (l acc : List Nat), acc.Nodup → (l.foldl (fun acc k => if acc.contains k then acc else acc ++ [k]) acc).Nodup := by
    intro l
    induction l with
    | nil => intro acc h; exact h
    | cons k l ih =>
      intro acc h
      rw [List.foldl_cons]
      apply ih
      by_cases hk : acc.contains k
      · rw [if_pos hk]; exact h
      · have hk' : k ∉ acc := by simpa using hk
        simp only [hk, Bool.false_eq_true, if_false]
        exact List.nodup_append.2 ⟨h, by simp, by rintro a ha b hb rfl; simp at hb; exact hk' (hb ▸ ha)⟩
  exact key l [] List.nodup_nil

/-! ### Pops -/

@[simp] theorem setQueue_queue_same (c : Cell) (q : Nat) (v : Queue) : (c.setQueue q v).queue q = v := tgetD_tset_same _ _ _ _

theorem setQueue_queue (c : Cell) (q j : Nat) (v : Queue) : (c.setQueue q v).queue j = if j = q then v else c.queue j :=
  tgetD_tset _ _ _ _ _

/-- A pop takes the head item of its queue and touches no other. -/
theorem pop_hw (c : Cell) (cycle q j : Nat) : ((c.pop cycle q).queue j).hw = if j = q then (c.queue q).hw.drop 1 else (c.queue j).hw := by
  unfold Cell.pop
  rw [setQueue_queue]
  split <;> rfl

theorem pop_ring (c : Cell) (cycle q j : Nat) : ((c.pop cycle q).queue j).ring = (c.queue j).ring := by
  unfold Cell.pop
  rw [setQueue_queue]
  split
  · next h => rw [h]
  · rfl

/-- Pops of queues named once each. -/
theorem pops_hw (l : List Nat) (c : Cell) (cycle j : Nat) (h : l.Nodup) :
    ((l.foldl (fun c q => c.pop cycle q) c).queue j).hw = if j ∈ l then (c.queue j).hw.drop 1 else (c.queue j).hw := by
  induction l generalizing c with
  | nil => simp
  | cons q l ih =>
    have hq := List.nodup_cons.1 h
    rw [List.foldl_cons, ih _ hq.2, pop_hw]
    by_cases hj : j = q
    · subst hj; simp [hq.1]
    · simp [hj]

theorem pops_ring (l : List Nat) (c : Cell) (cycle j : Nat) :
    ((l.foldl (fun c q => c.pop cycle q) c).queue j).ring = (c.queue j).ring := by
  induction l generalizing c with
  | nil => rfl
  | cons q l ih => rw [List.foldl_cons, ih, pop_ring]

/-- Pops change nothing of a cell but its queues. -/
theorem pops_rest (l : List Nat) (c : Cell) (cycle : Nat) :
    l.foldl (fun c q => c.pop cycle q) c = { c with queues := (l.foldl (fun c q => c.pop cycle q) c).queues } := by
  induction l generalizing c with
  | nil => rfl
  | cons q l ih => rw [List.foldl_cons, ih]; rfl

/-! ### The issue -/

/-- The issue as one update: queues, the slot's run data, units held, and the count of firings. -/
theorem take_eq (c : Cell) (cycle n : Nat) (p : Plan) :
    c.take cycle n p = { c with
      queues := ((dedup p.pops).foldl (fun c q => c.pop cycle q) c).queues,
      runs := tset c.runs n { c.run n with count := (c.run n).count + 1, left := (c.run n).left - 1,
                                           retired := lastFiring (c.slot n) (c.run n) },
      busy := p.units.map (fun u => (u, c.pulse + p.hold)) ++ c.busy.filter (fun b => c.pulse < b.2),
      firings := satInc c.firings, lastIssue := some (c.pulse, n) } := by
  unfold Cell.take
  dsimp only
  rw [pops_rest]
  rfl

theorem take_hw (c : Cell) (cycle n : Nat) (p : Plan) (q : Nat) :
    ((c.take cycle n p).queue q).hw = if q ∈ p.pops then (c.queue q).hw.drop 1 else (c.queue q).hw := by
  have h := pops_hw (dedup p.pops) c cycle q (dedup_nodup _)
  rw [take_eq]
  simp only [mem_dedup] at h
  exact h

theorem take_ring (c : Cell) (cycle n : Nat) (p : Plan) (q : Nat) : ((c.take cycle n p).queue q).ring = (c.queue q).ring := by
  have h := pops_ring (dedup p.pops) c cycle q
  rw [take_eq]
  exact h

theorem take_run (c : Cell) (cycle n : Nat) (p : Plan) (m : Nat) :
    (c.take cycle n p).run m = if m = n then { c.run n with count := (c.run n).count + 1, left := (c.run n).left - 1,
                                                            retired := lastFiring (c.slot n) (c.run n) } else c.run m := by
  rw [take_eq]
  exact tgetD_tset _ _ _ _ _

@[simp] theorem take_firings (c : Cell) (cycle n : Nat) (p : Plan) : (c.take cycle n p).firings = satInc c.firings := by rw [take_eq]
@[simp] theorem take_ops (c : Cell) (cycle n : Nat) (p : Plan) : (c.take cycle n p).ops = c.ops := by rw [take_eq]
@[simp] theorem take_aflags (c : Cell) (cycle n : Nat) (p : Plan) : (c.take cycle n p).aflags = c.aflags := by rw [take_eq]
@[simp] theorem take_data (c : Cell) (cycle n : Nat) (p : Plan) : (c.take cycle n p).data = c.data := by rw [take_eq]
@[simp] theorem take_walk (c : Cell) (cycle n : Nat) (p : Plan) : (c.take cycle n p).walk = c.walk := by rw [take_eq]
@[simp] theorem take_walkPos (c : Cell) (cycle n : Nat) (p : Plan) (i : Nat) : (c.take cycle n p).walkPos i = c.walkPos i := by
  rw [take_eq]; rfl

/-! ### The firing -/

/-- A ready slot that no lower one beats, with nothing uncorrectable in its way, fires. -/
theorem fire_ready {s : State} {x y n : Nat} {isOp : Cls → BitVec 128 → Bool} {body : Cls → Cell → Plan → Fired} {p : Plan}
    (hs : siteOk x y = true) (hn : n < 64) (hb : s.bodyOut x y = false) (hc : s.clocked x y = true)
    (ho : isOp (clsOf x y) ((s.cell x y).slot n) = true) (hr : slotReady (clsOf x y) (s.cell x y) n = some p)
    (hw : beaten (clsOf x y) (s.cell x y) n p = false) (h1 : storeHit (s.cell x y) n p = none)
    (h2 : queueHit (s.cell x y) p = false) :
    s.fire x y n isOp body = .next (s.finish x y n p (body (clsOf x y) (s.cell x y) p)) := by
  have hn' : ¬ 64 ≤ n := by omega
  simp [State.fire, hs, hn', hb, hc, ho, hr, hw, h1, h2]

/-- Whatever a firing answers at a site and slot that exist is a next state. -/
theorem fire_next (s : State) (x y n : Nat) (isOp : Cls → BitVec 128 → Bool) (body : Cls → Cell → Plan → Fired)
    (hs : siteOk x y = true) (hn : n < 64) : ∃ t, s.fire x y n isOp body = .next t := by
  have hn' : ¬ 64 ≤ n := by omega
  simp only [State.fire, hs, hn', if_false, Bool.not_true, Bool.false_eq_true]
  split
  · exact ⟨_, rfl⟩
  · split
    · exact ⟨_, rfl⟩
    · split
      · exact ⟨_, rfl⟩
      · split
        · exact ⟨_, rfl⟩
        · split <;> exact ⟨_, rfl⟩

/-- A firing that freezes nothing: its cell is the op's own cell after the issue, its packets wait at the router. -/
theorem finish_cell (s : State) (x y n : Nat) (p : Plan) (c : Cell) (l : List Packet) :
    (s.finish x y n p { cell := c, sends := l, frz := none, taken := true }).cell x y = c.take s.cycle n p := by
  simp [State.finish]

theorem finish_cell_other (s : State) {x y n : Nat} (p : Plan) (f : Fired) {u v : Nat} (h : siteIx u v ≠ siteIx x y) :
    (s.finish x y n p f).cell u v = s.cell u v := by
  obtain ⟨c, l, z, b⟩ := f
  cases z <;> simp [State.finish, State.freezeCell, State.report, setCell_cell, onCell_cell_other, h]

theorem finish_router (s : State) (x y n : Nat) (p : Plan) (c : Cell) (l : List Packet) :
    (s.finish x y n p { cell := c, sends := l, frz := none, taken := true }).router x y =
      { s.router x y with inject := (s.router x y).inject ++ l } := by
  simp [State.finish]

theorem finish_router_other (s : State) {x y n : Nat} (p : Plan) (f : Fired) {u v : Nat} (h : siteIx u v ≠ siteIx x y) :
    (s.finish x y n p f).router u v = s.router u v := by
  obtain ⟨c, l, z, b⟩ := f
  cases z <;> simp [State.finish, State.freezeCell, State.report, onRouter_router, h]

end Sys2Proof.Machine
end

