-- ==== Sys2Proof/Laws/Kept.lean ====
section
/-!
SUPPORT. The waiting commands and the one-time programmable store: no operation but HELM_VERIFY touches either.
-/
namespace Sys2Proof.Machine

/-- The queue of waiting commands and the OTP store. -/
def kept (s : State) : List Instr × Otp := (s.pending, s.helm.otp)

/-- An answer that, if it is a next state, has this queue and OTP store. -/
def KeptRes (r : Res) (k : List Instr × Otp) : Prop := ∀ t, r = .next t → kept t = k

/-- An optional state that, if there is one, has this queue and OTP store. -/
def KeptOpt (r : Option State) (k : List Instr × Otp) : Prop := ∀ t, r = some t → kept t = k

@[simp] theorem kept_mk (s : State) (c m sl f : Nat) (ce ro fi la br pa se) :
    kept (State.mk s.pending c m sl f ce ro fi la br pa se s.helm) = kept s := rfl

theorem kept_mk_helm (s : State) (c m sl f : Nat) (ce ro fi la br pa se) (h : Helm) (e : h.otp = s.helm.otp) :
    kept (State.mk s.pending c m sl f ce ro fi la br pa se h) = kept s := by simp [kept, e]

@[simp] theorem kept_onHelm (s : State) (g : Helm → Helm) (e : ∀ h, (g h).otp = h.otp) : kept (s.onHelm g) = kept s := by
  simp [kept, State.onHelm, e]

@[simp] theorem kept_foldl {α : Type} (l : List α) (f : State → α → State) (s : State) (e : ∀ s a, kept (f s a) = kept s) :
    kept (l.foldl f s) = kept s := by
  induction l generalizing s with
  | nil => rfl
  | cons a l ih => rw [List.foldl_cons, ih, e]

@[simp] theorem keptRes_next (t : State) (k) : KeptRes (.next t) k ↔ kept t = k := by
  simp [KeptRes]

@[simp] theorem keptRes_fault (f : Fault) (k) : KeptRes (.fault f) k := by simp [KeptRes]

@[simp] theorem keptRes_ite (c : Prop) [Decidable c] (a b : Res) (k) :
    KeptRes (if c then a else b) k ↔ (c → KeptRes a k) ∧ (¬ c → KeptRes b k) := by split <;> simp [*]

@[simp] theorem keptOpt_some (t : State) (k) : KeptOpt (some t) k ↔ kept t = k := by simp [KeptOpt]

@[simp] theorem keptOpt_none (k) : KeptOpt none k := by simp [KeptOpt]

@[simp] theorem keptOpt_ite (c : Prop) [Decidable c] (a b : Option State) (k) :
    KeptOpt (if c then a else b) k ↔ (c → KeptOpt a k) ∧ (¬ c → KeptOpt b k) := by split <;> simp [*]

@[simp] theorem kept_ite (c : Prop) [Decidable c] (a b : State) (k) :
    (kept (if c then a else b) = k) ↔ (c → kept a = k) ∧ (¬ c → kept b = k) := by split <;> simp [*]

@[simp] theorem kept_setCell (s : State) (x y : Nat) (c : Cell) :
    kept (State.setCell s x y c) = kept s := by
  simp [State.setCell]

@[simp] theorem kept_onCell (s : State) (x y : Nat) (f : Cell → Cell) :
    kept (State.onCell s x y f) = kept s := by
  simp [State.onCell]

@[simp] theorem kept_onRouter (s : State) (x y : Nat) (f : Router → Router) :
    kept (State.onRouter s x y f) = kept s := by
  simp [State.onRouter]

@[simp] theorem kept_onField (s : State) (f : Nat) (g : Field → Field) :
    kept (State.onField s f g) = kept s := by
  simp [State.onField]

@[simp] theorem kept_onLane (s : State) (k n : Nat) (g : Lane → Lane) :
    kept (State.onLane s k n g) = kept s := by
  simp [State.onLane]

@[simp] theorem kept_onBridge (s : State) (h : Nat) (g : Bridge → Bridge) :
    kept (State.onBridge s h g) = kept s := by
  simp [State.onBridge]

@[simp] theorem kept_onPart (s : State) (p : Nat) (g : Partition → Partition) :
    kept (State.onPart s p g) = kept s := by
  simp [State.onPart]

@[simp] theorem kept_onSession (s : State) (n : Nat) (g : Session → Session) :
    kept (State.onSession s n g) = kept s := by
  simp [State.onSession]

@[simp] theorem kept_onLog (s : State) (g : Logbook → Logbook) :
    kept (State.onLog s g) = kept s := by
  simp [State.onLog]

@[simp] theorem kept_onPins (s : State) (g : Pins → Pins) :
    kept (State.onPins s g) = kept s := by
  simp [State.onPins]

@[simp] theorem kept_onSteps (s : State) (g : Steps → Steps) :
    kept (State.onSteps s g) = kept s := by
  simp [State.onSteps]

@[simp] theorem kept_onClocks (s : State) (g : Clocks → Clocks) :
    kept (State.onClocks s g) = kept s := by
  simp [State.onClocks]

@[simp] theorem kept_draw (s : State) :
    kept (State.draw s) = kept s := by
  simp [State.draw]

@[simp] theorem kept_fwLog (s : State) (r : LogRec) :
    kept (State.fwLog s r) = kept s := by
  simp [State.fwLog]

@[simp] theorem kept_romLog (s : State) (r : LogRec) :
    kept (State.romLog s r) = kept s := by
  simp [State.romLog]

@[simp] theorem kept_hwLog (s : State) (r : LogRec) :
    kept (State.hwLog s r) = kept s := by
  simp [State.hwLog]

@[simp] theorem kept_count (s : State) (id n : Nat) :
    kept (State.count s id n) = kept s := by
  simp [State.count]

@[simp] theorem kept_countPart (s : State) (p id n : Nat) :
    kept (State.countPart s p id n) = kept s := by
  simp [State.countPart]

@[simp] theorem kept_report (s : State) (x y : Nat) (kind : Nat) (code : Code) (index aflags detail : Nat) (addr : Dword) :
    kept (State.report s x y kind code index aflags detail addr) = kept s := by
  simp [State.report]

@[simp] theorem kept_freezeCell (s : State) (x y : Nat) (code : Code) (index detail : Nat) (addr : Dword) :
    kept (State.freezeCell s x y code index detail addr) = kept s := by
  simp [State.freezeCell]

@[simp] theorem kept_finish (s : State) (x y n : Nat) (p : Plan) (f : Fired) :
    kept (State.finish s x y n p f) = kept s := by
  unfold State.finish
  (repeat' split) <;> simp

@[simp] theorem kept_fire (s : State) (x y n : Nat) (isOp : Cls → BitVec 128 → Bool) (body : Cls → Cell → Plan → Fired) :
    KeptRes (State.fire s x y n isOp body) (kept s) := by
  simp only [State.fire]
  (repeat' split) <;> simp

@[simp] theorem kept_inject (s : State) (x y : Nat) (l : List Packet) :
    kept (State.inject s x y l) = kept s := by
  simp [State.inject]

@[simp] theorem kept_onBody (s : State) (x y : Nat) (f : Cell → Cell) :
    KeptRes (State.onBody s x y f) (kept s) := by
  simp [State.onBody]

@[simp] theorem kept_retireReport (s : State) (x y : Nat) :
    kept (State.retireReport s x y) = kept s := by
  simp [State.retireReport]

@[simp] theorem kept_noteTurn (s : State) (x y port : Nat) (p : Packet) :
    kept (State.noteTurn s x y port p) = kept s := by
  simp [State.noteTurn]

@[simp] theorem kept_swReport (s : State) (x y : Nat) (p : Packet) (code : Code) :
    kept (swReport s x y p code) = kept s := by
  simp [swReport]

@[simp] theorem kept_swApply (s : State) (x y : Nat) (p : Packet) (f : Dword → Word → SwOut) :
    kept (swApply s x y p f) = kept s := by
  simp only [swApply]
  (repeat' split) <;> simp

@[simp] theorem kept_swWait (s : State) (x y : Nat) (p : Packet) :
    kept (swWait s x y p) = kept s := by
  simp [swWait]

@[simp] theorem kept_syncOp (s : State) (x y : Nat) (is : Packet → Bool) (f : State → Packet → State) (e : ∀ s p, kept (f s p) = kept s) :
    KeptRes (State.syncOp s x y is f) (kept s) := by
  unfold State.syncOp
  (repeat' split) <;> simp [e]

@[simp] theorem kept_swClear (s : State) (x y k : Nat) :
    kept (swClear s x y k) = kept s := by
  simp [swClear]

@[simp] theorem kept_onSw (s : State) (x y : Nat) (f : State → State) (e : ∀ s, kept (f s) = kept s) :
    KeptRes (State.onSw s x y f) (kept s) := by
  unfold State.onSw
  (repeat' split) <;> simp [e]

@[simp] theorem kept_swHoldLo (s : State) (x y k : Nat) (v : Word) :
    kept (swHoldLo s x y k v) = kept s := by
  simp [swHoldLo]

@[simp] theorem kept_swWriteHi (s : State) (x y k : Nat) (v : Word) :
    kept (swWriteHi s x y k v) = kept s := by
  simp [swWriteHi]

@[simp] theorem kept_swReadLo (s : State) (x y k : Nat) :
    kept (swReadLo s x y k) = kept s := by
  simp [swReadLo]

@[simp] theorem kept_writeFence (s : State) (x y : Nat) (v : Word) :
    kept (State.writeFence s x y v) = kept s := by
  simp [State.writeFence]

@[simp] theorem kept_sameFence (s : State) (f bit : Nat) :
    kept (State.sameFence s f bit) = kept s := by
  simp [State.sameFence]

@[simp] theorem kept_setPreset (s : State) (f : Nat) (v : Bool) :
    kept (State.setPreset s f v) = kept s := by
  simp [State.setPreset]

@[simp] theorem kept_setFieldOff (s : State) (f : Nat) (v : Bool) :
    kept (State.setFieldOff s f v) = kept s := by
  simp [State.setFieldOff]

@[simp] theorem kept_routerReport (s : State) (x y : Nat) (code : Code) (index detail : Nat) :
    kept (State.routerReport s x y code index detail) = kept s := by
  simp [State.routerReport]

@[simp] theorem kept_bounce (s : State) (x y : Nat) (p : Packet) (code : Code) (reason : Nat) (routed : Bool) :
    kept (State.bounce s x y p code reason routed) = kept s := by
  simp [State.bounce]

@[simp] theorem kept_countAt (s : State) (x y id n : Nat) :
    kept (State.countAt s x y id n) = kept s := by
  unfold State.countAt
  (repeat' split) <;> simp

@[simp] theorem kept_takeCounts (s : State) (here : Nat → Bool) :
    kept (State.takeCounts s here) = kept s := by
  simp [State.takeCounts]

@[simp] theorem kept_laneSend (s : State) (x y o : Nat) (it : Item) (bad : Bool) :
    kept (State.laneSend s x y o it bad) = kept s := by
  simp only [State.laneSend]
  (repeat' split) <;> simp

@[simp] theorem kept_linkUp (s : State) (x y : Nat) :
    kept (State.linkUp s x y) = kept s := by
  simp [State.linkUp]

@[simp] theorem kept_flitEcc (s : State) (x y : Nat) (ecc : Ecc) :
    kept (State.flitEcc s x y ecc) = kept s := by
  simp [State.flitEcc]

@[simp] theorem kept_laneMove (s : State) (x y l : Nat) (ecc : Ecc) (ok : Nat → Bool) :
    KeptRes (State.laneMove s x y l ecc ok) (kept s) := by
  simp only [State.laneMove]
  (repeat' split) <;> simp

@[simp] theorem kept_onLive (s : State) (x y : Nat) (f : Router → Router) :
    KeptRes (State.onLive s x y f) (kept s) := by
  simp [State.onLive]

@[simp] theorem kept_gateBlock (s : State) (f b : Nat) (close : Bool) :
    kept (State.gateBlock s f b close) = kept s := by
  simp [State.gateBlock]

@[simp] theorem kept_writeGates (s : State) (f : Nat) (hi : Bool) (v : Word) :
    kept (State.writeGates s f hi v) = kept s := by
  simp [State.writeGates]

@[simp] theorem kept_toLull (s : State) (f : Nat) :
    kept (State.toLull s f) = kept s := by
  simp [State.toLull]

@[simp] theorem kept_darken (s : State) (f : Nat) (next : PowerState) :
    kept (State.darken s f next) = kept s := by
  simp [State.darken]

@[simp] theorem kept_railsDown (s : State) (f : Nat) :
    kept (State.railsDown s f) = kept s := by
  simp [State.railsDown]

@[simp] theorem kept_railsUp (s : State) (f : Nat) :
    kept (State.railsUp s f) = kept s := by
  simp [State.railsUp]

@[simp] theorem kept_tripStage (s : State) (f : Nat) :
    kept (State.tripStage s f) = kept s := by
  simp [State.tripStage]

@[simp] theorem kept_pwrCmd (s : State) (f : Nat) (v : Word) :
    kept (State.pwrCmd s f v) = kept s := by
  unfold State.pwrCmd
  (repeat' split) <;> simp

@[simp] theorem kept_writeBase (s : State) (f off : Nat) (v : Word) :
    kept (State.writeBase s f off v) = kept s := by
  unfold State.writeBase
  (repeat' split) <;> simp

@[simp] theorem kept_onFld (s : State) (f : Nat) (g : State → State) (e : ∀ s, kept (g s) = kept s) :
    KeptRes (State.onFld s f g) (kept s) := by
  unfold State.onFld
  (repeat' split) <;> simp [e]

@[simp] theorem kept_setMc (s : State) (x y : Nat) (m : Microcode) :
    kept (State.setMc s x y m) = kept s := by
  simp [State.setMc]

@[simp] theorem kept_mcEmit (s : State) (x y : Nat) :
    kept (State.mcEmit s x y) = kept s := by
  simp [State.mcEmit]

@[simp] theorem kept_onMc (s : State) (x y : Nat) (f : State → State) (e : ∀ s, kept (f s) = kept s) :
    KeptRes (State.onMc s x y f) (kept s) := by
  unfold State.onMc
  (repeat' split) <;> simp [e]

@[simp] theorem kept_mcDo (s : State) (x y : Nat) (f : Microcode → Microcode) :
    kept (State.mcDo s x y f) = kept s := by
  simp [State.mcDo]

@[simp] theorem kept_mcCtrl (s : State) (x y : Nat) (v : Word) :
    kept (State.mcCtrl s x y v) = kept s := by
  simp [State.mcCtrl]

@[simp] theorem kept_writeMc (s : State) (x y off : Nat) (v : Word) :
    kept (State.writeMc s x y off v) = kept s := by
  unfold State.writeMc
  (repeat' split) <;> simp

@[simp] theorem kept_drainGo (s : State) (x y : Nat) :
    kept (State.drainGo s x y) = kept s := by
  simp only [State.drainGo]
  (repeat' split) <;> simp

@[simp] theorem kept_writeEngine (s : State) (x y off : Nat) (v : Word) :
    kept (State.writeEngine s x y off v) = kept s := by
  unfold State.writeEngine
  (repeat' split) <;> simp

@[simp] theorem kept_noteRead (s : State) (x y off : Nat) :
    kept (State.noteRead s x y off) = kept s := by
  unfold State.noteRead
  (repeat' split) <;> simp

@[simp] theorem kept_writeSite (s : State) (x y off : Nat) (v : Word) :
    kept (State.writeSite s x y off v) = kept s := by
  simp [State.writeSite]

@[simp] theorem kept_noteUnit (s : State) (u : Unit_) (off : Nat) :
    kept (State.noteUnit s u off) = kept s := by
  unfold State.noteUnit
  (repeat' split) <;> simp

@[simp] theorem kept_writeUnit (s : State) (u : Unit_) (off : Nat) (v : Word) :
    kept (State.writeUnit s u off v) = kept s := by
  unfold State.writeUnit
  (repeat' split) <;> simp

@[simp] theorem kept_mgmtWrite (s : State) (u : Unit_) (off n : Nat) (en : Nat → Bool) (data : List Byte) :
    kept (State.mgmtWrite s u off n en data) = kept s := by
  simp [State.mgmtWrite]

@[simp] theorem kept_crossEcc (s : State) (u v : Nat) (p : Packet) (ecc : LinkEcc) (f : State → Packet → State) (e : ∀ s p, kept (f s p) = kept s) :
    kept (State.crossEcc s u v p ecc f) = kept s := by
  unfold State.crossEcc
  dsimp only
  (repeat' split) <;> simp_all

@[simp] theorem kept_takeHop (s : State) (u v port : Nat) (p : Packet) (ready : Nat) (ecc : LinkEcc) :
    kept (State.takeHop s u v port p ready ecc) = kept s := by
  unfold State.takeHop
  simp

@[simp] theorem kept_mcDrop (s : State) (x y : Nat) (h : McHeld) (port : Nat) :
    kept (State.mcDrop s x y h port) = kept s := by
  simp [State.mcDrop]

@[simp] theorem kept_mcKeep (s : State) (x y : Nat) (h : McHeld) :
    kept (State.mcKeep s x y h) = kept s := by
  unfold State.mcKeep
  (repeat' split) <;> simp

@[simp] theorem kept_mcEnter (s : State) (x y from_ : Nat) (p : Packet) (at_ : Nat) :
    kept (State.mcEnter s x y from_ p at_) = kept s := by
  simp [State.mcEnter]

@[simp] theorem kept_cellWrite (s : State) (x y : Nat) (p : Packet) :
    kept (State.cellWrite s x y p) = kept s := by
  simp [State.cellWrite]

@[simp] theorem kept_mcBad (s : State) (x y : Nat) (ecc : LinkEcc) :
    kept (State.mcBad s x y ecc) = kept s := by
  simp [State.mcBad]

@[simp] theorem kept_toLane (s : State) (x y : Nat) (p : Packet) :
    KeptOpt (State.toLane s x y p) (kept s) := by
  unfold State.toLane
  (repeat' split) <;> simp

@[simp] theorem kept_atPort (s : State) (x y port op : Nat) (f : State → Packet → Option State) (e : ∀ s p, KeptOpt (f s p) (kept s)) :
    KeptRes (State.atPort s x y port op f) (kept s) := by
  unfold State.atPort
  dsimp only
  (repeat' split) <;> first
    | exact (keptRes_fault _ _)
    | (simp; done)
    | (rename_i t ht; rw [keptRes_next, kept_noteTurn, e _ _ t ht, kept_onRouter])

@[simp] theorem kept_memUe (s : State) (a : Dword) :
    kept (State.memUe s a) = kept s := by
  simp [State.memUe]

@[simp] theorem kept_memFault (s : State) (x y port : Nat) (p : Packet) (a : Dword) :
    kept (State.memFault s x y port p a) = kept s := by
  simp [State.memFault]

@[simp] theorem kept_rdCell (s : State) (x y : Nat) (p : Packet) :
    kept (rdCell s x y p) = kept s := by
  simp only [rdCell]
  (repeat' split) <;> simp

@[simp] theorem kept_rdTower (s : State) (x y : Nat) (p : Packet) :
    KeptOpt (rdTower s x y p) (kept s) := by
  simp only [rdTower]
  (repeat' split) <;> simp

@[simp] theorem kept_rdHost (s : State) (x y port : Nat) (p : Packet) :
    KeptOpt (rdHost s x y port p) (kept s) := by
  unfold rdHost
  (repeat' split) <;> simp

@[simp] theorem kept_wrCell (s : State) (x y : Nat) (p : Packet) :
    kept (wrCell s x y p) = kept s := by
  simp only [wrCell]
  (repeat' split) <;> simp

@[simp] theorem kept_wrTower (s : State) (x y : Nat) (p : Packet) :
    KeptOpt (wrTower s x y p) (kept s) := by
  simp only [wrTower]
  (repeat' split) <;> simp

@[simp] theorem kept_mwrAt (s : State) (x y port : Nat) (p : Packet) :
    KeptOpt (mwrAt s x y port p) (kept s) := by
  simp only [mwrAt]
  (repeat' split) <;> simp

@[simp] theorem kept_mrdAt (s : State) (x y port : Nat) (p : Packet) :
    KeptOpt (mrdAt s x y port p) (kept s) := by
  have key : ∀ (l : List Nat) (a : State × List Byte) (g : State × List Byte → Nat → List Byte) (u : Unit_) (off : Nat),
      kept (l.foldl (fun (a : State × List Byte) k => (a.1.noteUnit u (off + 4 * k), g a k)) a).1 = kept a.1 := by
    intro l
    induction l with
    | nil => intros; rfl
    | cons k l ih => intro a g u off; rw [List.foldl_cons, ih, kept_noteUnit]
  unfold mrdAt
  dsimp only
  (repeat' split) <;> simp only [keptOpt_some, keptOpt_none, kept_memFault, kept_inject]
  exact key _ _ _ _ _

@[simp] theorem kept_putOnTree (s : State) (t : Nat) (p : Packet) :
    kept (State.putOnTree s t p) = kept s := by
  unfold State.putOnTree
  (repeat' split) <;> simp

@[simp] theorem kept_sendTree (s : State) (t : Nat) (p : Packet) :
    kept (State.sendTree s t p) = kept s := by
  simp [State.sendTree]

@[simp] theorem kept_mcRepair (s : State) (t : Nat) (p : Packet) (gone : List Nat) :
    kept (State.mcRepair s t p gone) = kept s := by
  unfold State.mcRepair
  split
  · rfl
  · apply kept_foldl
    intro s a
    dsimp only
    split <;> simp

@[simp] theorem kept_mcNext (s : State) (t : Nat) :
    kept (State.mcNext s t) = kept s := by
  unfold State.mcNext
  (repeat' split) <;> simp

@[simp] theorem kept_mcSettle (s : State) (t : Nat) (v : McSend) :
    kept (State.mcSettle s t v) = kept s := by
  unfold State.mcSettle
  (repeat' split) <;> simp

@[simp] theorem kept_onSite (s : State) (h : Nat) (f : State → State) (e : ∀ s, kept (f s) = kept s) :
    KeptRes (State.onSite s h f) (kept s) := by
  unfold State.onSite
  (repeat' split) <;> simp [e]

@[simp] theorem kept_completeCmd (s : State) (h : Nat) (c : MbxCmd) (status : Code) (body : List Byte) :
    kept (State.completeCmd s h c status body) = kept s := by
  simp [State.completeCmd]

@[simp] theorem kept_setChunk (s : State) (c : Nat) (w : Word) :
    kept (State.setChunk s c w) = kept s := by
  simp [State.setChunk]

@[simp] theorem kept_clearHome (s : State) (f row : Nat) :
    kept (State.clearHome s f row) = kept s := by
  simp [State.clearHome]

@[simp] theorem kept_clearChunk (s : State) (c : Nat) :
    kept (State.clearChunk s c) = kept s := by
  simp [State.clearChunk]

@[simp] theorem kept_newChain (s : State) (p : Nat) :
    kept (State.newChain s p) = kept s := by
  simp [State.newChain]

@[simp] theorem kept_sealHead (s : State) (p : Nat) :
    kept (State.sealHead s p) = kept s := by
  simp only [State.sealHead]
  (repeat' split) <;> simp

@[simp] theorem kept_completeRun (s : State) (p : Nat) (r : Run) (e : RunEnd) :
    kept (State.completeRun s p r e) = kept s := by
  simp [State.completeRun]

@[simp] theorem kept_dropQueued (s : State) (p : Nat) (test : Run → Bool) (code : Code) (dead : Bool) :
    kept (State.dropQueued s p test code dead) = kept s := by
  simp [State.dropQueued]

@[simp] theorem kept_sendStop (s : State) (p : Nat) :
    kept (State.sendStop s p) = kept s := by
  simp [State.sendStop]

@[simp] theorem kept_relane (s : State) (g : Program) :
    kept (State.relane s g) = kept s := by
  simp [State.relane]

@[simp] theorem kept_advanceEpoch (s : State) (p : Nat) :
    kept (State.advanceEpoch s p) = kept s := by
  simp [State.advanceEpoch]

@[simp] theorem kept_retireRun (s : State) (p : Nat) (a : Active) (code : Code) :
    kept (State.retireRun s p a code) = kept s := by
  unfold State.retireRun
  (repeat' split) <;> simp

@[simp] theorem kept_stopRun (s : State) (p : Nat) (code : Code) :
    kept (State.stopRun s p code) = kept s := by
  unfold State.stopRun
  (repeat' split) <;> simp

@[simp] theorem kept_failLane (s : State) (k n : Nat) :
    kept (State.failLane s k n) = kept s := by
  unfold State.failLane
  apply kept_foldl
  intro s a
  try dsimp only
  (repeat' split) <;> simp

@[simp] theorem kept_failField (s : State) (f : Nat) (code : Code) :
    kept (State.failField s f code) = kept s := by
  unfold State.failField
  apply kept_foldl
  intro s a
  try dsimp only
  (repeat' split) <;> simp

@[simp] theorem kept_fillSave (s : State) (r : Resident) (fs : List Nat) :
    kept (State.fillSave s r fs) = kept s := by
  simp [State.fillSave]

@[simp] theorem kept_unloadFields (s : State) (fs : List Nat) :
    kept (State.unloadFields s fs) = kept s := by
  simp [State.unloadFields]

@[simp] theorem kept_routeFields (s : State) (g : Program) (fs : List Nat) :
    kept (State.routeFields s g fs) = kept s := by
  simp [State.routeFields]

@[simp] theorem kept_setLocal (s : State) (p : Nat) (g : Program) :
    kept (State.setLocal s p g) = kept s := by
  simp [State.setLocal]

@[simp] theorem kept_loadCells (s : State) (g : Program) (saved : Option (List CellSave)) (fs : List Nat) :
    kept (State.loadCells s g saved fs) = kept s := by
  unfold State.loadCells
  (repeat' split) <;> simp

@[simp] theorem kept_loadScopes (s : State) (g : Program) (fs : List Nat) :
    kept (State.loadScopes s g fs) = kept s := by
  simp [State.loadScopes]

@[simp] theorem kept_linkAll (s : State) (g : Program) (fs : List Nat) :
    kept (State.linkAll s g fs) = kept s := by
  simp [State.linkAll]

@[simp] theorem kept_switchTo (s : State) (p k : Nat) :
    kept (State.switchTo s p k) = kept s := by
  simp only [State.switchTo]
  (repeat' split) <;> simp

@[simp] theorem kept_patchWrite (s : State) (w : PatchWrite) :
    kept (State.patchWrite s w) = kept s := by
  simp [State.patchWrite]

@[simp] theorem kept_write64 (s : State) (x y off : Nat) (d : Dword) :
    kept (State.write64 s x y off d) = kept s := by
  simp [State.write64]

@[simp] theorem kept_sessionPatch (s : State) (p : Nat) (g : Program) (v : Session) :
    kept (State.sessionPatch s p g v) = kept s := by
  unfold State.sessionPatch
  dsimp only
  rw [kept_foldl, kept_foldl, kept_foldl]
  all_goals intro s a; (repeat' split) <;> simp

@[simp] theorem kept_patchRun (s : State) (p : Nat) (g : Program) (r : Run) :
    kept (State.patchRun s p g r) = kept s := by
  simp [State.patchRun]

@[simp] theorem kept_logBelow (s : State) (ks : List Cls) :
    kept (State.logBelow s ks) = kept s := by
  simp [State.logBelow]

@[simp] theorem kept_avoid (s : State) (x y : Nat) :
    kept (State.avoid s x y) = kept s := by
  unfold State.avoid
  apply kept_foldl
  intro s a
  try dsimp only
  (repeat' split) <;> simp

@[simp] theorem kept_fenceBody (s : State) (x y : Nat) :
    kept (State.fenceBody s x y) = kept s := by
  simp [State.fenceBody]

@[simp] theorem kept_applySite (s : State) (d : Defect) :
    kept (State.applySite s d) = kept s := by
  simp [State.applySite]

@[simp] theorem kept_applyPair (s : State) (x y : Nat) :
    kept (State.applyPair s x y) = kept s := by
  unfold State.applyPair
  (repeat' split) <;> simp

@[simp] theorem kept_laneOfDead (s : State) (x y : Nat) :
    kept (State.laneOfDead s x y) = kept s := by
  unfold State.laneOfDead
  (repeat' split) <;> simp

@[simp] theorem kept_updateHdm (s : State) (p : Nat) (moved : Bool) :
    kept (State.updateHdm s p moved) = kept s := by
  simp [State.updateHdm]

@[simp] theorem kept_storeTowerOut (s : State) (f : Nat) :
    kept (State.storeTowerOut s f) = kept s := by
  simp [State.storeTowerOut]

@[simp] theorem kept_withdraw (s : State) (f : Nat) :
    kept (State.withdraw s f) = kept s := by
  simp [State.withdraw]

@[simp] theorem kept_dropHomes (s : State) :
    kept (State.dropHomes s) = kept s := by
  simp [State.dropHomes]

@[simp] theorem kept_rehome (s : State) (p chunk : Nat) :
    kept (State.rehome s p chunk) = kept s := by
  unfold State.rehome
  (repeat' split) <;> simp

@[simp] theorem kept_logFence (s : State) (d : Defect) :
    kept (State.logFence s d) = kept s := by
  simp [State.logFence]

@[simp] theorem kept_mapFence (s : State) (d : Defect) :
    kept (State.mapFence s d) = kept s := by
  simp [State.mapFence]

@[simp] theorem kept_fence (s : State) (d : Defect) :
    kept (State.fence s d) = kept s := by
  simp only [State.fence]
  (repeat' split) <;> simp

@[simp] theorem kept_fenceField (s : State) (f : Nat) :
    kept (State.fenceField s f) = kept s := by
  simp [State.fenceField]

@[simp] theorem kept_onPeer (s : State) (k n : Nat) (f : State → State) (e : ∀ s, kept (f s) = kept s) :
    KeptRes (State.onPeer s k n f) (kept s) := by
  unfold State.onPeer
  (repeat' split) <;> simp [e]

@[simp] theorem kept_portCount (s : State) (k j n : Nat) :
    kept (State.portCount s k j n) = kept s := by
  simp [State.portCount]

@[simp] theorem kept_failReqs (s : State) (k n : Nat) :
    kept (State.failReqs s k n) = kept s := by
  simp [State.failReqs]

@[simp] theorem kept_laneOut (s : State) (k n : Nat) :
    kept (State.laneOut s k n) = kept s := by
  simp [State.laneOut]

@[simp] theorem kept_laneDown (s : State) (k n : Nat) :
    kept (State.laneDown s k n) = kept s := by
  simp [State.laneDown]

@[simp] theorem kept_retrain (s : State) (k n : Nat) (good : Bool) :
    kept (State.retrain s k n good) = kept s := by
  simp only [State.retrain]
  (repeat' split) <;> simp

@[simp] theorem kept_sendHello (s : State) (k n : Nat) :
    kept (State.sendHello s k n) = kept s := by
  simp [State.sendHello]

@[simp] theorem kept_sendTraining (s : State) (k n : Nat) :
    kept (State.sendTraining s k n) = kept s := by
  simp [State.sendTraining]

@[simp] theorem kept_sendFrame (s : State) (k n : Nat) :
    kept (State.sendFrame s k n) = kept s := by
  simp only [State.sendFrame]
  (repeat' split) <;> simp

@[simp] theorem kept_replay (s : State) (k n seq : Nat) :
    kept (State.replay s k n seq) = kept s := by
  simp only [State.replay]
  (repeat' split) <;> simp

@[simp] theorem kept_helloIn (s : State) (k n : Nat) (it : Item) :
    kept (State.helloIn s k n it) = kept s := by
  unfold State.helloIn
  (repeat' split) <;> simp

@[simp] theorem kept_ctlIn (s : State) (k n : Nat) (it : Item) :
    kept (State.ctlIn s k n it) = kept s := by
  unfold State.ctlIn
  (repeat' split) <;> simp

@[simp] theorem kept_frameFailed (s : State) (k n : Nat) :
    kept (State.frameFailed s k n) = kept s := by
  simp [State.frameFailed]

@[simp] theorem kept_frameIn (s : State) (k n : Nat) (f : Frame) :
    kept (State.frameIn s k n f) = kept s := by
  simp only [State.frameIn]
  (repeat' split) <;> simp

@[simp] theorem kept_codewordIn (s : State) (k n : Nat) (c : Codeword) :
    kept (State.codewordIn s k n c) = kept s := by
  unfold State.codewordIn
  (repeat' split) <;> simp

@[simp] theorem kept_clearReq (s : State) (p : Packet) :
    kept (State.clearReq s p) = kept s := by
  unfold State.clearReq
  (repeat' split) <;> simp

@[simp] theorem kept_peerIn (s : State) (k n cls : Nat) :
    kept (State.peerIn s k n cls) = kept s := by
  simp only [State.peerIn]
  (repeat' split) <;> simp

@[simp] theorem kept_keepAlivePort (s : State) (k : Nat) :
    kept (State.keepAlivePort s k) = kept s := by
  simp [State.keepAlivePort]

@[simp] theorem kept_toAlt (s : State) (f : Nat) :
    kept (State.toAlt s f) = kept s := by
  simp [State.toAlt]

@[simp] theorem kept_stepLog (s : State) (reason f : Nat) :
    kept (State.stepLog s reason f) = kept s := by
  simp [State.stepLog]

@[simp] theorem kept_logStep (s : State) :
    kept (State.logStep s) = kept s := by
  simp [State.logStep]

@[simp] theorem kept_logReason (s : State) (reason f : Nat) :
    kept (State.logReason s reason f) = kept s := by
  simp [State.logReason]

@[simp] theorem kept_failStep (s : State) (reason : Nat) (code : Code) :
    kept (State.failStep s reason code) = kept s := by
  simp [State.failStep]

@[simp] theorem kept_stepLost (s : State) (f : Nat) :
    kept (State.stepLost s f) = kept s := by
  simp [State.stepLost]

@[simp] theorem kept_setPortOff (s : State) (x y p : Nat) :
    kept (State.setPortOff s x y p) = kept s := by
  simp [State.setPortOff]

@[simp] theorem kept_markLost (s : State) (f : Nat) :
    kept (State.markLost s f) = kept s := by
  rfl

@[simp] theorem kept_fieldLeaves (s : State) (f : Nat) :
    kept (State.fieldLeaves s f) = kept s := by
  simp [State.fieldLeaves]

@[simp] theorem kept_fieldReturns (s : State) (f : Nat) :
    kept (State.fieldReturns s f) = kept s := by
  simp [State.fieldReturns]

@[simp] theorem kept_uncouple (s : State) (f : Nat) :
    kept (State.uncouple s f) = kept s := by
  unfold State.uncouple
  apply kept_foldl
  intro s a
  try dsimp only
  (repeat' split) <;> simp

@[simp] theorem kept_cutRose (s : State) (f : Nat) :
    kept (State.cutRose s f) = kept s := by
  simp [State.cutRose]

@[simp] theorem kept_joinRose (s : State) (f : Nat) :
    kept (State.joinRose s f) = kept s := by
  unfold State.joinRose
  apply kept_foldl
  intro s a
  try dsimp only
  (repeat' split) <;> simp

@[simp] theorem kept_loseField (s : State) (f : Nat) (code : Code) (r : LogRec) (heat : Bool) :
    kept (State.loseField s f code r heat) = kept s := by
  simp [State.loseField]

@[simp] theorem kept_powerLost (s : State) (f : Nat) :
    kept (State.powerLost s f) = kept s := by
  simp [State.powerLost]

@[simp] theorem kept_slipAt (s : State) (v : Nat × Nat) :
    kept (State.slipAt s v) = kept s := by
  unfold State.slipAt
  (repeat' split) <;> simp

@[simp] theorem kept_slipLost (s : State) (f : Nat) :
    kept (State.slipLost s f) = kept s := by
  simp [State.slipLost]

@[simp] theorem kept_slips (s : State) (bounds : List (Nat × Nat)) :
    kept (State.slips s bounds) = kept s := by
  simp [State.slips]

@[simp] theorem kept_tryLull (s : State) (f : Nat) :
    kept (State.tryLull s f) = kept s := by
  unfold State.tryLull
  (repeat' split) <;> simp

@[simp] theorem kept_enterDoldrums (s : State) (f : Nat) :
    kept (State.enterDoldrums s f) = kept s := by
  unfold State.enterDoldrums
  (repeat' split) <;> simp

@[simp] theorem kept_tryDoldrums (s : State) (f : Nat) :
    kept (State.tryDoldrums s f) = kept s := by
  unfold State.tryDoldrums
  (repeat' split) <;> simp

@[simp] theorem kept_reverseEntry (s : State) (f : Nat) :
    kept (State.reverseEntry s f) = kept s := by
  simp [State.reverseEntry]

@[simp] theorem kept_wake (s : State) (f : Nat) :
    kept (State.wake s f) = kept s := by
  simp only [State.wake]
  (repeat' split) <;> simp

@[simp] theorem kept_mcAll (s : State) (f : Nat) :
    kept (State.mcAll s f) = kept s := by
  simp [State.mcAll]

@[simp] theorem kept_restoreRouters (s : State) (f : Nat) :
    kept (State.restoreRouters s f) = kept s := by
  simp [State.restoreRouters]

@[simp] theorem kept_copyStore (s : State) (f : Nat) :
    kept (State.copyStore s f) = kept s := by
  simp [State.copyStore]

@[simp] theorem kept_restoreCells (s : State) (f : Nat) :
    kept (State.restoreCells s f) = kept s := by
  unfold State.restoreCells
  (repeat' split) <;> simp

@[simp] theorem kept_rise (s : State) (f : Nat) :
    kept (State.rise s f) = kept s := by
  simp [State.rise]

@[simp] theorem kept_setReef (s : State) (f n : Nat) :
    kept (State.setReef s f n) = kept s := by
  simp [State.setReef]

@[simp] theorem kept_readTemp (s : State) (f sensor : Nat) (t : Int) :
    kept (State.readTemp s f sensor t) = kept s := by
  simp [State.readTemp]

@[simp] theorem kept_readTemps (s : State) (l : List (Nat × Nat × Int)) :
    kept (State.readTemps s l) = kept s := by
  unfold State.readTemps
  apply kept_foldl
  intro s a
  try dsimp only
  (repeat' split) <;> simp

@[simp] theorem kept_goOff (s : State) (f : Nat) :
    kept (State.goOff s f) = kept s := by
  simp [State.goOff]

@[simp] theorem kept_coolOff (s : State) (f : Nat) :
    kept (State.coolOff s f) = kept s := by
  unfold State.coolOff
  (repeat' split) <;> simp

@[simp] theorem kept_stopField (s : State) (f : Nat) :
    kept (State.stopField s f) = kept s := by
  simp [State.stopField]

@[simp] theorem kept_beginShutdown (s : State) (f : Nat) (temp : Int) :
    kept (State.beginShutdown s f temp) = kept s := by
  simp [State.beginShutdown]

@[simp] theorem kept_reefCheck (s : State) :
    kept (State.reefCheck s) = kept s := by
  unfold State.reefCheck
  apply kept_foldl
  intro s a
  try dsimp only
  (repeat' split) <;> simp

@[simp] theorem kept_reefMove (s : State) :
    kept (State.reefMove s) = kept s := by
  simp only [State.reefMove]
  (repeat' split) <;> simp

@[simp] theorem kept_crystalFail (s : State) (isB : Bool) :
    kept (State.crystalFail s isB) = kept s := by
  simp [State.crystalFail]

@[simp] theorem kept_enterDead (s : State) :
    kept (State.enterDead s) = kept s := by
  simp [State.enterDead]

@[simp] theorem kept_refuseRun (s : State) (h : Nat) (c : MbxCmd) (code : Code) :
    kept (State.refuseRun s h c code) = kept s := by
  simp [State.refuseRun]

@[simp] theorem kept_acceptRun (s : State) (h : Nat) (c : MbxCmd) (r : Run) (q : List Run) (fs : List Nat) :
    kept (State.acceptRun s h c r q fs) = kept s := by
  simp [State.acceptRun]

@[simp] theorem kept_decideRun (s : State) (h : Nat) (c : MbxCmd) :
    kept (State.decideRun s h c) = kept s := by
  simp only [State.decideRun]
  (repeat' split) <;> simp

@[simp] theorem kept_onPartition (s : State) (p : Nat) (f : State → State) (e : ∀ s, kept (f s) = kept s) :
    KeptRes (State.onPartition s p f) (kept s) := by
  exact kept_onSite s p f e

@[simp] theorem kept_trySwitch (s : State) (p : Nat) :
    kept (State.trySwitch s p) = kept s := by
  unfold State.trySwitch
  (repeat' split) <;> simp

@[simp] theorem kept_drainFail (s : State) (p x y : Nat) :
    kept (State.drainFail s p x y) = kept s := by
  simp only [State.drainFail]
  (repeat' split) <;> simp

@[simp] theorem kept_sendStart (s : State) (p : Nat) :
    kept (State.sendStart s p) = kept s := by
  simp [State.sendStart]

@[simp] theorem kept_patchHead (s : State) (p : Nat) (g : Program) (r : Run) :
    kept (State.patchHead s p g r) = kept s := by
  simp [State.patchHead]

@[simp] theorem kept_begin_ (s : State) (p : Nat) (h : Head) (r : Run) (g : Program) :
    kept (State.begin_ s p h r g) = kept s := by
  simp [State.begin_]

@[simp] theorem kept_startRun (s : State) (p : Nat) :
    kept (State.startRun s p) = kept s := by
  unfold State.startRun
  (repeat' split) <;> simp

@[simp] theorem kept_logReport (s : State) (r : Report) (port : Nat) :
    kept (State.logReport s r port) = kept s := by
  simp [State.logReport]

@[simp] theorem kept_countReport (s : State) (r : Report) :
    kept (State.countReport s r) = kept s := by
  simp [State.countReport]

@[simp] theorem kept_onActive (s : State) (p : Nat) (f : Active → Active) :
    kept (State.onActive s p f) = kept s := by
  simp [State.onActive]

@[simp] theorem kept_reportTo (s : State) (r : Report) (l : List Report) (p : Nat) :
    kept (State.reportTo s r l p) = kept s := by
  simp [State.reportTo]

@[simp] theorem kept_closeRun (s : State) (p : Nat) (a : Active) (g : Program) :
    kept (State.closeRun s p a g) = kept s := by
  simp [State.closeRun]

@[simp] theorem kept_finishRun (s : State) (p : Nat) (a : Active) (g : Option Program) :
    kept (State.finishRun s p a g) = kept s := by
  unfold State.finishRun
  (repeat' split) <;> simp

@[simp] theorem kept_endRun (s : State) (p : Nat) :
    kept (State.endRun s p) = kept s := by
  unfold State.endRun
  (repeat' split) <;> simp

@[simp] theorem kept_endOverdue (s : State) (p : Nat) :
    kept (State.endOverdue s p) = kept s := by
  simp [State.endOverdue]

@[simp] theorem kept_guardRun (s : State) (p : Nat) :
    kept (State.guardRun s p) = kept s := by
  unfold State.guardRun
  (repeat' split) <;> simp

@[simp] theorem kept_resetPartition (s : State) (p : Nat) :
    kept (State.resetPartition s p) = kept s := by
  simp [State.resetPartition]

@[simp] theorem kept_finishReset (s : State) (p : Nat) :
    kept (State.finishReset s p) = kept s := by
  simp only [State.finishReset]
  (repeat' split) <;> simp

@[simp] theorem kept_dropProgram (s : State) (p k : Nat) :
    kept (State.dropProgram s p k) = kept s := by
  simp [State.dropProgram]

@[simp] theorem kept_drainBack (s : State) (p : Nat) (fs : List Nat) :
    kept (State.drainBack s p fs) = kept s := by
  unfold State.drainBack
  (repeat' split) <;> simp

@[simp] theorem kept_sounded (s : State) (p : Nat) (failing : List Defect) :
    kept (State.sounded s p failing) = kept s := by
  unfold State.sounded
  (repeat' split) <;> simp

@[simp] theorem kept_countWords (s : State) (f k : Nat) (ws : List Nat) : kept (s.countWords f k ws) = kept s := by
  unfold State.countWords
  apply kept_foldl
  intro s a
  simp

@[simp] theorem kept_hostAcks (s : State) (f : Nat) (l : List Host.Cell) :
    kept (State.hostAcks s f l) = kept s := by
  simp [State.hostAcks]

@[simp] theorem kept_bridgeWrite (s : State) (f : Nat) (l : List Host.Cell) :
    kept (State.bridgeWrite s f l) = kept s := by
  simp [State.bridgeWrite]

@[simp] theorem kept_cxlArrive (s : State) (h f : Nat) :
    kept (State.cxlArrive s h f) = kept s := by
  simp [State.cxlArrive]

@[simp] theorem kept_cxlBad (s : State) (h line f o : Nat) :
    kept (State.cxlBad s h line f o) = kept s := by
  simp [State.cxlBad]

@[simp] theorem kept_cxlServe (s : State) (h line f o : Nat) :
    kept (State.cxlServe s h line f o) = kept s := by
  unfold State.cxlServe
  dsimp only
  (repeat' split) <;> simp

@[simp] theorem kept_readInputs (s : State) (p : Nat) (data : List (List Byte)) :
    kept (State.readInputs s p data) = kept s := by
  unfold State.readInputs
  (repeat' split) <;> simp

@[simp] theorem kept_pushEgress (s : State) (h : Nat) :
    kept (State.pushEgress s h) = kept s := by
  unfold State.pushEgress
  dsimp only
  (repeat' split) <;> simp_all

@[simp] theorem kept_pushReady (s : State) (h n : Nat) : kept (s.pushReady h n) = kept s := by
  induction n generalizing s with
  | zero => rfl
  | succ n ih =>
    unfold State.pushReady
    dsimp only
    split
    · rfl
    · split
      · rw [ih, kept_pushEgress]
      · rfl

@[simp] theorem kept_egressIn (s : State) (h x y : Nat) (p : Packet) :
    KeptOpt (State.egressIn s h x y p) (kept s) := by
  simp only [State.egressIn]
  (repeat' split) <;> simp

@[simp] theorem kept_finaliseOutput (s : State) (p : Nat) (back : List (List Byte)) :
    kept (State.finaliseOutput s p back) = kept s := by
  unfold State.finaliseOutput
  (repeat' split) <;> simp

@[simp] theorem kept_scrubUe (s : State) (f : Nat) (site : Word) (addr : Dword) :
    kept (State.scrubUe s f site addr) = kept s := by
  unfold State.scrubUe
  (repeat' split) <;> simp

@[simp] theorem kept_scrubDram (s : State) (f ch : Nat) (e : Ecc) :
    kept (State.scrubDram s f ch e) = kept s := by
  simp [State.scrubDram]

@[simp] theorem kept_renew (s : State) (e : Word) :
    kept (State.renew s e) = kept s := by
  simp [State.renew]

@[simp] theorem kept_renewAll (s : State) :
    kept (State.renewAll s) = kept s := by
  simp [State.renewAll]

@[simp] theorem kept_answer (s : State) (h : Nat) (c : MbxCmd) (buf len : Nat) (data body : List Byte) :
    kept (State.answer s h c buf len data body) = kept s := by
  simp [State.answer]

@[simp] theorem kept_refuse (s : State) (h : Nat) (c : MbxCmd) (code : Code) :
    kept (State.refuse s h c code) = kept s := by
  simp [State.refuse]

@[simp] theorem kept_queryInfo (s : State) (h : Nat) (c : MbxCmd) :
    kept (State.queryInfo s h c) = kept s := by
  simp only [State.queryInfo]
  (repeat' split) <;> simp

@[simp] theorem kept_fixFetch (s : State) (h : Nat) (c : MbxCmd) :
    kept (State.fixFetch s h c) = kept s := by
  simp [State.fixFetch]

@[simp] theorem kept_attest (s : State) (h : Nat) (c : MbxCmd) :
    kept (State.attest s h c) = kept s := by
  simp [State.attest]

@[simp] theorem kept_readLog (s : State) (h : Nat) (c : MbxCmd) :
    kept (State.readLog s h c) = kept s := by
  simp [State.readLog]

@[simp] theorem kept_countersRead (s : State) (h : Nat) (c : MbxCmd) :
    kept (State.countersRead s h c) = kept s := by
  simp [State.countersRead]

@[simp] theorem kept_linkStatus (s : State) (h : Nat) (c : MbxCmd) :
    kept (State.linkStatus s h c) = kept s := by
  simp [State.linkStatus]

@[simp] theorem kept_mbx (s : State) (h op : Nat) (tag : Word) (f : State → MbxCmd → State) (e : ∀ s p, kept (f s p) = kept s) :
    KeptRes (State.mbx s h op tag f) (kept s) := by
  unfold State.mbx
  apply kept_onSite
  intro s
  (repeat' split) <;> simp [e]

@[simp] theorem kept_done (s : State) (h : Nat) (c : MbxCmd) :
    kept (State.done s h c) = kept s := by
  simp [State.done]

@[simp] theorem kept_hold (s : State) (h : Nat) (c : MbxCmd) :
    kept (State.hold s h c) = kept s := by
  simp [State.hold]

@[simp] theorem kept_onceAwake (s : State) (fs : List Nat) (f : State → State) (e : ∀ s, kept (f s) = kept s) :
    kept (State.onceAwake s fs f) = kept s := by
  unfold State.onceAwake
  dsimp only
  (repeat' split) <;> simp_all

@[simp] theorem kept_hello (s : State) (h : Nat) (c : MbxCmd) :
    kept (State.hello s h c) = kept s := by
  simp [State.hello]

@[simp] theorem kept_putTree (s : State) (t x y : Nat) (w : Word) :
    kept (State.putTree s t x y w) = kept s := by
  simp [State.putTree]

@[simp] theorem kept_fellTree (s : State) (t : Nat) :
    kept (State.fellTree s t) = kept s := by
  simp [State.fellTree]

@[simp] theorem kept_spanTree (s : State) (t : Nat) (fs : List Nat) (at_ : Nat → Nat → Bool) :
    kept (State.spanTree s t fs at_) = kept s := by
  simp only [State.spanTree]
  (repeat' split) <;> simp

@[simp] theorem kept_buildTree (s : State) (p : Nat) :
    kept (State.buildTree s p) = kept s := by
  simp only [State.buildTree]
  simp

@[simp] theorem kept_classTrees (s : State) (fs : List Nat) :
    kept (State.classTrees s fs) = kept s := by
  simp [State.classTrees]

@[simp] theorem kept_replacePart (s : State) (p : Nat) (w : Word) :
    kept (State.replacePart s p w) = kept s := by
  simp [State.replacePart]

@[simp] theorem kept_storeParts (s : State) :
    kept (State.storeParts s) = kept s := by
  simp [State.storeParts]

@[simp] theorem kept_partitionSet (s : State) (h : Nat) (c : MbxCmd) :
    kept (State.partitionSet s h c) = kept s := by
  simp [State.partitionSet]

@[simp] theorem kept_programLoad (s : State) (h : Nat) (c : MbxCmd) (image : List Byte) :
    kept (State.programLoad s h c image) = kept s := by
  simp only [State.programLoad]
  (repeat' split) <;> simp

@[simp] theorem kept_programUnload (s : State) (h : Nat) (c : MbxCmd) :
    kept (State.programUnload s h c) = kept s := by
  simp [State.programUnload]

@[simp] theorem kept_zeroHdm (s : State) (p base size : Nat) :
    kept (State.zeroHdm s p base size) = kept s := by
  simp [State.zeroHdm]

@[simp] theorem kept_mapChunk (s : State) (p n : Nat) :
    kept (State.mapChunk s p n).1 = kept s := by
  unfold State.mapChunk
  (repeat' split) <;> simp

@[simp] theorem kept_openSession (s : State) (h : Nat) (c : MbxCmd) (n : Nat) :
    kept (State.openSession s h c n) = kept s := by
  simp [State.openSession]

@[simp] theorem kept_sessionOpen (s : State) (h : Nat) (c : MbxCmd) :
    kept (State.sessionOpen s h c) = kept s := by
  simp only [State.sessionOpen]
  (repeat' split) <;> simp

@[simp] theorem kept_closeSession (s : State) (p n : Nat) :
    kept (State.closeSession s p n) = kept s := by
  simp [State.closeSession]

@[simp] theorem kept_sessionClose (s : State) (h : Nat) (c : MbxCmd) :
    kept (State.sessionClose s h c) = kept s := by
  simp [State.sessionClose]

@[simp] theorem kept_runCancel (s : State) (h : Nat) (c : MbxCmd) :
    kept (State.runCancel s h c) = kept s := by
  simp [State.runCancel]

@[simp] theorem kept_sound (s : State) (h : Nat) (c : MbxCmd) :
    kept (State.sound s h c) = kept s := by
  simp [State.sound]

@[simp] theorem kept_pairSet (s : State) (h : Nat) (c : MbxCmd) :
    kept (State.pairSet s h c) = kept s := by
  simp [State.pairSet]

@[simp] theorem kept_powerPolicy (s : State) (h : Nat) (c : MbxCmd) :
    kept (State.powerPolicy s h c) = kept s := by
  simp [State.powerPolicy]

@[simp] theorem kept_beginReset (s : State) (h : Nat) (c : MbxCmd) :
    kept (State.beginReset s h c) = kept s := by
  simp [State.beginReset]

@[simp] theorem kept_partitionReset (s : State) (h : Nat) (c : MbxCmd) :
    kept (State.partitionReset s h c) = kept s := by
  simp [State.partitionReset]

@[simp] theorem kept_endStep (s : State) :
    kept (State.endStep s) = kept s := by
  simp [State.endStep]

@[simp] theorem kept_inStep (s : State) (n : Nat) (f : State → State) (e : ∀ s, kept (f s) = kept s) :
    kept (State.inStep s n f) = kept s := by
  unfold State.inStep
  (repeat' split) <;> simp [e]

@[simp] theorem kept_arise (s : State) (reason : Nat) :
    kept (State.arise s reason) = kept s := by
  simp [State.arise]

@[simp] theorem kept_endUnlessFailed (s : State) :
    kept (State.endUnlessFailed s) = kept s := by
  simp [State.endUnlessFailed]

@[simp] theorem kept_startClocks (s : State) (a b : Bool) (links : List (Nat × List Nat × Nat × Nat)) :
    kept (State.startClocks s a b links) = kept s := by
  simp [State.startClocks]

@[simp] theorem kept_loadHelm (s : State) (h : Nat) (host : List Byte) :
    kept (State.loadHelm s h host) = kept s := by
  unfold State.loadHelm
  (repeat' split) <;> simp

@[simp] theorem kept_towerOut (s : State) (f : Nat) :
    kept (State.towerOut s f) = kept s := by
  simp [State.towerOut]

@[simp] theorem kept_trainTower (s : State) (f : Nat) (bad : Bool) (failed : List Nat) :
    kept (State.trainTower s f bad failed) = kept s := by
  simp [State.trainTower]

@[simp] theorem kept_resumeTower (s : State) (f : Nat) (bad shed : Bool) :
    kept (State.resumeTower s f bad shed) = kept s := by
  simp [State.resumeTower]

@[simp] theorem kept_startTowers (s : State) (failed : List (Nat × Nat)) (shed : Nat → Bool) :
    kept (State.startTowers s failed shed) = kept s := by
  unfold State.startTowers
  (repeat' split) <;> simp

@[simp] theorem kept_powerFields (s : State) (bad : List Nat) :
    kept (State.powerFields s bad) = kept s := by
  simp [State.powerFields]

@[simp] theorem kept_lockRose (s : State) (bad : List Nat) :
    kept (State.lockRose s bad) = kept s := by
  simp [State.lockRose]

@[simp] theorem kept_linkOff (s : State) (v : Nat × Nat × Nat) :
    kept (State.linkOff s v) = kept s := by
  unfold State.linkOff
  (repeat' split) <;> simp

@[simp] theorem kept_routeSetup (s : State) (tables : List (Nat × Nat × Nat × Word)) :
    kept (State.routeSetup s tables) = kept s := by
  simp [State.routeSetup]

@[simp] theorem kept_testMesh (s : State) (badLinks : List (Nat × Nat × Nat)) (tables : List (Nat × Nat × Nat × Word)) :
    kept (State.testMesh s badLinks tables) = kept s := by
  simp [State.testMesh]

@[simp] theorem kept_sendMicrocode (s : State) (incomplete : List (Nat × Nat)) :
    kept (State.sendMicrocode s incomplete) = kept s := by
  simp [State.sendMicrocode]

@[simp] theorem kept_applyDefects (s : State) :
    kept (State.applyDefects s) = kept s := by
  unfold State.applyDefects
  simp only [kept_endStep, kept_logBelow]
  (repeat' split) <;> simp

@[simp] theorem kept_placeLane (s : State) (peer k n : Nat) (good : Option Nat) :
    kept (State.placeLane s peer k n good) = kept s := by
  simp only [State.placeLane]
  (repeat' split) <;> simp

@[simp] theorem kept_storeModules (s : State) :
    kept (State.storeModules s) = kept s := by
  simp [State.storeModules]

@[simp] theorem kept_saveLanes (s : State) :
    kept (State.saveLanes s) = kept s := by
  simp [State.saveLanes]

@[simp] theorem kept_startPeers (s : State) (good : Nat → Nat → Option Nat) :
    kept (State.startPeers s good) = kept s := by
  unfold State.startPeers
  dsimp only
  split
  · simp
  · rw [kept_endStep, kept_storeModules, kept_saveLanes, kept_foldl]
    · simp
    · intro s k
      split
      · rfl
      · rw [kept_foldl]
        intro s n
        simp

@[simp] theorem kept_enterService (s : State) :
    kept (State.enterService s) = kept s := by
  simp [State.enterService]

@[simp] theorem kept_timeout (s : State) (unfinished : List Nat) :
    kept (State.timeout s unfinished) = kept s := by
  simp [State.timeout]

@[simp] theorem kept_moduleReset (s : State) (force : Bool) :
    kept (State.moduleReset s force) = kept s := by
  unfold State.moduleReset
  rw [kept_hwLog, kept_draw, kept_mk_helm]
  · simp
  · rfl

@[simp] theorem kept_dead (s : State) (log : Logbook) :
    kept (State.dead s log) = kept s := by
  rfl

@[simp] theorem kept_inputLost (s : State) (rs : List LogRec) :
    kept (State.inputLost s rs) = kept s := by
  simp [State.inputLost]

@[simp] theorem kept_powerUp (s : State) :
    kept (State.powerUp s) = kept s := by
  unfold State.powerUp
  dsimp only
  split
  · rfl
  · exact kept_mk_helm s _ _ _ _ _ _ _ _ _ _ _ _ rfl

@[simp] theorem kept_towerTrip (s : State) (f : Nat) :
    kept (State.towerTrip s f) = kept s := by
  simp [State.towerTrip]

@[simp] theorem kept_switchParent (s : State) (f : Nat) :
    kept (State.switchParent s f) = kept s := by
  simp [State.switchParent]

@[simp] theorem kept_sample (s : State) (mv da watts coolIn coolOut : Nat) (td : Nat × Int) :
    kept (State.sample s mv da watts coolIn coolOut td) = kept s := by
  simp [State.sample]

@[simp] theorem kept_stepCmd (s : State) (h : Nat) (v : Word) :
    kept (State.stepCmd s h v) = kept s := by
  simp [State.stepCmd]

@[simp] theorem kept_writeImage (s : State) (h off : Nat) (v : Word) :
    kept (State.writeImage s h off v) = kept s := by
  simp [State.writeImage]

@[simp] theorem kept_writeBar0 (s : State) (h off : Nat) (v : Word) :
    KeptRes (State.writeBar0 s h off v) (kept s) := by
  unfold State.writeBar0 execLogWallLoWrite execLogWallHiWrite
  (repeat' split) <;> (apply kept_onSite; intro s; simp)

@[simp] theorem kept_aligned (off n : Nat) (r : Res) (k) (e : KeptRes r k) : KeptRes (aligned off n r) k := by
  unfold aligned
  split <;> simp [e]

@[simp] theorem kept_tickMono (s : State) :
    kept (State.tickMono s) = kept s := by
  simp [State.tickMono]

@[simp] theorem kept_tickCycle (s : State) :
    kept (tickCycle s) = kept s := by
  unfold tickCycle
  dsimp only
  rw [kept_mk_helm _ _ _ _ _ _ _ _ _ _ _ _ _ (by rfl)]
  simp

end Sys2Proof.Machine
end

