-- ==== Sys2Proof/Laws/Memory.lean ====
section
/-!
SUPPORT. Addressed stores: a byte reads back what was written, a write leaves every other byte alone, and every operation keeps
the canonical form `Memory.wf`.
-/
namespace Sys2Proof.Machine

/-! ### Rising lists -/

theorem rising_iff (l : List Host.Cell) : rising l = true ↔ l.Pairwise (fun p q => p.1 < q.1) := by
  induction l with
  | nil => simp [rising]
  | cons p t ih =>
    cases t with
    | nil => simp [rising]
    | cons q u =>
      rw [rising, Bool.and_eq_true, ih, decide_eq_true_eq]
      constructor
      · intro ⟨hpq, hq⟩
        refine List.pairwise_cons.2 ⟨?_, hq⟩
        intro r hr
        rcases List.mem_cons.1 hr with rfl | hr
        · exact hpq
        · exact Nat.lt_trans hpq ((List.pairwise_cons.1 hq).1 r hr)
      · intro h
        exact ⟨(List.pairwise_cons.1 h).1 q (by simp), (List.pairwise_cons.1 h).2⟩

theorem mem_tdel {α : Type} (t : Tbl α) (k : Nat) (p : Nat × α) (h : p ∈ tdel t k) : p ∈ t := (List.mem_filter.1 h).1

theorem mem_tset {α : Type} (t : Tbl α) (k : Nat) (v : α) (p : Nat × α) (h : p ∈ tset t k v) : p = (k, v) ∨ p ∈ t := by
  induction t with
  | nil => simpa [tset] using h
  | cons q t ih =>
    obtain ⟨j, a⟩ := q
    simp only [tset] at h
    split at h
    · simpa using h
    · split at h
      · rcases List.mem_cons.1 h with h | h
        · exact .inl h
        · exact .inr (List.mem_cons_of_mem _ h)
      · rcases List.mem_cons.1 h with h | h
        · exact .inr (by simp [h])
        · exact (ih h).imp id (List.mem_cons_of_mem _)

theorem tdel_pairwise {α : Type} (t : Tbl α) (k : Nat) (h : t.Pairwise (fun p q => p.1 < q.1)) :
    (tdel t k).Pairwise (fun p q => p.1 < q.1) := h.sublist List.filter_sublist

theorem tset_pairwise {α : Type} (t : Tbl α) (k : Nat) (v : α) (h : t.Pairwise (fun p q => p.1 < q.1)) :
    (tset t k v).Pairwise (fun p q => p.1 < q.1) := by
  induction t with
  | nil => simp [tset]
  | cons q t ih =>
    obtain ⟨j, a⟩ := q
    have ht := List.pairwise_cons.1 h
    simp only [tset]
    split
    · next hk =>
      refine List.pairwise_cons.2 ⟨?_, h⟩
      intro r hr
      rcases List.mem_cons.1 hr with rfl | hr
      · exact hk
      · exact Nat.lt_trans hk (ht.1 r hr)
    · split
      · next hjk => subst hjk; exact List.pairwise_cons.2 ⟨ht.1, ht.2⟩
      · refine List.pairwise_cons.2 ⟨?_, ih ht.2⟩
        intro r hr
        rcases mem_tset t k v r hr with rfl | hr
        · simp only; omega
        · exact ht.1 r hr

/-! ### The canonical form -/

theorem memory_wf_iff (m : Memory) :
    m.wf = true ↔ m.cells.Pairwise (fun p q => p.1 < q.1) ∧ ∀ p ∈ m.cells, p.2 ≠ m.dflt p.1 := by
  simp only [Memory.wf, Bool.and_eq_true, rising_iff, List.all_eq_true, decide_eq_true_eq]

@[simp] theorem memory_zero_wf : Memory.zero.wf = true := rfl
@[simp] theorem memory_lost_wf (g : Nat) : (Memory.lost g).wf = true := rfl

/-- The write of one byte keeps the canonical form. -/
theorem memory_put_wf (m : Memory) (a : Nat) (b : Byte) (h : m.wf = true) : (m.put a b).wf = true := by
  rw [memory_wf_iff] at h ⊢
  refine ⟨?_, ?_⟩
  · simp only [Memory.put]
    split
    · exact tdel_pairwise _ _ h.1
    · exact tset_pairwise _ _ _ h.1
  · intro p hp
    simp only [Memory.put] at hp
    have hd : (m.put a b).dflt p.1 = m.dflt p.1 := rfl
    rw [hd]
    split at hp
    · exact h.2 p (mem_tdel _ _ _ hp)
    · next hb =>
      rcases mem_tset _ _ _ _ hp with rfl | hp
      · exact hb
      · exact h.2 p hp

/-- The write of listed bytes keeps the canonical form. -/
theorem memory_write_wf (m : Memory) (l : List Host.Cell) (h : m.wf = true) : (m.write l).wf = true := by
  have key : ∀ (l : List Host.Cell) (m : Memory), m.wf = true → (l.foldl (fun m p => m.put p.1 p.2) m).wf = true := by
    intro l
    induction l with
    | nil => intro m h; exact h
    | cons p l ih => intro m h; exact ih _ (memory_put_wf m p.1 p.2 h)
  exact key l m h

/-- A corrected read keeps the canonical form. -/
theorem memory_heal_wf (m : Memory) (addrs : List Nat) (h : m.wf = true) : (m.heal addrs).wf = true := h

/-! ### Reading after writing -/

theorem memory_put_byte (m : Memory) (a : Nat) (b : Byte) (c : Nat) : (m.put a b).byte c = if c = a then b else m.byte c := by
  have hd : (m.put a b).dflt c = m.dflt c := rfl
  by_cases hc : c = a
  · subst hc
    simp only [Memory.byte, hd, if_true]
    by_cases hb : b = m.dflt c
    · simp [Memory.put, hb, tget_tdel_same]
    · simp [Memory.put, hb, tget_tset_same]
  · simp only [Memory.byte, hd, hc, if_false]
    by_cases hb : b = m.dflt a
    · simp [Memory.put, hb, tget_tdel_other _ hc]
    · simp [Memory.put, hb, tget_tset_other _ _ hc]

/-- A byte that a write does not list reads as before. -/
theorem memory_write_byte_other (m : Memory) (l : List Host.Cell) (c : Nat) (hc : ∀ p ∈ l, p.1 ≠ c) :
    (m.write l).byte c = m.byte c := by
  have key : ∀ (l : List Host.Cell) (m : Memory), (∀ p ∈ l, p.1 ≠ c) →
      (l.foldl (fun m p => m.put p.1 p.2) m).byte c = m.byte c := by
    intro l
    induction l with
    | nil => intro m _; rfl
    | cons p l ih =>
      intro m hc
      rw [List.foldl_cons, ih _ (fun q hq => hc q (List.mem_cons_of_mem _ hq)), memory_put_byte m p.1 p.2,
        if_neg (fun e => hc p (by simp) e.symm)]
  exact key l m hc

end Sys2Proof.Machine
end

