-- ==== Sys2Proof/Laws/Stores.lean ====
section
/-!
SUPPORT. The operations over a whole range of a tower keep its canonical form: the zeroing of a session's range, the drain of a
posted write, and the stores of the machine right after reset.
-/
namespace Sys2Proof.Machine

/-- Writing one value to a run of bytes keeps the canonical form. -/
theorem memory_putAll_wf (l : List Nat) (b : Byte) (m : Memory) (h : m.wf = true) :
    (l.foldl (fun m k => m.put k b) m).wf = true := by
  induction l generalizing m with
  | nil => exact h
  | cons a l ih => exact ih _ (memory_put_wf m a b h)

/-- Writing to a run of bytes leaves what unlisted bytes read as. -/
theorem memory_putAll_dflt (l : List Nat) (b : Byte) (m : Memory) (c : Nat) :
    (l.foldl (fun m k => m.put k b) m).dflt c = m.dflt c := by
  induction l generalizing m with
  | nil => rfl
  | cons a l ih => rw [List.foldl_cons, ih]; rfl

/-- The zeroing of a range keeps the canonical form (R181). -/
theorem memory_clearRange_wf (m : Memory) (a n : Nat) (h : m.wf = true) : (m.clearRange a n).wf = true := by
  rw [memory_wf_iff]
  by_cases hg : m.gen = 0
  · have hc : (m.clearRange a n).cells = m.cells.filter (fun p => p.1 < a || a + n ≤ p.1) := by simp [Memory.clearRange, hg]
    rw [hc]
    have h' := (memory_wf_iff m).1 h
    exact ⟨h'.1.sublist List.filter_sublist, fun p hp => h'.2 p (List.mem_filter.1 hp).1⟩
  · have hc : (m.clearRange a n).cells = ((span a n).foldl (fun m k => m.put k 0) m).cells := by simp [Memory.clearRange, hg]
    rw [hc]
    have h' := (memory_wf_iff _).1 (memory_putAll_wf (span a n) 0 m h)
    refine ⟨h'.1, fun p hp => ?_⟩
    have hd := h'.2 p hp
    rw [memory_putAll_dflt] at hd
    exact hd

/-- The drain of a posted write keeps the tower's canonical form (R173). -/
theorem drainEntry_wf (t : Memory) (e : Pwb) (h : t.wf = true) : (drainEntry t e).1.wf = true := memory_write_wf _ _ h

/-- The stores of the machine right after reset list nothing. -/
@[simp] theorem reset_cells : State.reset.cells = [] := rfl
@[simp] theorem reset_fields : State.reset.fields = [] := rfl
@[simp] theorem reset_bridges : State.reset.bridges = [] := rfl

end Sys2Proof.Machine
end

