-- ==== Sys2Proof/Tests/Slice0.lean ====
section
/-!
SUPPORT. The author's own tests: ill-formed commands that the check refuses, one step of each family on a small state, and for every
statement with hypotheses a state and operands that meet them.
-/

namespace Sys2Proof.Tests
set_option maxRecDepth 20000
set_option Elab.async false
open Sys2Proof Sys2Proof.Machine Sys2Proof.Claims

/-! ### Small states -/

/-- The outcome is a next state that passes `f`. -/
def onNext (r : Res) (f : State → Bool) : Bool :=
  match r with
  | .next t => f t
  | _ => false

/-- A field that runs, its tower trained. -/
def fieldUp : Field :=
  { Field.reset with power := .underway, rails := true, trained := true, towerRails := true, oscEn := true, locked := true }

/-- A state whose field 0 runs. -/
def up : State := { State.reset with fields := [(0, fieldUp)] }

/-- `up` with one cell of field 0. -/
def upCell (x y : Nat) (c : Cell) : State := { up with cells := [(siteIx x y, c)] }

/-- A slot word from OPCODE, FMT, MOD, SRC0, SRC1, CTL, DST, REPEAT, OPA, OPB and OPC (R38). -/
def slotOf (op fmt md s0 s1 ctl dst rep opa opb opc : Nat) : BitVec 128 :=
  BitVec.ofNat 128 (op * 2 ^ 120 + fmt * 2 ^ 116 + md * 2 ^ 112 + s0 * 2 ^ 108 + s1 * 2 ^ 104 + ctl * 2 ^ 100 + dst * 2 ^ 88 +
    rep * 2 ^ 64 + opa * 2 ^ 48 + opb * 2 ^ 32 + opc * 2 ^ 16)

/-- A queue that holds these items. -/
def holding (l : List Item) : Queue := { Queue.empty with hw := l.map (fun d => { data := d, since := 0, bad := false }) }

/-- An active cell in pulse 1 with slot 0 and these queues. -/
def active (w : BitVec 128) (qs : List (Nat × Queue)) : Cell :=
  { Cell.reset with state := .active, pulse := 1, slotEn := 1, slots := [(0, w)], queues := qs }

/-- The plan of a ready slot. -/
def planAt (s : State) (x y n : Nat) : Plan :=
  (slotReady (clsOf x y) (s.cell x y) n).getD
    { units := [], hold := 0, pops := [], peeks := [], rooms := [], lat := 0, descs := [], go := false }

/-- The slot meets all that the statements about firings ask. -/
def readyB (s : State) (x y n : Nat) (isOp : Cls → BitVec 128 → Bool) : Bool := decide (Ready s x y n isOp (planAt s x y n))

/-- What the newest op of a cell will write, and when. -/
def lastOp (t : State) (x y : Nat) : List (Nat × List (Nat × Item)) := (t.cell x y).ops.map (fun o => (o.due, o.outs))

/-- A descriptor word of R86: format, rows, columns, tiles of the inner loop, BOUND, row stride and BASE in units of 32 bytes. -/
def descOf (fmt rows cols t0 bound stride base : Nat) : BitVec 256 :=
  BitVec.ofNat 256 (fmt * 2 ^ 252 + (rows - 1) * 2 ^ 230 + (cols - 1) * 2 ^ 223 + (t0 - 1) * 2 ^ 212 + bound * 2 ^ 136 + stride * 2 ^ 116 +
    base)

/-! ### Ill-formed commands, one for each check -/

theorem test_wf_host_site : ([Instr.hello 4 0, .mbxDoorbell 4 0, .gatedAccess 4 1 false, .clocks true true [(4, [0], 16, 4)], .helmLoad 4 [],
    .cxlMemRead 4 0, .egressWrite 4 240 0, .programSwitch 4, .drainFail 4 1 0, .sounding 4 [], .logWallLoWrite 4 0, .logLoRead 4 8,
    .hostModuleRetry 4 0 true, .hostLinkRetrain 4 [0] 16 32, .linkDegraded 4 [0] 16 32, .hostDieStart 4, .hostReadCompletion 4 0 []].any Instr.wf) = false := by decide +kernel
theorem test_wf_site : ([Instr.dot 576 0 0, .start 0 576, .streamItemSend 576 0 0, .packetInject 576 0 0 .clean, .packetHop 576 0 0 0 .clean, .flushStatic 0 576,
    .swWordLoRead 576 0 0, .sramScrub 576 0 (.data 0) .clean, .egressWrite 0 576 0, .drainFail 0 576 0, .sounding 0 [(576, 0, false)],
    .meshTest [(576, 0, 0)] [], .meshTest [] [(576, 0, 0, 0)], .cellMicrocode [(0, 576)], .cellGateClose 576 0, .mcClear 0 576].any Instr.wf) = false := by
  decide +kernel
theorem test_wf_slot : (Instr.dot 1 0 63).wf = true ∧ (Instr.dot 1 0 64).wf = false ∧ (Instr.hashDrain 1 0 64).wf = false := by decide +kernel
theorem test_wf_part : ([Instr.creditReturn 1 0 8, .joinOutput 1 0 20, .packetEject 1 0 6 0 .clean, .packetHop 1 0 0 8 .clean, .rd 1 0 7, .multicastForward 1 0 0 5 .clean,
    .multicastForward 1 0 256 0 .clean, .linkAliveLoss 1 0 4, .laneMapWrite 1 0 20 0, .swWordHiWrite 1 0 2 0, .streamLineFetch 1 0 8, .sightCompare 1 0 4,
    .roseSlip [(0, 4)], .roseSlip [(144, 0)], .hostModuleRetry 0 4 true, .peerPacketArrive 0 0 4].any Instr.wf) = false := by decide +kernel
theorem test_wf_field : ([Instr.trip 144, .towers [(144, 0)], .towers [(0, 64)], .fieldsPower [144], .dramScrub 0 64 .clean, .dramRefresh 144 0 0,
    .deadReckoningExit true [144], .wakeRequest 144, .serviceParentTimeout 144, .telemetrySample 0 0 0 0 0 (144, 0),
    .towerRailOvercurrent 144].any Instr.wf) = false := by decide +kernel
theorem test_wf_lane : ([Instr.frameSend 6 0, .frameSend 0 96, .keepAlive 6, .peers [(6, 0, 0)], .peers [(0, 96, 0)]].any Instr.wf) = false := by decide +kernel
theorem test_wf_register : ([RegTarget.bar0 0 0x4000000, .bar0 4 0, .config 4 .ids, .config 0 (.bar 1), .config 0 (.dvsec 3 0), .brw 0 0x10000, .brw 0 2, .brw 4 0, .image 0 0x800000, .msix 0 0x40, .component 0 0x10000, .unit0 576 0 0,
    .unit0 0 0 0x10000, .baseDie 144 0, .baseDie 0 2, .store 144 0].any (fun r => (Instr.registerWrite r 0).wf)) = false := by decide +kernel
theorem test_wf_store : (Instr.sramScrub 1 0 (.data 0x10000000) .clean).wf = false ∧ (Instr.sramScrub 1 0 (.store 1024) .clean).wf = false ∧
    ([ScrubTarget.queue 8 0, .acc 2048, .hash 0, .line 0 0, .pwb 0 0].any (fun t => (Instr.sramScrub 1 0 t .clean).wf)) = false := by decide +kernel
theorem test_wf_bridge : (Instr.mbxSlotWrite 0 16 0 []).wf = false ∧ (Instr.mbxSlotWrite 0 0 255 [1, 2]).wf = false ∧
    (Instr.gatedAccess 0 0 false).wf = false ∧ (Instr.gatedAccess 0 7 false).wf = false ∧ (Instr.logLoRead 0 0x20).wf = false := by decide +kernel

/-! ### Slot firings -/

/-- FWD, SEL, MERGE, ROUTE, TOKEN and CMP: three queues hold 7, 9 and the control token 1. -/
def steerAt (op md : Nat) : State :=
  upCell 1 0 (active (slotOf op 0 md 0 1 2 0x18 0 5 0x4000 0) [(0, holding [7]), (1, holding [9]), (2, holding [1])])

theorem witness_steering : ([0x30, 0x31, 0x32, 0x33, 0x34].all (fun op => readyB (steerAt op 0) 1 0 0 (isAny op))) = true := by decide +kernel

theorem witness_cmp : readyB (steerAt 0x35 0) 1 0 0 (isAny 0x35) = true ∧ (clsOf 1 0 = .c ∨ clsOf 1 0 = .f) := by decide +kernel

theorem test_fwd : onNext (exec (.fwd 1 0 0) (steerAt 0x30 0)) (fun t =>
    (t.cell 1 0).firings = 1 && ((t.cell 1 0).queue 0).hw = [] && (t.cell 1 0).queue 1 = holding [9] &&
    lastOp t 1 0 = [(2, [(3, 7), (4, 7)])]) = true := by decide +kernel

/-- SEL pops all three queues and takes SRC1 when the token's bit 0 is 1 (R51). -/
theorem test_sel : onNext (exec (.sel 1 0 0) (steerAt 0x31 0)) (fun t =>
    lastOp t 1 0 = [(2, [(3, 9), (4, 9)])] && ((t.cell 1 0).queue 0).hw = [] && ((t.cell 1 0).queue 1).hw = []) = true := by decide +kernel

/-- MERGE leaves the queue it does not choose (R51). -/
theorem test_merge : onNext (exec (.merge 1 0 0) (steerAt 0x32 0)) (fun t =>
    lastOp t 1 0 = [(2, [(3, 9), (4, 9)])] && (t.cell 1 0).queue 0 = holding [7] && ((t.cell 1 0).queue 1).hw = []) = true := by decide +kernel

/-- ROUTE with token 1 and two DST bits writes the second lowest queue (R51). -/
theorem test_route : onNext (exec (.route 1 0 0) (steerAt 0x33 0)) (fun t => lastOp t 1 0 = [(2, [(4, 7)])]) = true := by decide +kernel

theorem test_token : onNext (exec (.token 1 0 0) (steerAt 0x34 0)) (fun t => lastOp t 1 0 = [(2, [(3, 5), (4, 5)])]) = true := by decide +kernel

/-- CMP copies its item to every DST queue in pulse t + 2 (R48). -/
theorem test_cmp : onNext (exec (.cmp 1 0 0) (steerAt 0x35 0)) (fun t => lastOp t 1 0 = [(3, [(3, 7), (4, 7)])]) = true := by decide +kernel

/-- R45: a CMP write and a write of CELL_PRED in one pulse: CMP's bit stands, the others are the register write's. -/
theorem test_cmp_beats_predWrite : ((Cell.reset.cmpWrite 3 true).predWrite 0x05#8).pred = 0x0D#8 ∧
    ((Cell.reset.predWrite 0x05#8).cmpWrite 0 false).pred = 0x04#8 ∧
    ((Cell.reset.cmpWrite 3 true).onePulse .c).predWas = none := by decide +kernel

/-- R98: a read through a descriptor in the pulse of a write sees storage as before; in the next pulse, as after. -/
theorem test_store_shows_next_pulse : (Cell.reset.store [(0, 1)]).seen.byte 0 = 0#8 ∧
    ((Cell.reset.store [(0, 1)]).onePulse .c).seen.byte 0 = 1#8 := by decide +kernel

/-- An item whose eight FP32 lanes hold one value. -/
def all8 (w : Nat) : Item := packItem 0 (copies 8 w)

/-- A C-cell with 1.0 and 2.0 at its heads (0x3F800000, 0x40000000). -/
def vecAt (op : Nat) : State :=
  upCell 1 0 (active (slotOf op 0 0 0 1 15 0x4 0 0x4000 0 0) [(0, holding [all8 0x3F800000]), (1, holding [all8 0x40000000])])

theorem witness_vector : (readyB (vecAt 0x10) 1 0 0 (isVec 0x10 0x08) && readyB (vecAt 0x11) 1 0 0 (isVec 0x11 0x09) &&
    readyB (vecAt 0x12) 1 0 0 (isVec 0x12 0x0A) && readyB (vecAt 0x13) 1 0 0 (isOf .c 0x13)) = true ∧
    (fmtOf 0).isSome = true ∧ ((vecAt 0x10).cell 1 0).data.badWord [] = none := by decide +kernel

/-- 1.0 + 2.0 = 3.0 (R47, R77). -/
theorem test_vadd : onNext (exec (.vadd 1 0 0 false) (vecAt 0x10)) (fun t => lastOp t 1 0 = [(5, [(2, all8 0x40400000)])]) = true := by decide +kernel
theorem test_vmul : onNext (exec (.vmul 1 0 0 false) (vecAt 0x11)) (fun t => lastOp t 1 0 = [(5, [(2, all8 0x40000000)])]) = true := by decide +kernel
theorem test_vmax : onNext (exec (.vmax 1 0 0 false) (vecAt 0x12)) (fun t => lastOp t 1 0 = [(5, [(2, all8 0x40000000)])]) = true := by decide +kernel
/-- The constant OPA:OPB is 2.0 (R47). -/
theorem test_vscale : onNext (exec (.vscale 1 0 0) (vecAt 0x13)) (fun t => lastOp t 1 0 = [(5, [(2, all8 0x40000000)])]) = true := by decide +kernel

/-- An F-cell with 1.0 at its head; OPB 1 makes each item a whole reduction. -/
def fnAt (op md opa opb : Nat) : State :=
  upCell 3 0 (active (slotOf op 0 md 0 15 15 0x4 0 opa opb 0) [(0, holding [all8 0x3F800000])])

theorem witness_functions : ([1, 2, 3, 4, 5, 6, 7].all (fun op => readyB (fnAt op 0 0 0) 3 0 0 (isOf .f op))) = true := by decide +kernel

/-- The last of one item and the first of two (R80). -/
theorem witness_reductions : ([0x10, 0x11, 0x12].all (fun op => readyB (fnAt op 0 4 1) 3 0 0 (isOf .f op) &&
    readyB (fnAt op 0 4 2) 3 0 0 (isOf .f op))) = true ∧
    redLast (((fnAt 0x10 0 4 1).cell 3 0).slot 0) SlotRun.reset = true ∧
    redLast (((fnAt 0x10 0 4 2).cell 3 0).slot 0) SlotRun.reset = false := by decide +kernel

theorem test_functions : ([(1, Instr.exp2 3 0 0 false), (2, .log2 3 0 0 false), (3, .rcp 3 0 0 false), (4, .rsqrt 3 0 0 false),
    (5, .sigm 3 0 0 false), (6, .tanh 3 0 0 false), (7, .sincos 3 0 0 false)].all (fun v => onNext (exec v.2 (fnAt v.1 0 0 0)) (fun t =>
      (t.cell 3 0).ops.map (fun o => (o.due, o.outs.map (·.1))) = [(9, if v.1 = 7 then [2, 2] else [2])]))) = true := by decide +kernel

/-- With MOD 1 the eight lanes are added: eight ones are 8.0 (R80). -/
theorem test_rsum : onNext (exec (.rsum 3 0 0 false) (fnAt 0x10 1 4 1)) (fun t =>
    (t.cell 3 0).ops.map (fun o => o.outs.map (fun v => elem 0 v.2 0)) = [[0x41000000]]) = true := by decide +kernel
theorem test_rmax : onNext (exec (.rmax 3 0 0 false) (fnAt 0x11 0 4 1)) (fun t =>
    (t.cell 3 0).ops.map (fun o => o.outs.map (fun v => elem 0 v.2 0)) = [[0x3F800000]]) = true := by decide +kernel
/-- Of eight equal values the lowest indices come first (R80). -/
theorem test_topk : onNext (exec (.topk 3 0 0 false) (fnAt 0x12 0 4 1)) (fun t =>
    (t.cell 3 0).ops.map (fun o => o.outs.map (fun v => [elem 0 v.2 0, elem 0 v.2 1, elem 0 v.2 2, elem 0 v.2 7])) = [[[0, 0x3F800000, 1, 0x3F800000]]]) = true := by decide +kernel

/-- Paths that differ freeze the cell (R49). -/
theorem test_paths_differ : onNext (exec (.exp2 3 0 0 true) (fnAt 1 0 0 0)) (fun t =>
    decide ((t.cell 3 0).state = .frozen) && (t.cell 3 0).faultCode = functionMismatch && (t.cell 3 0).ops = []) = true := by decide +kernel

/-- A cell whose slot 0 works through descriptor 0: two rows of one FP32 item, at byte 0 and 32, byte 0 holding 7. -/
def memCell (w : BitVec 128) (qs : List (Nat × Queue)) : Cell :=
  { active w qs with descs := [(0, descOf 0 2 8 1 2 1 0)], data := { Memory.zero with cells := [(0, 7), (40, 9)] } }

def memAt (x y op : Nat) : State := upCell x y (memCell (slotOf op 0 0 0 15 15 0x2 0 0 0 0) [(0, holding [3])])

theorem witness_storage : (readyB (memAt 1 0 0x20) 1 0 0 (isOf .c 0x20) && readyB (memAt 1 1 0x01) 1 1 0 (isOf .m 0x01) &&
    readyB (memAt 1 0 0x21) 1 0 0 (isOf .c 0x21) && readyB (memAt 1 1 0x02) 1 1 0 (isOf .m 0x02)) = true ∧
    ((memAt 1 0 0x20).cell 1 0).data.badWord (span 0 32) = none ∧
    partialBad ((memAt 1 0 0x21).cell 1 0).data [(0, 3)] = none := by decide +kernel

/-- LOAD delivers the 32 bytes of step 0 three pulses later; the walk moves to step 1 (R47, R88). -/
theorem test_load : onNext (exec (.load 1 0 0) (memAt 1 0 0x20)) (fun t =>
    lastOp t 1 0 = [(4, [(1, 7)])] && (t.cell 1 0).walkPos 0 = 1) = true := by decide +kernel
theorem test_sread : onNext (exec (.sread 1 1 0) (memAt 1 1 0x01)) (fun t => lastOp t 1 1 = [(5, [(1, 7)])]) = true := by decide +kernel
/-- STORE writes bytes 0 to 31 and leaves byte 40 (R96). -/
theorem test_store : onNext (exec (.store 1 0 0) (memAt 1 0 0x21)) (fun t => (t.cell 1 0).data.cells = [(0, 3), (40, 9)]) = true := by
  decide +kernel
theorem test_swrite : onNext (exec (.swrite 1 1 0) (memAt 1 1 0x02)) (fun t => (t.cell 1 1).data.cells = [(0, 3), (40, 9)]) = true := by
  decide +kernel

/-- CVT: FMT is the narrow format (2 FP16) and MOD 0 narrows; MOD names the source format when it widens. -/
def cvtAt (md fmt src : Nat) (r : SlotRun) : State :=
  upCell 1 0 { memCell (slotOf 0x18 fmt md src 15 15 0x2 0 0 0 0) [(0, holding [all8 0x3F800000])] with runs := [(0, r)] }

theorem witness_cvt :
    (readyB (cvtAt 0 1 0 SlotRun.reset) 1 0 0 (isOf .c 0x18) &&
     readyB (cvtAt 0 1 0 { SlotRun.reset with block := copies 8 1 }) 1 0 0 (isOf .c 0x18) &&
     readyB (cvtAt 1 0 0 SlotRun.reset) 1 0 0 (isOf .c 0x18) && readyB (cvtAt 1 0 8 SlotRun.reset) 1 0 0 (isOf .c 0x18) &&
     readyB (cvtAt 1 0 8 { SlotRun.reset with wide := 1, held := some (5, 1) }) 1 0 0 (isOf .c 0x18)) = true ∧
    (let w := fun (md fmt src : Nat) => ((cvtAt md fmt src SlotRun.reset).cell 1 0).slot 0
     isNarrow (w 0 1 0) = true ∧ fills (w 0 1 0) SlotRun.reset = false ∧ fills (w 0 1 0) { SlotRun.reset with block := copies 8 1 } = true ∧
     isNarrow (w 1 0 0) = false ∧ sSrc0 (w 1 0 0) < 8 ∧ sSrc0 (w 1 0 8) = 8) := by decide +kernel

/-- The second half of a 16-bit item completes it (R73). -/
theorem test_cvt_narrow : onNext (exec (.cvt 1 0 0) (cvtAt 0 1 0 { SlotRun.reset with block := copies 8 0x3F800000 })) (fun t =>
    (t.cell 1 0).ops.map (fun o => o.outs.length) = [1] && ((t.cell 1 0).run 0).block = []) = true := by decide +kernel
theorem test_cvt_fills : onNext (exec (.cvt 1 0 0) (cvtAt 0 1 0 SlotRun.reset)) (fun t =>
    (t.cell 1 0).ops.map (fun o => o.outs) = [[]] && ((t.cell 1 0).run 0).block = copies 8 0x3F800000) = true := by decide +kernel

/-- A DOT of two queue heads into accumulator 5 (R64). -/
def dotAt (fmt md : Nat) (x0 x1 : Item) : State :=
  upCell 1 0 (active (slotOf 0x01 fmt md 0 1 15 0x4 0 0 0 5) [(0, holding [x0]), (1, holding [x1])])
def accAt (op opb opc : Nat) (r : SlotRun) : State :=
  upCell 1 0 { active (slotOf op 0 0 15 15 15 0x2 0 0 opb opc) [] with acc := [(5, 0x3F800000), (6, 0x40000000)], runs := [(0, r)] }

theorem witness_accumulators : (readyB (dotAt 8 0 1 1) 1 0 0 (isOf .c 0x01) && readyB (dotAt 8 8 1 1) 1 0 0 (isOf .c 0x01) &&
    readyB (accAt 0x02 0 0 SlotRun.reset) 1 0 0 (isOf .c 0x02) && readyB (accAt 0x03 1 5 SlotRun.reset) 1 0 0 (isOf .c 0x03)) = true ∧
    fills (((accAt 0x02 0 0 SlotRun.reset).cell 1 0).slot 0) SlotRun.reset = true ∧
    fills (slotOf 0x02 1 0 15 15 15 0x2 0 0 0 0) SlotRun.reset = false := by decide +kernel

/-- INT8: 32 products of 1 with 2 give 64 for accumulator 5, due six pulses later (R64, R69). -/
theorem test_dot : onNext (exec (.dot 1 0 0) (dotAt 8 0 (itemOf (copies 32 1)) (itemOf (copies 32 2)))) (fun t =>
    (t.cell 1 0).ops.map (fun o => (o.due, o.adds)) = [(7, [(5, true, 64)])]) = true := by decide +kernel
/-- ACC_OUT from accumulator 0: lanes 5 and 6 carry 1.0 and 2.0 (R73). -/
theorem test_accOut : onNext (exec (.accOut 1 0 0) (accAt 0x02 0 0 SlotRun.reset)) (fun t =>
    (t.cell 1 0).ops.map (fun o => o.outs.map (fun v => (v.1, elem 0 v.2 5, elem 0 v.2 6, elem 0 v.2 0))) =
      [[(1, 0x3F800000, 0x40000000, 0)]]) = true := by decide +kernel
/-- ACC_CLR of accumulator 5 leaves 6 (R47). -/
theorem test_accClr : onNext (exec (.accClr 1 0 0) (accAt 0x03 1 5 SlotRun.reset)) (fun t =>
    (t.cell 1 0).accAt 5 = 0 && (t.cell 1 0).accAt 6 = 0x40000000) = true := by decide +kernel

/-- A SYNC slot: MOD 0 is add; OPA names the sync word, OPB:OPC is 3. -/
def syncAt : State := upCell 1 0 (active (slotOf 0x38 0 0 0 15 15 0x2 0 0 0 3) [(0, holding [7])])

/-- A DMA between LOCAL tiles: descriptor 0 at byte 0, descriptor 1 at byte 64. -/
def dmaAt : State :=
  upCell 1 1 { memCell (slotOf 0x03 0 0 0 15 15 0x2 0 0 1 0) [(0, holding [0])] with
    descs := [(0, descOf 0 1 8 1 1 1 0), (1, descOf 0 1 8 1 1 1 2)] }

/-- A transfer whose writes are all acknowledged. -/
def oneDma : Dma :=
  { opId := 0, slot := 0, srcDesc := 0, dstDesc := 1, srcAddr := 0, dstAddr := 0, srcTile := 0, dstTile := 0, number := 0, buf := [],
    reads := 0, writes := 0, issued := true, bytes := 32 }
def oneOp : Op :=
  { id := 0, slot := 0, due := 1, fixed := false, promised := true, waiting := true, outs := [(1, 0)], adds := [], accLo := 0, accLen := 0,
    isDot := false, pred := none }
def dmaDoneAt : State :=
  upCell 1 1 { memCell (slotOf 0x03 0 0 0 15 15 0x2 0 0 1 0) [] with
    descs := [(0, descOf 0 1 8 1 1 1 0), (1, descOf 0 1 8 1 1 1 2)], dmas := [oneDma], ops := [oneOp] }

theorem witness_sync_dma : (readyB syncAt 1 0 0 isSync && readyB dmaAt 1 1 0 (isOf .m 0x03)) = true ∧
    ((dmaAt.cell 1 1).desc 0).space = 0 ∧ (dmaAt.cell 1 1).data.badWord (dmaSrc (dmaAt.cell 1 1) ((dmaAt.cell 1 1).desc 0) 0) = none := by
  decide +kernel

theorem witness_dma_completion : takeFirst (fun (t : Dma) => t.slot = 0 && t.issued && t.writes = 0) (dmaDoneAt.cell 1 1).dmas =
      some (oneDma, []) ∧ takeFirst (fun (o : Op) => o.id = oneDma.opId) (dmaDoneAt.cell 1 1).ops = some (oneOp, []) ∧
    oneOp.outs.any (fun q => ((dmaDoneAt.cell 1 1).queue q.1).lastPut = some (dmaDoneAt.cell 1 1).pulse) = false := by decide +kernel

/-- The request is of class SYNC with op 8 and argument 3 (R48, R136). -/
theorem test_sync : onNext (exec (.sync 1 0 0) syncAt) (fun t =>
    (t.router 1 0).inject.map (fun p => (p.op, p.cls, p.arg.toNat)) = [(8, clsSync, 3)] && (t.cell 1 0).ops.map (·.waiting) = [true]) =
    true := by decide +kernel

/-- A LOCAL tile moves at once: bytes 64 to 95 take those of 0 to 31 (R415). -/
theorem test_dma : onNext (exec (.dma 1 1 0) dmaAt) (fun t =>
    (t.cell 1 1).data.cells = [(0, 7), (40, 9), (64, 7)] && (t.cell 1 1).dmas.map (fun d => (d.issued, d.writes, d.bytes)) =
      [(true, 0, 32)]) = true := by decide +kernel

/-- The completion item: bytes written, transfer number, device address of the tile written (R162, R415). -/
theorem test_dmaCompletion : onNext (exec (.dmaCompletion 1 1 0) dmaDoneAt) (fun t =>
    ((t.cell 1 1).queue 1).hw.map (·.data) = [itemOf (leBytes 4 32 ++ leBytes 4 0 ++ leBytes 8 (2 ^ 48 + 2 ^ 38 + 64))] && (t.cell 1 1).dmas = []) = true := by
  decide +kernel

/-- A channel cell whose stream 0 names descriptor 0, with or without line 0 in its buffer. -/
def chanAt (op : Nat) (lines : List Line) (mask scope : Nat) : State :=
  upCell 0 0 { memCell (slotOf op 0 0 0 15 15 0x2 0 0 0 0) [(0, holding [3])] with
    descs := [(0, descOf 0 2 8 1 2 1 0 ||| BitVec.ofNat 256 (mask * 2 ^ 245 + mask * 2 ^ 237))],
    pc := { PChan.reset with strm := [(0, 0x80020000#32)], scope := [(0, word scope)], lines := lines } }
def lineZero : Line := { stream := 0, addr := 0, data := 5 :: copies 255 0, bad := [] }

theorem witness_channel :
    (readyB (chanAt 1 [] 1 0) 0 0 0 (isOf .p 0x01) && readyB (chanAt 1 [lineZero] 0 0) 0 0 0 (isOf .p 0x01) &&
     readyB (chanAt 1 [] 0 0) 0 0 0 (isOf .p 0x01) && readyB (chanAt 2 [] 1 0) 0 0 0 (isOf .p 0x02) &&
     readyB (chanAt 2 [] 0 0) 0 0 0 (isOf .p 0x02)) = true ∧
    (let c := fun (l : List Line) (m : Nat) => (chanAt 1 l m 0).cell 0 0
     itemLines (c [] 1) ((c [] 1).desc 0) 0 = [] ∧ itemLines (c [] 0) ((c [] 0).desc 0) 0 = [0] ∧ strmOf (c [] 0) 0 = some 0 ∧
     (lineAt (c [lineZero] 0) 0 0).isSome = true ∧ lineAt (c [] 0) 0 0 = none ∧
     badInLines (c [lineZero] 0) (lineAt (c [lineZero] 0) 0) ((c [lineZero] 0).desc 0) 0 = none ∧
     chWriteCells ((chanAt 2 [] 1 0).cell 0 0) 0 = [] ∧ (chWriteCells ((chanAt 2 [] 0 0).cell 0 0) 0).length = 32) := by decide +kernel

/-- A buffered line answers in three pulses (R175). -/
theorem test_chRead : onNext (exec (.chRead 0 0 0) (chanAt 1 [lineZero] 0 0)) (fun t => lastOp t 0 0 = [(4, [(1, 5)])]) = true := by decide +kernel
/-- A missing line is waited for and fetched (R175). -/
theorem test_chRead_waits : onNext (exec (.chRead 0 0 0) (chanAt 1 [] 0 0)) (fun t =>
    (t.cell 0 0).ops.map (·.waiting) = [true] && (t.cell 0 0).pc.fetches.map (fun q => (q.stream, q.addr, q.dead)) = [(0, 0, false)]) = true := by decide +kernel
/-- One posted entry of 32 bytes in granule 0 (R173). -/
theorem test_chWrite : onNext (exec (.chWrite 0 0 0) (chanAt 2 [] 0 0)) (fun t =>
    (t.cell 0 0).pc.pwb.map (fun e => (e.granule, e.enables.toNat, e.data.take 2)) = [(0, 2 ^ 32 - 1, [3, 0])] &&
    (t.cell 0 0).ops.map (·.waiting) = [false]) = true := by decide +kernel

/-! ### The gather-merge cell -/

/-- A stored dense tile of one FP16 row of 16 columns (R112, R113): header in bytes 0 to 31, values from byte 32. -/
def tileBytes : List Host.Cell :=
  let h : BitVec 256 := BitVec.ofNat 256 (2 ^ 252 + 2 ^ 249 + 15 * 2 ^ 232 + 2 ^ 216)
  cellsUnder 0 (fun _ => true) (itemBytes h ++ itemBytes (all8 0x3F800000))

def expandAt : State :=
  upCell 3 3 { memCell (slotOf 0x01 1 0 0 15 15 0x2 0 0 0 0) [(0, holding [itemOf (leBytes 8 0 ++ leBytes 2 1 ++ [0, 15])])] with
    descs := [(0, descOf 0 1 8 1 64 1 0)], data := Memory.zero.write tileBytes,
    gc := { GEng.reset with expands := [(0, { addr := 0, left := 1, tileOff := 0, asked := 64, item := 0, hdr := none })] } }

/-- A PLAN or CHECK slot, and a span of one group and one row. -/
def spanRec (checked emitted : Nat) : Span :=
  { num := 0, desc := 0, slot := 0, base := 0, gstride := 64, hist := 0, layer := 0, groups := 1, rows := 1, fmt := 0, mx := false, planned := true,
    fetched := 1, missing := [], live := 1, checked := checked, misses := 0, emitted := emitted }
def gAt (op md : Nat) (it : Item) (spans : List Span) : State :=
  upCell 3 3 { memCell (slotOf op 0 md 0 15 15 0x2 0 0 0 0) [(0, holding [it])] with
    descs := [(0, descOf 0 1 8 1 64 1 0)], gc := { GEng.reset with spans := spans } }
/-- One group of one row in FP32 at device address 0 (R118). -/
def planItem : Item := 0

theorem witness_gather :
    (let e := expandEngine expandAt.myMod 3 3 0 (expandAt.cell 3 3)
     let s1 := (expandAt.setCell 3 3 e.1).inject 3 3 e.2
     slotOn (expandAt.cell 3 3) 0 = true ∧ expandBad e.1 0 = false ∧ readyB s1 3 3 0 isExpand = true ∧
       (expTile e.1 0).isSome = true) ∧
    readyB (gAt 1 1 0 [spanRec 1 0]) 3 3 0 isSpan = true ∧ spanToEmit ((gAt 1 1 0 [spanRec 1 0]).cell 3 3) 0 = some (spanRec 1 0) ∧
    readyB (gAt 2 0 planItem []) 3 3 0 isPlan = true ∧ (SpanCmd.of planItem).resv = false ∧ (SpanCmd.of planItem).fmt = 0 ∧
    (SpanCmd.of planItem).groups * gLen 0 (SpanCmd.of planItem).rows false ≤ 64 * 32 ∧
    readyB (gAt 2 1 7 [spanRec 0 0]) 3 3 0 isCheck = true ∧ spanToCheck ((gAt 2 1 7 [spanRec 0 0]).cell 3 3) 0 = some (spanRec 0 0) := by
  decide +kernel

theorem test_gatherExpand : onNext (exec (.gatherExpand 3 3 0) expandAt) (fun t =>
    lastOp t 3 3 = [(5, [(1, all8 0x3F800000)])] && (t.cell 3 3).gc.expands = []) = true := by decide +kernel
theorem test_gatherSpan : onNext (exec (.gatherSpan 3 3 0) (gAt 1 1 0 [spanRec 1 0])) (fun t =>
    lastOp t 3 3 = [(5, [(1, 7)])] && (t.cell 3 3).gc.spans = []) = true := by decide +kernel
/-- PLAN opens the span and reads its history record (R120). -/
theorem test_plan : onNext (exec (.plan 3 3 0) (gAt 2 0 planItem [])) (fun t =>
    (t.cell 3 3).gc.spans.map (·.groups) = [1] && (t.router 3 3).inject.map (·.op) = [opRd]) = true := by decide +kernel
/-- A live item that was planned hits: no miss (R121). -/
theorem test_check : onNext (exec (.check 3 3 0) (gAt 2 1 7 [spanRec 0 0])) (fun t =>
    (lastOp t 3 3).take 1 = [(3, [(1, 7)])] && (t.cell 3 3).gc.spans.map (fun p => (p.checked, p.misses)) = [(1, 0)]) = true := by decide +kernel

/-- A valid record: key 5, count 1, values 2.0 and 1.0 (R125). -/
def hItem (valid : Nat) : Item := BitVec.ofNat 256 (5 * 2 ^ 96 + valid * 2 ^ 95 + 2 ^ 64 + 0x40000000 * 2 ^ 32 + 0x3F800000)
theorem witness_hash :
    (readyB (gAt 3 0 (hItem 0) []) 3 3 0 (isOf .g 0x03) && readyB (gAt 3 0 (hItem 1) []) 3 3 0 (isOf .g 0x03) &&
     readyB (gAt 4 0 0 []) 3 3 0 (isOf .g 0x04)) = true ∧
    hValid (BitVec.ofNat 128 (hItem 0).toNat) = false ∧ hValid (BitVec.ofNat 128 (hItem 1).toNat) = true ∧
    siteIx (spillSite ((gAt 4 0 0 []).cell 3 3)).1 (spillSite ((gAt 4 0 0 []).cell 3 3)).2.1 ≠ siteIx 3 3 := by decide +kernel

theorem test_hashAdd : onNext (exec (.hashAdd 3 3 0) (gAt 3 0 (hItem 1) [])) (fun t =>
    (t.cell 3 3).gc.hash.map (fun v => (hKey v.2, hCount v.2)) = [(5, 1)]) = true := by decide +kernel
/-- A drain of an empty table sends the terminator alone (R129). -/
theorem test_hashDrain : onNext (exec (.hashDrain 3 3 0) (gAt 4 0 0 [])) (fun t => lastOp t 3 3 = [(5, [(1, hTerm 0)])]) = true := by decide +kernel

/-! ### Cell control -/

/-- An op of fixed latency that owes queue 1 the item 7. -/
def freeOp : Op := { oneOp with fixed := true, waiting := false, outs := [(1, 7)] }
/-- A cell in a given state with an op of fixed latency that may write, and a shadow that enables slot 1. -/
def ctlCell (st : CellState) : Cell :=
  { active (slotOf 0x30 0 0 0 15 15 0x2 3 0 0 0) [] with
    state := st, slotEnShadow := 2, pulse := 5, firings := 9, ops := [freeOp] }

theorem witness_cell_commands : siteOk 1 0 = true ∧ (upCell 1 0 (ctlCell .idle)).bodyOut 1 0 = false ∧
    ((upCell 1 0 (ctlCell .idle)).cell 1 0).state = .idle ∧ ((upCell 1 0 (ctlCell .active)).cell 1 0).state = .active ∧
    ({ ctlCell .active with applyPending := true, ops := [] } : Cell).ops.all (fun o => ! o.fixed) = true := by decide +kernel

/-- START loads the firing counts from REPEAT (R44). -/
theorem test_start : onNext (exec (.start 1 0) (upCell 1 0 (ctlCell .idle))) (fun t =>
    decide ((t.cell 1 0).state = .active) && ((t.cell 1 0).run 0).left = 3 && (t.cell 1 0).firings = 9) = true := by decide +kernel
/-- No slot issues from the next pulse (R57). -/
theorem test_stop : onNext (exec (.stop 1 0) (upCell 1 0 (ctlCell .active))) (fun t =>
    (t.cell 1 0).stopping && slotOn (t.cell 1 0) 0 && ! slotOn ((t.cell 1 0).onePulse .c) 0) = true := by decide +kernel
/-- APPLY in an idle cell takes the shadow at once, in an active one it waits (R60). -/
theorem test_apply : onNext (exec (.apply 1 0) (upCell 1 0 (ctlCell .idle))) (fun t => (t.cell 1 0).slotEn = 2) = true ∧
    onNext (exec (.apply 1 0) (upCell 1 0 (ctlCell .active))) (fun t => (t.cell 1 0).slotEn = 1 && (t.cell 1 0).applyPending) = true := by
  decide +kernel
theorem test_applyComplete : onNext (exec (.applyComplete 1 0) (upCell 1 0 { ctlCell .active with applyPending := true, ops := [] }))
    (fun t => (t.cell 1 0).slotEn = 2) = true := by decide +kernel
theorem test_clrCnt : onNext (exec (.clrCnt 1 0) (upCell 1 0 (ctlCell .active))) (fun t => (t.cell 1 0).firings = 0) = true := by decide +kernel

theorem witness_result_write : ((upCell 1 0 (ctlCell .active)).cell 1 0).ops.find? (fun o => o.id = 0) = some freeOp ∧
    canWrite ((upCell 1 0 (ctlCell .active)).cell 1 0) freeOp = true ∧ (dueOuts [] freeOp.outs).2 = [] := by decide +kernel

theorem test_resultWrite : onNext (exec (.resultWrite 1 0 0) (upCell 1 0 (ctlCell .active))) (fun t =>
    (t.cell 1 0).ops = [] && ((t.cell 1 0).queue 1).hw.map (·.data) = [7]) = true := by decide +kernel

/-- A cell whose one slot has retired. -/
def idleCell : Cell :=
  { active (slotOf 0x30 0 0 0 15 15 0x2 1 0 0 0) [] with slotEnShadow := 1, runs := [(0, { SlotRun.reset with retired := true })] }
/-- FWD's input queue 0 full: 16 items; SEL needs queue 1 too, which is empty. -/
def stallCell : Cell :=
  { active (slotOf 0x31 0 0 0 1 2 0x8 0 0 0 0) [(0, holding (copies 16 1))] with wdogCount := 0x10000 }
/-- A full INT8 window of entry 0 whose sums agree, differ, or hold a special value. -/
def sightCell (d : Int) (skip : Bool) : Cell :=
  { active (slotOf 0x01 8 0 0 1 15 0 0 0 0 0) [] with
    sg := { Sight.reset with
      entry := [(0, 0x80000004#32)], windows := 3,
      wins := [(0, { SightWin.empty with d := { m := d, e := 0 }, full := true, skip := skip, firings := 4 })] } }

theorem witness_cell_events : idleDue ((upCell 1 0 idleCell).cell 1 0) = true ∧ stallCell.wdogLimit ≠ 0 ∧
    wdogLimitOf stallCell.wdogLimit ≤ stallCell.wdogCount ∧ wdogHit .c stallCell = some (0, 0, 1) ∧ clsOf 1 0 = .c ∧
    (fullWin (sightCell 0 true) 0).isSome = true ∧ (fullWin (sightCell 256 false) 3) = none ∧
    (∀ v, fullWin (sightCell 256 false) 0 = some v → sightPass (sightFmt (sightCell 256 false) 0) v.2 = true) ∧
    (fullWin (sightCell 256 false) 0).isSome = true ∧
    (∀ v, fullWin (sightCell 3 false) 0 = some v → sightPass (sightFmt (sightCell 3 false) 0) v.2 = false) := by
  refine ⟨by decide, by decide, by decide, by decide, by decide, by decide, by decide, ?_, by decide, ?_⟩ <;>
  · intro v h
    cases h
    decide

theorem test_idlePoint : onNext (exec (.idlePoint 1 0) (upCell 1 0 idleCell)) (fun t => decide ((t.cell 1 0).state = .idle)) = true := by
  decide +kernel
/-- The watchdog names slot 0, full queue 0, empty queue 1 (R55). -/
theorem test_wdogTrip : onNext (exec (.wdogTrip 1 0) (upCell 1 0 stallCell)) (fun t =>
    decide ((t.cell 1 0).state = .frozen) && (t.cell 1 0).wdogInfo = 1 && (t.cell 1 0).faultCode = fabReconvergenceStall) = true := by
  decide +kernel
/-- INT8 sums that differ by 256 agree modulo 256; a difference of 3 freezes the cell (R217). -/
theorem test_sightCompare : onNext (exec (.sightCompare 1 0 0) (upCell 1 0 (sightCell 256 false))) (fun t =>
      (t.cell 1 0).sg.windows = 4 && decide ((t.cell 1 0).state = .active)) = true ∧
    onNext (exec (.sightCompare 1 0 0) (upCell 1 0 (sightCell 3 false))) (fun t =>
      (t.cell 1 0).sg.mismatch = 1 && decide ((t.cell 1 0).state = .frozen)) = true := by decide +kernel
theorem test_sgClrCnt : onNext (exec (.sgClrCnt 1 0) (upCell 1 0 (sightCell 0 false))) (fun t => (t.cell 1 0).sg.windows = 0) = true := by
  decide +kernel

/-! ### Streams and joins -/

/-- Lane 0 from cell (1, 0) over the east link into cell (2, 0): lane-map entries 16 of (1, 0) and 12 of (2, 0), queue 0 outbound,
queue 1 inbound. -/
def streamAt : State :=
  { up with
    cells := [(1, { active (slotOf 0 0 0 0 15 15 0 0 0 0 0) [(0, { holding [7] with credits := 2 })] with qcfg := [(0, 0x80000000#32)] }),
              (2, { active (slotOf 0 0 0 0 15 15 0 0 0 0 0) [(1, { Queue.empty with owed := [(0, [])] })] with
                    qcfg := [(1, 0x40000000#32)] })],
    routers := [(1, { Router.reset with laneMap := [(16, 0x88000000#32)], lanes := [(16, [{ data := 9, bad := false, ready := 0 }])] }),
                (2, { Router.reset with laneMap := [(12, 0xA0000000#32)], lanes := [(12, [{ data := 8, bad := false, ready := 0 }])] })],
    cycle := 5 }

theorem witness_streams :
    (let s := streamAt
     qDir (s.cell 1 0) 0 = 2 ∧ ((s.cell 1 0).queue 0).credits ≠ 0 ∧ ((s.router 1 0).lane 16).length < 4 ∧
       (s.router 1 0).linkFree 5 s.cycle = true ∧ (((s.cell 1 0).queue 0).head 1).isSome = true ∧ s.routerUp 1 0 = true ∧
     ((s.router 2 0).laneHead 12 s.cycle).isSome = true ∧ lmOut ((s.router 2 0).lmap 12) = 16 ∧ s.laneGo 2 0 16 = true ∧
       inQueue (s.cell 2 0) 0 = some 1 ∧
     ((s.router 1 0).laneHead 16 s.cycle).isSome = true ∧ lmOut ((s.router 1 0).lmap 16) = 4 ∧ s.laneGo 1 0 4 = true ∧
       beyond 1 0 1 = some (2, 0)) := by decide +kernel

theorem witness_credits :
    (let s := streamAt
     qDir (s.cell 1 0) 0 = 2 ∧ streamEnd s 1 0 0 = some (2, 0, 1, 1) ∧
       ((s.cell 2 0).queue 1).owed.find? (fun p => ! p.2.contains (siteIx 1 0, 0)) = some (0, []) ∧ 0 + 1 + 1 ≤ s.cycle ∧
       (1 : Nat) < 0 + 1 + 1) := by decide +kernel

theorem test_streamItemSend : onNext (exec (.streamItemSend 1 0 0) streamAt) (fun t =>
    ((t.cell 1 0).queue 0).credits = 1 && ((t.cell 1 0).queue 0).hw = [] && ((t.router 1 0).lane 16).map (·.data) = [9, 7]) = true := by
  decide +kernel
theorem test_staticFlitHop : onNext (exec (.staticFlitHop 1 0 16 .clean) streamAt) (fun t =>
    (t.router 1 0).lane 16 = [] && (t.router 2 0).lane 12 = [{ data := 8, bad := false, ready := 0 }, { data := 9, bad := false, ready := 6 }]) = true := by decide +kernel
theorem test_streamItemArrive : onNext (exec (.streamItemArrive 2 0 12 .clean) streamAt) (fun t =>
    ((t.cell 2 0).queue 1).hw.map (·.data) = [8] && (t.router 2 0).lane 12 = []) = true := by decide +kernel
theorem test_creditReturn : onNext (exec (.creditReturn 1 0 0) streamAt) (fun t =>
    ((t.cell 1 0).queue 0).credits = 3 && ((t.cell 2 0).queue 1).owed = []) = true ∧
    onNext (exec (.creditReturn 1 0 0) { streamAt with cycle := 1 }) (fun t => ((t.cell 1 0).queue 0).credits = 2) = true := by decide +kernel
/-- Two items of the ring move when two places are free (R34). -/
theorem test_qextGranuleMove : onNext (exec (.qextGranuleMove 1 0 0) (upCell 1 0 (active slotReset
    [(0, { holding (copies 14 1) with ring := (holding [2, 3, 4]).hw })]))) (fun t =>
    ((t.cell 1 0).queue 0).hw.length = 16 && ((t.cell 1 0).queue 0).ring.map (·.data) = [4]) = true := by decide +kernel

/-- Input lanes 0 and 4 of router (1, 1) join at output lane 8 (S, lane 0): 1.0 waits at 0, 2.0 at 4. -/
def joinAt (joins : Tbl Join) : State :=
  { up with
    cycle := 9,
    routers := [(siteIx 1 1, { Router.reset with
      laneMap := [(0, 0xD0000000#32), (4, 0xD0000000#32)], joins := joins,
      lanes := [(0, [{ data := all8 0x3F800000, bad := false, ready := 0 }]), (4, [{ data := all8 0x40000000, bad := false, ready := 1 }])] })] }
def halfJoin : Join := { got := [0], sum := all8 0x3F800000, bad := false, outs := [] }
def sumJoin (due : Nat) : Join :=
  { got := [], sum := all8 0x40400000, bad := false, outs := [{ sum := all8 0x40400000, bad := false, due := due }] }
def fullJoin : Join := sumJoin 9
/-- The join at output lane 16 (L, lane 0) of (1, 1), whose queue 1 is inbound. -/
def joinHome : State :=
  { joinAt [(16, fullJoin)] with cells := [(siteIx 1 1, { active slotReset [] with qcfg := [(1, 0x40000000#32)] })] }

theorem witness_joins :
    (let r := (joinAt []).router 1 1
     lmOut (r.lmap 0) = 8 ∧ (r.laneHead 0 9).isSome = true ∧ lmValid (r.lmap 0) = true ∧ lmJoin (r.lmap 0) = true ∧
       bitB r.laneFault 8 = false ∧ joinTurn r 8 0 9 { data := all8 0x3F800000, bad := false, ready := 0 } = true ∧ tget r.joins 8 = none) ∧
    (let r := (joinAt [(8, halfJoin)]).router 1 1
     joinTurn r 8 4 9 { data := all8 0x40000000, bad := false, ready := 1 } = true ∧ r.joined 8 = [0] ∧ halfJoin.outs = [] ∧
       tget r.joins 8 = some halfJoin ∧ (r.laneHead 4 9).isSome = true) ∧
    (joinAt [(8, fullJoin)]).laneGo 1 1 8 = true ∧ beyond 1 1 2 = some (1, 2) ∧ (fullJoin.head 9).isSome = true ∧
    joinHome.laneGo 1 1 16 = true ∧ inQueue (joinHome.cell 1 1) 0 = some 1 := by decide +kernel

theorem test_joinItemArrive : onNext (exec (.joinItemArrive 1 1 4 false .clean) (joinAt [(8, halfJoin)])) (fun t =>
      tget (t.router 1 1).joins 8 = some (sumJoin 11) && (t.router 1 1).lane 4 = []) = true ∧
    onNext (exec (.joinItemArrive 1 1 4 true .clean) (joinAt [(8, halfJoin)])) (fun t =>
      bitB (t.router 1 1).laneFault 8 && (t.router 1 1).inject.length = 1 && tget (t.router 1 1).joins 8 = none) = true := by decide +kernel
theorem test_joinOutput : onNext (exec (.joinOutput 1 1 8) (joinAt [(8, fullJoin)])) (fun t =>
      (t.router 1 2).lane 0 = [{ data := all8 0x40400000, bad := false, ready := 10 }]) = true ∧
    onNext (exec (.joinOutput 1 1 16) joinHome) (fun t => ((t.cell 1 1).queue 1).hw.map (·.data) = [all8 0x40400000]) = true := by decide +kernel

/-! ### Packets -/

/-- A read of one granule of the storage of M-cell (1, 1) by cell (2, 1), addressed and resolved. -/
def reader : Packet := { pktOf 0 2 1 portL with dest := cellAddr 0 1 1 0, dstX := 1, dstY := 1, dstPort := portL, op := opRd, tag := 5 }

/-- A state of field 0 with one router. -/
def upRouter (x y : Nat) (r : Router) : State := { up with routers := [(siteIx x y, r)], cycle := 9 }

/-- The partition register of field 0 lets partition 0 in. -/
def inPart : Field := { fieldUp with frsPart := 0x80000000#32 }

def injectAt (p : Packet) : State := { upRouter 2 1 { Router.reset with inject := [p] } with fields := [(0, inPart)] }
/-- The same read of a cell of field 1, which no rectangle of the partition holds. -/
def stranger : Packet := { reader with dest := cellAddr 0 50 1 0 }

theorem witness_inject :
    (takeFirst (fun (p : Packet) => p.srcPort = portL) ((injectAt reader).router 2 1).inject).isSome = true ∧ reader.mc = false ∧
    ((injectAt reader).routerUp 2 1 && ((injectAt reader).router 2 1).vcRoom portL reader &&
      ((injectAt reader).router 2 1).linkFree 5 9) = true ∧ ((injectAt reader).router 2 1).tailOf 5 = 0 ∧
    destOf (injectAt stranger) 2 1 portL stranger = .refused ∧ stranger.isReq = true ∧ stranger.srcMod = (injectAt stranger).myMod := by
  decide +kernel

theorem test_packetInject : onNext (exec (.packetInject 2 1 portL .clean) (injectAt stranger)) (fun t =>
    (t.router 2 1).arrived.map (fun v => (v.1, v.2.status, v.2.reason)) = [(portL, fabFencedTarget, 3)]) = true := by decide +kernel

/-- A packet in the buffer of router (2, 1) that must go west, and one that has reached (1, 1). -/
def hopAt : State := upRouter 2 1 { Router.reset with bufs := [(upRouter 2 1 Router.reset).flight 2 1 portL reader 0] }
def ejectAt (p : Packet) (fence : Nat) : State :=
  upRouter 1 1 { Router.reset with bufs := [(upRouter 1 1 Router.reset).flight 1 1 portE p 0], fence := word fence }

theorem witness_hop :
    ((hopAt.router 2 1).vcHead portL 0 9).isSome = true ∧ wayOf hopAt 2 1 (hopAt.lookups 2 1 reader) reader = .send portW reader false ∧
    beyond 2 1 portW = some (1, 1) ∧ hopAt.dynGo 2 1 portW (8 * portL) = true ∧ hopAt.routerUp 1 1 = true ∧
    (hopAt.router 1 1).vcRoom (opposite portW) reader = true := by decide +kernel

/-- Two cycles to the next router inside a field (R141). -/
theorem test_packetHop : onNext (exec (.packetHop 2 1 portL 0 .clean) hopAt) (fun t =>
      (t.router 2 1).bufs = [] && (t.router 1 1).bufs.map (fun f => (f.pkt, f.port, f.ready)) = [(reader, portE, 11)]) = true ∧
    onNext (exec (.packetHop 2 1 portL 0 .headerBad) hopAt) (fun t =>
      (t.router 1 1).bufs = [] && tgetD (t.router 1 1).cnt 5 0 = 1 && (t.router 1 1).inject.length = 1) = true := by decide +kernel

theorem witness_eject :
    (let s := ejectAt reader 0
     ((s.router 1 1).vcHead portE 0 9).isSome = true ∧ wayOf s 1 1 (s.lookups 1 1 reader) reader = .eject reader ∧ 0 + 2 + 0 ≤ s.cycle ∧
       opKnown reader.op = true ∧ reader.dstPort ≠ portV ∧
       fenceOf { (s.router 1 1) with fence := s.fenceWord 1 1 } 1 1 reader = none ∧ staleRsp (s.cell 1 1) reader = false ∧
       s.ejectGo 1 1 reader.dstPort (8 * portE) = true) ∧
    (let s := ejectAt reader 1
     fenceOf { (s.router 1 1) with fence := s.fenceWord 1 1 } 1 1 reader = some (fabFencedTarget, 0) ∧ reader.isReq = true) ∧
    wayOf (ejectAt { reader with damaged := true } 0) 1 1 ((ejectAt { reader with damaged := true } 0).lookups 1 1 reader) { reader with damaged := true } = .eject { reader with damaged := true } := by
  decide +kernel

theorem test_packetEject : onNext (exec (.packetEject 1 1 portE 0 .clean) (ejectAt reader 0)) (fun t =>
      (t.router 1 1).arrived = [(portL, reader)]) = true ∧
    onNext (exec (.packetEject 1 1 portE 0 .clean) (ejectAt { reader with damaged := true } 0)) (fun t =>
      (t.router 1 1).arrived = [] && tgetD (t.router 1 1).cnt 3 0 = 1) = true ∧
    onNext (exec (.packetEject 1 1 portE 0 .clean) (ejectAt reader 1)) (fun t =>
      (t.router 1 1).inject.map (fun p => (p.op, p.status)) = [(opFault, fabFencedTarget)]) = true := by decide +kernel

/-- Tree 3 at router (1, 1) holds a packet with its east branch open; the east port is up or down. -/
def mcHeldAt (port : Nat) : McHeld :=
  { tree := 3, pkt := { reader with mc := true, op := opMwr }, from_ := portW, since := 0, open_ := [port], await := [], drops := 0 }
def treeAt (port : Nat) (down : BitVec 5) (fence cycle : Nat) : State :=
  { upRouter 1 1 { Router.reset with held := [mcHeldAt port], linkDown := down, fence := word fence } with cycle := cycle }

theorem witness_multicast : ((treeAt portE 2 0 9).router 1 1).mcOpen 3 portE = some (mcHeldAt portE) ∧
    ((treeAt portE 2 0 9).router 1 1).down portE = true ∧ ((treeAt portL 0 1 9).router 1 1).body = true ∧
    ((treeAt portE 0 0 9).router 1 1).down portE = false ∧ beyond 1 1 portE = some (2, 1) ∧ (treeAt portE 0 0 9).dynGo 1 1 portE (8 * portW + (mcHeldAt portE).pkt.vc) = true ∧
    (treeAt portE 0 0 9).routerUp 2 1 = true ∧ ((treeAt portE 0 0 9).router 2 1).vcRoom (opposite portE) (mcHeldAt portE).pkt = true ∧
    (treeAt portE 0 0 9).cycle < 0 + holdOf Router.reset.mcHold ∧ 0 + holdOf Router.reset.mcHold ≤ (treeAt portE 0 0 4096).cycle := by
  decide +kernel

theorem test_multicastForward : onNext (exec (.multicastForward 1 1 3 portE .clean) (treeAt portE 0 0 9)) (fun t =>
      (t.router 1 1).held.map (fun h => (h.open_, h.await)) = [([], [portE])]) = true ∧
    onNext (exec (.multicastForward 1 1 3 portE .clean) (treeAt portE 2 0 9)) (fun t =>
      ((t.router 1 1).inject.take 1).map (·.op) = [opMcMiss] && tgetD (t.router 1 1).cnt 6 0 = 1) = true := by decide +kernel
/-- The hold limit at reset is 4,096 cycles (R158). -/
theorem test_mcHoldExpiry : onNext (exec (.mcHoldExpiry 1 1 3 portE) (treeAt portE 0 0 4096)) (fun t =>
      ((t.router 1 1).inject.take 1).map (·.op) = [opMcMiss]) = true ∧
    onNext (exec (.mcHoldExpiry 1 1 3 portE) (treeAt portE 0 0 4095)) (fun t => (t.router 1 1).inject = []) = true := by decide +kernel

/-- Router (47, 1) at the edge of field 0: the field beyond its east link has no rails. -/
theorem witness_router_commands : beyond 47 1 portE = some (48, 1) ∧ up.routerUp 47 1 = true ∧ up.routerUp 48 1 = false ∧
    lmOut 0x88000000#32 = 4 := by decide +kernel
theorem test_linkAliveLoss : onNext (exec (.linkAliveLoss 47 1 portE) up) (fun t => (t.router 47 1).down portE) = true := by decide +kernel
theorem test_flushStatic : onNext (exec (.flushStatic 1 1) (joinAt [])) (fun t => (t.router 1 1).lanes = []) = true := by decide +kernel
theorem test_rtrClrCnt : onNext (exec (.rtrClrCnt 1 1) (upRouter 1 1 { Router.reset with cnt := [(0, 3)] })) (fun t =>
    (t.router 1 1).cnt = []) = true := by decide +kernel
/-- A write of a lane-map entry clears the fault of its output lane, and bits below 25 read 0 (R148, R158). -/
theorem test_laneMapWrite : onNext (exec (.laneMapWrite 1 1 0 0x88000001#32) (upRouter 1 1 { Router.reset with laneFault := 16 }))
    (fun t => (t.router 1 1).lmap 0 = 0x88000000#32 && (t.router 1 1).laneFault = 0) = true := by decide +kernel

/-! ### Requests and responses -/

/-- A packet that has arrived at a port of (x, y), over a cell and with field 0's tower trained. -/
def arrivedAt (x y port : Nat) (p : Packet) (c : Cell) : State :=
  { upCell x y c with routers := [(siteIx x y, { Router.reset with arrived := [(port, p)] })], cycle := 600 }
/-- The oldest request or response at the port is this one. -/
def requestB (s : State) (x y port op : Nat) (p : Packet) : Bool :=
  (match headReq (s.router x y) port with
   | some (q, r) => decide (q = p) && decide (Request s x y port op p r)
   | none => false)
def responseB (s : State) (x y port op : Nat) (p : Packet) : Bool :=
  (match headRsp (s.router x y) port with
   | some (q, r) => decide (q = p) && decide (Response s x y port op p r)
   | none => false)

def storeCell : Cell := memCell (slotOf 0 0 0 15 15 15 0 0 0 0 0) []
/-- A read of tower offset 0 through P-site (0, 0), and a write there from a cell and from a bridge landing. -/
def towerRead : Packet := { reader with dest := towerAddr 0 0 0, dstX := 0, dstY := 0, dstPort := portV }
def towerWrite : Packet := { towerRead with op := opWr, arg := 1, payload := [7, 0] }
def bridgeWrite : Packet := { towerWrite with srcX := 240, srcY := 0, srcPort := portN }
def cellWrite : Packet := { reader with op := opWr, arg := 1, payload := [7, 0] }
def badStore : Cell := { storeCell with data := { storeCell.data with bad := [0] } }

theorem witness_reads :
    (requestB (arrivedAt 1 1 portL reader storeCell) 1 1 portL opRd reader && requestB (arrivedAt 1 1 portL reader badStore) 1 1 portL opRd reader &&
     requestB (arrivedAt 0 0 portV towerRead Cell.reset) 0 0 portV opRd towerRead) = true ∧
    storeCell.data.badWord (span 0 64) = none ∧ badStore.data.badWord (span 0 64) = some 0 ∧ towerUp fieldUp = true ∧
    fieldUp.tower.badWord (chanWords 0 0 64) = none := by decide +kernel

theorem test_rd : onNext (exec (.rd 1 1 portL) (arrivedAt 1 1 portL reader storeCell)) (fun t =>
      (t.router 1 1).inject.map (fun p => (p.op, p.tag, p.dstX, p.payload)) =
        [(opRdata, 5, 2, [7, BitVec.ofNat 256 (9 * 2 ^ 64)])]) = true ∧
    onNext (exec (.rd 1 1 portL) (arrivedAt 1 1 portL reader badStore)) (fun t =>
      (t.router 1 1).inject.map (fun p => (p.op, p.status)) = [(opFault, memUncorrectable)]) = true := by decide +kernel

theorem witness_writes :
    (requestB (arrivedAt 1 1 portL cellWrite storeCell) 1 1 portL opWr cellWrite &&
     requestB (arrivedAt 0 0 portV towerWrite Cell.reset) 0 0 portV opWr towerWrite &&
     requestB (arrivedAt 0 0 portV bridgeWrite Cell.reset) 0 0 portV opWr bridgeWrite) = true ∧
    partialBad storeCell.data (writeCells cellWrite 0) = none ∧ partialBad badStore.data (writeCells cellWrite 0) = some 0 ∧
    fromBridge towerWrite = false ∧ fromBridge bridgeWrite = true ∧
    (granules ((writeCells towerWrite 0).map (·.1))).length ≤ 16 ∧ partialBad fieldUp.tower (chanCells 0 (writeCells towerWrite 0)) = none := by
  decide +kernel

/-- Byte enables 1: byte 0 alone is written (R137). -/
theorem test_wr : onNext (exec (.wr 1 1 portL) (arrivedAt 1 1 portL { cellWrite with payload := [3, 0] } storeCell)) (fun t =>
      (t.cell 1 1).data.cells = [(0, 3), (40, 9)] && (t.router 1 1).inject.map (·.op) = [opWrack]) = true ∧
    onNext (exec (.wr 0 0 portV) (arrivedAt 0 0 portV towerWrite Cell.reset)) (fun t =>
      (t.cell 0 0).pc.pwb.map (·.granule) = [0] && (t.field 0).tower.cells = []) = true := by decide +kernel

/-! ### Management packets, responses, timeouts -/

/-- A register write to cell (1, 1), SLOT_EN_SHADOW's neighbour left out: offset 0x400 is slot 0, word 0. -/
def mgmtPkt (op off : Nat) (port : Nat) : Packet :=
  { reader with dest := mgmtAddr 0 1 1 0 off, dstPort := port, cls := clsMgmt, op := op, arg := if op = opMwr then 15 else 0,
                payload := if op = opMwr then [0x12345678] else [] }
def reportAtHelm : Packet := { mgmtPkt opMwr 0 portN with dstX := 212, dstY := 0 }

theorem witness_management :
    (requestB (arrivedAt 212 0 portN reportAtHelm Cell.reset) 212 0 portN opMwr reportAtHelm &&
     requestB (arrivedAt 1 1 portR (mgmtPkt opMwr 0x8000 portR) Cell.reset) 1 1 portR opMwr (mgmtPkt opMwr 0x8000 portR) &&
     requestB (arrivedAt 1 1 portL (mgmtPkt opMwr 0x400 portL) Cell.reset) 1 1 portL opMwr (mgmtPkt opMwr 0x400 portL) &&
     requestB (arrivedAt 1 1 portL (mgmtPkt opMrd 0x400 portL) Cell.reset) 1 1 portL opMrd (mgmtPkt opMrd 0x400 portL)) = true ∧
    helmLanding 212 0 = true ∧ unitOf (mgmtPkt opMwr 0x400 portL).dest = .site 1 1 ∧ Cell.reset.storeBad = [] ∧
    ((List.range 32).all (fun j => (mgmtPkt opMwr 0x400 portL).arg.getLsbD j = decide (j < 4))) = true := by decide +kernel

theorem test_mwr : onNext (exec (.mwr 212 0 portN) (arrivedAt 212 0 portN reportAtHelm Cell.reset)) (fun t =>
      t.helm.reports.map (·.2) = [reportAtHelm]) = true ∧
    onNext (exec (.mwr 1 1 portL) (arrivedAt 1 1 portL (mgmtPkt opMwr 0x400 portL) Cell.reset)) (fun t =>
      fld ((t.cell 1 1).slot 0) 31 0 = 0x12345000 && (t.router 1 1).inject.map (·.op) = [opWrack]) = true := by decide +kernel
/-- The empty slot reads 0x0000FFF0 in its word of SRC0, SRC1 and CTL (R38). -/
theorem test_mrd : onNext (exec (.mrd 1 1 portL) (arrivedAt 1 1 portL (mgmtPkt opMrd 0x400 portL) Cell.reset)) (fun t =>
    (t.router 1 1).inject.map (fun p => (p.op, p.payload.map (fun v => fld v 127 96))) = [(opRdata, [0x0000FFF0])]) = true := by decide +kernel

/-- Responses to a request with tag 5 of cell (1, 1). -/
def rsp (op : Nat) (payload : List Item) : Packet :=
  { pktOf 0 2 1 portL with dstX := 1, dstY := 1, dstPort := portL, cls := clsRsp, op := op, tag := 5, payload := payload,
                           status := if op = opFault then memUncorrectable else 0 }
def reqOfKind (k : ReqKind) (age : Nat) (resend : Option Nat) : Req :=
  { tag := 5, slot := 0, opId := 0, kind := k, dest := 0x40, age := age, resend := resend }
def asking (k : ReqKind) (age : Nat) (resend : Option Nat) (c : Cell) : Cell := { c with reqs := [reqOfKind k age resend] }
def dmaCell : Cell := { storeCell with dmas := [{ oneDma with writes := 1 }], ops := [oneOp] }
def waitItem (pending : Nat) : Item := BitVec.ofNat 256 (pending * 2 ^ 88 + 9)

theorem witness_responses :
    (let a := fun (op : Nat) (pl : List Item) (k : ReqKind) (c : Cell) => responseB (arrivedAt 1 1 portL (rsp op pl) (asking k 0 none c)) 1 1 portL op (rsp op pl)
     (a opRdata [7, 8] (.fetch 0 64 none 0) storeCell && a opWrack [] .dmaWrite dmaCell && a opFault [] .dmaRead dmaCell &&
      a opSyncrsp [waitItem 1] (.sync true 4) dmaCell && a opSyncrsp [waitItem 0] (.sync true 4) dmaCell) = true) ∧
    (asking .dmaWrite 0 none dmaCell).reqOf (rsp opWrack []) = some (reqOfKind .dmaWrite 0 none) ∧ itemByte (waitItem 1) 11 ≠ 0 ∧
    itemByte (waitItem 0) 11 = 0 ∧ clsOf 1 1 ≠ .p ∧ (dmaCell.ops.find? (fun o => o.id = 0)).isSome = true ∧
    oneOp.outs.any (fun v => (dmaCell.queue v.1).lastPut = some dmaCell.pulse) = false := by decide +kernel

/-- The ring of 64 bytes goes round: byte 0 of the data lands at 32, byte 32 at 0 (R115). -/
theorem test_rdata : onNext (exec (.rdata 1 1 portL) (arrivedAt 1 1 portL (rsp opRdata [7, 8])
    (asking (.fetch 32 64 none 0) 0 none storeCell))) (fun t =>
      (t.cell 1 1).data.cells = [(0, 8), (32, 7)] && (t.cell 1 1).reqs = []) = true := by decide +kernel
theorem test_wrack : onNext (exec (.wrack 1 1 portL) (arrivedAt 1 1 portL (rsp opWrack []) (asking .dmaWrite 0 none dmaCell))) (fun t =>
    (t.cell 1 1).dmas.map (·.writes) = [0]) = true := by decide +kernel
theorem test_fault : onNext (exec (.fault 1 1 portL) (arrivedAt 1 1 portL (rsp opFault []) (asking .dmaRead 0 none dmaCell))) (fun t =>
    decide ((t.cell 1 1).state = .frozen) && (t.cell 1 1).faultCode = memUncorrectable) = true := by decide +kernel
theorem test_syncrsp : onNext (exec (.syncrsp 1 1 portL) (arrivedAt 1 1 portL (rsp opSyncrsp [waitItem 0])
      (asking (.sync true 4) 0 none dmaCell))) (fun t => ((t.cell 1 1).queue 1).hw.map (·.data) = [9]) = true ∧
    onNext (exec (.syncrsp 1 1 portL) (arrivedAt 1 1 portL (rsp opSyncrsp [waitItem 1]) (asking (.sync true 4) 0 none dmaCell)))
      (fun t => (t.cell 1 1).reqs.map (·.resend) = [some 600]) = true := by decide +kernel

/-- MC_MISS for tree 3 from the south port of (2, 1); MC_DONE without drops, at the helm's landing and at a parent router. -/
def missPkt : Packet := { rsp opMcMiss [] with arg := dword (3 * 256 + 2) }
def donePkt : Packet := { rsp opMcDone [] with tag := 3 }
def parentAt : State :=
  { up with routers := [(siteIx 1 1, { Router.reset with
      arrived := [(portR, { donePkt with arg := 2 })],
      held := [{ mcHeldAt portS with await := [portE], pkt := { reader with mc := true, tag := 3 } }] })] }

/-- A packet on tree 3 that the helm has sent, `missed` reported of it, and a report of that tree at the helm's landing. -/
def treeSent (p : Packet) (missed : List (Nat × Nat × Nat)) : State :=
  let s := arrivedAt 212 0 portN p Cell.reset
  { s with helm := { s.helm with mcast := [(3, { pkt := donePkt, done := none, missed := missed, result := none, gone := [] })] } }

theorem witness_multicast_reports :
    (responseB (arrivedAt 212 0 portN missPkt Cell.reset) 212 0 portN opMcMiss missPkt &&
     responseB (arrivedAt 212 0 portN donePkt Cell.reset) 212 0 portN opMcDone donePkt &&
     responseB parentAt 1 1 portR opMcDone { donePkt with arg := 2 }) = true ∧
    (responseB (treeSent missPkt []) 212 0 portN opMcMiss missPkt && responseB (treeSent donePkt []) 212 0 portN opMcDone donePkt) = true ∧
    ((tget (treeSent missPkt []).helm.mcast 3).map (fun v => (v.done, v.missed.length))) = some (none, 0) ∧ tget up.helm.mcast 3 = none ∧
    tgetD up.helm.mcWait 3 [] = [] ∧ portN ≠ portR ∧ fld donePkt.arg 31 0 = 0 ∧ beyond 1 1 portE = some (2, 1) := by decide +kernel

theorem test_mcMiss : onNext (exec (.mcMiss 212 0 portN) (treeSent missPkt [])) (fun t =>
    (tget t.helm.mcast 3).map (·.missed) = some [(2, 1, 2)]) = true := by decide +kernel
theorem test_mcDone : onNext (exec (.mcDone 212 0 portN) (treeSent donePkt [])) (fun t =>
      (tget t.helm.mcast 3).map (·.result) = some (some codeOk)) = true ∧
    onNext (exec (.mcDone 1 1 portR) parentAt) (fun t => (t.router 1 1).held.map (fun h => (h.drops, h.await)) = [(2, [])]) = true := by
  decide +kernel

/-- The transfer timeout at reset is 50 us of 1,900 cycles (R243, R261). -/
theorem witness_timeouts : timeoutOf fieldUp.xferTimeout = 95000 ∧
    (asking .dmaRead 95000 none dmaCell).reqs.find? (fun r => r.tag = 5) = some (reqOfKind .dmaRead 95000 none) ∧
    (reqOfKind .dmaRead 95000 none).timed = true ∧ (reqOfKind .dmaRead 94999 none).age < 95000 ∧
    (reqOfKind (.sync true 4) 0 (some 88)).resend = some 88 ∧ (88 : Nat) + 512 ≤ 600 ∧ (600 : Nat) < 89 + 512 := by decide +kernel
theorem test_transferTimeout :
    onNext (exec (.transferTimeout 1 1 5) (arrivedAt 1 1 portL reader (asking .dmaRead 95000 none dmaCell))) (fun t =>
      (t.cell 1 1).faultCode = codeTransferTimeout && decide ((t.cell 1 1).state = .frozen)) = true ∧
    onNext (exec (.transferTimeout 1 1 5) (arrivedAt 1 1 portL reader (asking .dmaRead 94999 none dmaCell))) (fun t =>
      decide ((t.cell 1 1).state = .active)) = true := by decide +kernel
theorem test_waitResend :
    onNext (exec (.waitResend 1 1 5) (arrivedAt 1 1 portL reader (asking (.sync true 4) 0 (some 88) dmaCell))) (fun t =>
      (t.router 1 1).inject.map (fun p => (p.op, p.tag, p.arg.toNat)) = [(opWaitGe, 5, 4)]) = true ∧
    onNext (exec (.waitResend 1 1 5) (arrivedAt 1 1 portL reader (asking (.sync true 4) 0 (some 89) dmaCell))) (fun t =>
      (t.router 1 1).inject = []) = true := by decide +kernel

/-! ### Sync words -/

/-- A SYNC request on word 0 of (1, 1). -/
def swPkt (op arg : Nat) : Packet := { reader with cls := clsSync, op := op, arg := dword arg, dest := syncAddr 0 0 }
def waiter (operand : Nat) : Waiter := { index := 0, mod := 0, x := 2, y := 1, port := portL, tag := 9, operand := word operand }
def swCell (w : Dword) (l : List Waiter) : Cell := { Cell.reset with w0 := { SyncWord.reset with word := w, waiters := l } }
def swAt (op arg : Nat) (w : Dword) (l : List Waiter) : State := arrivedAt 1 1 portL (swPkt op arg) (swCell w l)

theorem witness_sync_words :
    (requestB (swAt 0x08 3 5 []) 1 1 portL 0x08 (swPkt 0x08 3) && requestB (swAt 0x09 3 5 []) 1 1 portL 0x09 (swPkt 0x09 3) &&
     requestB (swAt 0x0A 3 5 []) 1 1 portL 0x0A (swPkt 0x0A 3) && requestB (swAt 0x0A 0x80000000 5 []) 1 1 portL 0x0A (swPkt 0x0A 0x80000000) &&
     requestB (swAt 0x0B 0 5 []) 1 1 portL 0x0B (swPkt 0x0B 0) && requestB (swAt 0x0C 7 5 []) 1 1 portL 0x0C (swPkt 0x0C 7)) = true ∧
    swSub 2 3 = .bad syncUnderflow ∧ swAdd 5 3 = .done 8 ∧ bitB (swPkt 0x0A 3).arg 31 = false ∧ bitB (swPkt 0x0A 0x80000000).arg 31 = true ∧
    swKind 5 ≠ 3 ∧ swHolds 5 5 = true ∧ swHolds 5 7 = false ∧ (copies 32 (waiter 7)).length = 32 := by decide +kernel

/-- 5 + 3 = 8 satisfies the waiter for 8 and not the one for 9 (R207). -/
theorem test_syncAdd : onNext (exec (.syncAdd 1 1) (swAt 0x08 3 5 [waiter 9, waiter 8])) (fun t =>
    (t.cell 1 1).w0.word = 8 && (t.cell 1 1).w0.waiters = [waiter 9] && (t.router 1 1).inject.map (·.tag) = [5, 9]) = true := by decide +kernel
/-- 2 - 3 underflows: the word stays, FAULT and a report (R202, R204). -/
theorem test_syncSub : onNext (exec (.syncSub 1 1) (swAt 0x09 3 2 [])) (fun t =>
    (t.cell 1 1).w0.word = 2 && (t.router 1 1).inject.map (fun p => (p.op, p.status)) = [(opFault, syncUnderflow), (opMwr, 0)]) = true := by
  decide +kernel
theorem test_syncSet : onNext (exec (.syncSet 1 1) (swAt 0x0A 3 5 [])) (fun t => (t.cell 1 1).w0.word = 3) = true := by decide +kernel
/-- KIND 1, TARGET 2 (R202). -/
theorem test_syncSetConfigure : onNext (exec (.syncSetConfigure 1 1) (swAt 0x0A 0x90000002 5 [])) (fun t =>
    swKind (t.cell 1 1).w0.word = 1 && swTarget (t.cell 1 1).w0.word = 2 && swValue (t.cell 1 1).w0.word = 0) = true := by decide +kernel
/-- The second arrival of two advances the generation (R203). -/
theorem test_arrive : onNext (exec (.arrive 1 1) (swAt 0x0B 0 (swMake 1 0 2 4096) [])) (fun t =>
    swGen (t.cell 1 1).w0.word = 1 && swArrived (t.cell 1 1).w0.word = 0) = true := by decide +kernel
theorem test_waitGe : onNext (exec (.waitGe 1 1) (swAt 0x0C 7 5 [])) (fun t => (t.cell 1 1).w0.waiters.length = 1) = true ∧
    onNext (exec (.waitGe 1 1) (swAt 0x0C 7 5 (copies 32 (waiter 7)))) (fun t =>
      (t.router 1 1).inject.map (fun p => itemByte (lgetD p.payload 0 0) 11) = [1]) = true := by decide +kernel

theorem witness_sync_registers : clsOf 1 1 = .m ∧ (swAt 0x0C 7 5 []).bodyOut 1 1 = false := by decide +kernel
theorem test_clr : onNext (exec (.clr0 1 1) (swAt 0x0C 7 5 [waiter 9])) (fun t =>
      (t.cell 1 1).w0.word = 0 && (t.router 1 1).inject.map (·.tag) = [9]) = true ∧
    onNext (exec (.clr1 1 1) (swAt 0x0C 7 5 [waiter 9])) (fun t => (t.cell 1 1).w0.word = 5) = true := by decide +kernel
theorem test_swClrCnt : onNext (exec (.swClrCnt 1 1) (upCell 1 1 { Cell.reset with syncCnt := [(0, 3)] })) (fun t =>
    (t.cell 1 1).syncCnt = []) = true := by decide +kernel
theorem test_swWordHiWrite : onNext (exec (.swWordHiWrite 1 1 0 1#32) (swAt 0x0C 7 5 [])) (fun t =>
    (t.cell 1 1).w0.word = 0x0000000100000000#64) = true := by decide +kernel
theorem test_swWordLoRead : onNext (exec (.swWordLoRead 1 1 0) (swAt 0x0C 7 0x0000000300000005#64 [])) (fun t =>
    (t.cell 1 1).w0.capHi = some 3) = true := by decide +kernel

/-! ### Channels, upkeep, the host's data -/

def entry (op : Option Nat) : Pwb :=
  { chan := 0, granule := 1, enables := 3, data := 7 :: 8 :: copies 62 1, waiting := none, opId := op, bad := [] }
def pwbAt (op : Option Nat) : State := upCell 0 0 { Cell.reset with pc := { PChan.reset with pwb := [entry op] }, ops := [oneOp] }
theorem witness_pwb : towerUp ((pwbAt none).field 0) = true ∧
    partialBad ((pwbAt none).field 0).tower (chanCells 0 (cellsUnder 64 (fun k => (3#64).getLsbD k) (entry none).data)) = none := by decide +kernel
/-- Enabled bytes 64 and 65 of channel 0 enter the tower; the op that waited is free to finish (R173, R180). -/
theorem test_pwbDrain : onNext (exec (.pwbDrain 0 0) (pwbAt (some 0))) (fun t =>
    (t.field 0).tower.cells = [(64, 7), (65, 8)] && (t.cell 0 0).pc.pwb = [] && (t.cell 0 0).ops.map (·.waiting) = [false]) = true := by
  decide +kernel

def fetching (dead : Bool) : State :=
  let s := chanAt 1 [] 0 0
  s.setCell 0 0 { (s.cell 0 0) with pc := { (s.cell 0 0).pc with fetches := [{ stream := 0, addr := 0, dead := dead, taken := none }] } }
theorem witness_streams_of_lines : clsOf 0 0 = .p ∧ strmValid (((chanAt 1 [] 0 0).cell 0 0).strm 0) = true ∧
    (heldLines ((chanAt 1 [] 0 0).cell 0 0) 0).length < allotted ((chanAt 1 [] 0 0).cell 0 0) 0 ∧
    nextLine ((chanAt 1 [] 0 0).cell 0 0) 0 = some 0 ∧ ((fetching true).cell 0 0).pc.fetches.length = 1 ∧
    ((fetching false).field 0).tower.bad = [] ∧ ((fetching false).cell 0 0).pc.waits = [] ∧ clsOf 3 3 = .g := by decide +kernel
theorem test_streamLineFetch : onNext (exec (.streamLineFetch 0 0 0) (chanAt 1 [] 0 0)) (fun t =>
    (t.cell 0 0).pc.fetches = [{ stream := 0, addr := 0, dead := false, taken := none }]) = true := by decide +kernel
theorem test_streamLineArrive : onNext (exec (.streamLineArrive 0 0 0) (fetching false)) (fun t =>
      (t.cell 0 0).pc.lines.map (fun l => (l.addr, l.data.length)) = [(0, 256)]) = true ∧
    onNext (exec (.streamLineArrive 0 0 0) (fetching true)) (fun t => (t.cell 0 0).pc.lines = []) = true := by decide +kernel
theorem test_invAll : onNext (exec (.invAll 0 0) (chanAt 1 [lineZero] 0 0)) (fun t =>
    (t.cell 0 0).pc.lines = [] && tgetD (t.cell 0 0).pc.cnt 3 0 = 1) = true := by decide +kernel
theorem test_channel_counters :
    onNext (exec (.pcClrCnt 0 0) (upCell 0 0 { Cell.reset with pc := { PChan.reset with cnt := [(0, 3)] } })) (fun t => (t.cell 0 0).pc.cnt = []) = true ∧
    onNext (exec (.gcClrCnt 3 3) (upCell 3 3 { Cell.reset with gc := { GEng.reset with cnt := [(0x44, 3)] } })) (fun t => (t.cell 3 3).gc.cnt = []) = true := by
  decide +kernel

/-! ### Upkeep and the host's data -/

theorem witness_scrub : up.scrubbing 0 = true ∧ 8 * 3 < storeSize (clsOf 1 0) ∧ up.bodyOut 1 0 = false ∧ towerUp (up.field 0) = true ∧
    (up.field 0).trained = true ∧ (up.field 0).sr = false := by decide +kernel
theorem test_sramScrub : onNext (exec (.sramScrub 1 0 (.data 3) .uncorrectable) (upCell 1 0 storeCell)) (fun t =>
      (t.cell 1 0).data.bad = [3] && (t.cell 1 0).data.cells = [(0, 7), (40, 9)]) = true ∧
    onNext (exec (.sramScrub 1 0 (.data 3) .corrected) (upCell 1 0 storeCell)) (fun t => (t.cell 1 0).eccFixed = 1) = true := by decide +kernel
/-- Channel 1's granule 0 lies at tower offset 4096 (R163). -/
theorem test_dramScrub : onNext (exec (.dramScrub 0 1 .uncorrectable) up) (fun t =>
    (t.field 0).tower.bad = [512] && tgetD (t.field 0).scrubAt 1 0 = 1) = true := by decide +kernel
theorem test_dramRefresh : onNext (exec (.dramRefresh 0 1 2) { up with cycle := 77 }) (fun t =>
    (t.field 0).refreshed = [(129, 77)] && (t.field 0).tower.cells = []) = true := by decide +kernel

/-- Every field runs; partition 0 is field 0 alone; bridge 0 has one host window, [0, 1 MiB), and all its blocks on. -/
def bridgeUp : Bridge :=
  { Bridge.reset with
    hostUp := true, linkUp := true, up := [0, 1, 2, 3], width := 16, rate := 64, hdmCommitted := true, version := some 1, cringCfg := 0x80000009#32,
    hwin := [(0, 1#32), (2, 0x000FF000#32)] }
def partUp : Partition := { Partition.reset with rect := 0x80000000#32 }
def helmUp : Helm := { Helm.reset with fw := { Firmware.none with running := true }, service := true }
def svc (b : Bridge) (q : Partition) : State :=
  { State.reset with
    fields := (List.range 144).map (fun f => (f, inPart)), bridges := [(0, b)], partitions := [(0, q)], helm := helmUp, cycle := 9 }

/-- A tower of field 0 with an uncorrectable word 8 and byte 0 holding 5. -/
def lineTower (bad : List Nat) : State :=
  let s := svc bridgeUp partUp
  s.onField 0 (fun _ => { inPart with tower := { Memory.zero with cells := [(0, 5)], bad := bad } })

theorem witness_cxl : (lineTower []).hdmTower 0 0 = some (0, 0) ∧ ((lineTower []).bridge 0).hdmCommitted = true ∧
    ((lineTower []).cxlPath 0 0).all (fun g => ((lineTower []).field g).power = .underway) = true ∧
    ((lineTower []).field 0).tower.badWord (span 0 64) = none ∧ ((lineTower [0]).field 0).tower.badWord (span 0 64) = some 0 ∧
    (lineTower []).postedIn 0 0 64 = false := by decide +kernel
theorem test_cxlMemRead : onNext (exec (.cxlMemRead 0 3) (lineTower [])) (fun t => (t.bridge 0).lastRead = 5 :: zeros 63) = true ∧
    onNext (exec (.cxlMemRead 0 3) (lineTower [0])) (fun t =>
      (t.bridge 0).lastRead = copies 64 0xFF && bitB (t.bridge 0).evtStatus evMemUe) = true := by decide +kernel
theorem test_cxlMemWrite : onNext (exec (.cxlMemWrite 0 64 [1, 2, 3] 2#64) (lineTower [])) (fun t =>
    (t.field 0).tower.cells = [(0, 5), (65, 2)]) = true := by decide +kernel

def hostRd : Packet := { reader with dstX := 240, dstY := 0, dstPort := portN }
theorem witness_host_read : (takeFirst (fun (r : HostRead) => r.hostTag = 4)
    ((svc { bridgeUp with hostReads := [{ hostTag := 4, pkt := hostRd }] } partUp).bridge 0).hostReads).isSome = true := by decide +kernel
theorem test_hostReadCompletion : onNext (exec (.hostReadCompletion 0 4 [6])
    (svc { bridgeUp with hostReads := [{ hostTag := 4, pkt := hostRd }] } partUp)) (fun t =>
      (t.router 240 0).inject.map (fun p => (p.op, p.payload)) = [(opRdata, [6, 0])] && (t.bridge 0).hostReads = []) = true := by decide +kernel

/-- A host-space write of two flits at landing (240, 0). -/
def hostWr (a : Nat) : Packet := { reader with dest := dword (3 * 2 ^ 58 + a), dstX := 240, dstY := 0, dstPort := portN, op := opWr, payload := [1, 2], arg := dword (2 ^ 64 - 1) }
def egressAt (a : Nat) (l : List Egress) (cycle : Nat) : State :=
  { svc { bridgeUp with egress := l } partUp with
    routers := [(siteIx 240 0, { Router.reset with arrived := [(portN, hostWr a)] })], cycle := cycle }
def openLine : Egress := { line := 0, bytes := [(0, 1)], opened := 0, acks := [hostWr 0] }

theorem witness_egress : requestB (egressAt 64 [] 9) 240 0 portN opWr (hostWr 64) = true ∧ landingOf 240 0 = some (0, portN) ∧
    (bridgeUp.clocked 5) = true ∧ (egressAt 64 [] 9).hostAddr 0 64 64 = some (64, false) ∧ slotReset ≠ 0 ∧ slackOf bridgeUp ≠ 0 ∧
    ((writeCells (hostWr 64) 64).filter (fun c => c.1 / 256 = 0)).length < 256 ∧ (egressAt 0x200000 [] 9).hostAddr 0 0x200000 64 = none ∧
    (hostWr 0x200000).isReq = true ∧ (9 : Nat) < openLine.opened + slackOf bridgeUp ∧ openLine.opened + slackOf bridgeUp ≤ 3800 := by
  decide +kernel
theorem test_egressWrite : onNext (exec (.egressWrite 0 240 0) (egressAt 64 [] 9)) (fun t =>
      (t.bridge 0).egress.map (fun e => (e.line, e.bytes.length, e.opened)) = [(0, 64, 9)] && (t.router 240 0).inject = []) = true ∧
    onNext (exec (.egressWrite 0 240 0) (egressAt 0x200000 [] 9)) (fun t =>
      (t.router 240 0).inject.map (fun p => (p.status, p.reason)) = [(fabFencedTarget, 3)]) = true := by decide +kernel
/-- SLACK is 20 units of 100 ns at reset: 3,800 cycles (R271, R285). -/
theorem test_slackTimeout : onNext (exec (.slackTimeout 0) (egressAt 64 [openLine] 3800)) (fun t =>
      (t.bridge 0).posted = [{ addr := 0, data := [1] }] && (t.router 240 0).inject.map (·.op) = [opWrack]) = true ∧
    onNext (exec (.slackTimeout 0) (egressAt 64 [openLine] 3799)) (fun t => (t.bridge 0).posted = []) = true := by decide +kernel

/-! ### Bridge registers, slots, the completion ring -/

def slotBytesOf (n : Nat) (l : List Byte) : Tbl Byte := (cellsAt (256 * n) l).foldl (fun t p => tset t p.1 p.2) []
/-- HELLO with tag 7, versions 1 to 1 in slot 2 (R274, R275). -/
def helloSlot : Bridge :=
  { bridgeUp with
    owned := 4, doorbells := [2],
    slotBytes := slotBytesOf 2 (leBytes 2 1 ++ [0, 0] ++ leBytes 4 7 ++ leBytes 2 4 ++ zeros 6 ++ leBytes 2 1 ++ leBytes 2 1) }

theorem witness_slots : bridgeUp.clocked 1 = true ∧ bitB bridgeUp.owned 2 = false ∧ bitB bridgeUp.cringCfg 31 = true ∧
    bitB helloSlot.owned (fld 2#32 3 0) = true ∧ helloSlot.executing.length < 64 ∧ helloSlot.keptFor 9 7 = none ∧
    formCheck helloSlot (helloSlot.cmdIn 2 0) = codeOk ∧
    formCheck { helloSlot with slotBytes := [] } (({ helloSlot with slotBytes := [] } : Bridge).cmdIn 2 0) ≠ codeOk := by decide +kernel
theorem test_mbxSlotWrite : onNext (exec (.mbxSlotWrite 0 15 254 [8, 9]) (svc bridgeUp partUp)) (fun t =>
    tgetD (t.bridge 0).slotBytes 4095 0 = 9) = true := by decide +kernel
theorem test_mbxDoorbell : onNext (exec (.mbxDoorbell 0 2#32) (svc bridgeUp partUp)) (fun t =>
      (t.bridge 0).doorbells = [2] && (t.bridge 0).owned = 4) = true ∧
    onNext (exec (.mbxDoorbell 0 2#32) (svc helloSlot partUp)) (fun t => bitB (t.bridge 0).evtStatus evSlotViolation) = true := by decide +kernel
theorem test_slotTake : onNext (exec (.slotTake 0) (svc helloSlot partUp)) (fun t =>
    (t.bridge 0).executing.map (fun c => (c.opcode, c.tag)) = [(1, 7)] && (t.bridge 0).owned = 0) = true := by decide +kernel

def doneComp : Completion := { opcode := 1, version := 1, kind := 0, tag := 7, status := 0, orig := 0, slot := 2, body := [], noIntr := true }
def ringAt (head tail : Nat) : Bridge := { bridgeUp with comps := [doneComp], head := head, tail := tail }
theorem witness_ring : ringOn (ringAt 0 0) = true ∧ ringSize (ringAt 0 0) = 512 ∧ (511 + 1) % ringSize (ringAt 0 511) = (ringAt 0 511).head ∧
    (0 + 1) % ringSize (ringAt 0 0) ≠ (ringAt 0 0).head ∧ inWindow (ringAt 0 0) (ringEntry (ringAt 0 0)) 64 = true ∧
    (fld 3#32 15 0 + 512 - 0 % 512) % 512 ≤ ((ringAt 0 4).tail + 512 - 0 % 512) % 512 ∧
    ((ringAt 0 4).tail + 512 - 0 % 512) % 512 < (fld 5#32 15 0 + 512 - 0 % 512) % 512 ∧ ringOn Bridge.reset = false ∧
    bitB 0x80000010#32 31 = true := by decide +kernel
/-- PHASE is bit 0 of byte 3 (R281). -/
theorem test_completionRecordWrite : onNext (exec (.completionRecordWrite 0) (svc (ringAt 0 0) partUp)) (fun t =>
      (t.bridge 0).tail = 1 && (t.bridge 0).posted.map (·.addr) = [4, 0] && ((t.bridge 0).posted.drop 1).map (·.data) = [[1, 0, 1, 1]]) = true ∧
    onNext (exec (.completionRecordWrite 0) (svc (ringAt 0 511) partUp)) (fun t =>
      bitB (t.bridge 0).evtStatus evCringFull && (t.bridge 0).comps = [doneComp]) = true := by decide +kernel
theorem test_cringHeadWrite : onNext (exec (.cringHeadWrite 0 3#32) (svc (ringAt 0 4) partUp)) (fun t => (t.bridge 0).head = 3) = true ∧
    onNext (exec (.cringHeadWrite 0 5#32) (svc (ringAt 0 4) partUp)) (fun t => (t.bridge 0).head = 0) = true := by decide +kernel
theorem test_cringCfgWrite : onNext (exec (.cringCfgWrite 0 0x80000010#32) State.reset) (fun t =>
      ringSize (t.bridge 0) = 65536 && ringOn (t.bridge 0)) = true ∧
    onNext (exec (.cringCfgWrite 0 0x80000010#32) (svc (ringAt 0 4) partUp)) (fun t => ringSize (t.bridge 0) = 512 && (t.bridge 0).tail = 4) = true := by
  decide +kernel

theorem witness_registers : State.reset.helm.steps.accepts 1 = true ∧ (State.reset.bridge 0).clocked 3 = true ∧
    State.reset.helm.fw.running = false ∧ (up.field 0).rails = true ∧ (Cell.reset.state = .idle) ∧ storeCell.state ≠ .idle ∧
    ({ bridgeUp with clkEn := 0 } : Bridge).clocked 6 = false := by decide +kernel
theorem test_registerWrite_locked : onNext (exec (.registerWrite (.unit0 1 0 0x400) 5#32) (upCell 1 0 storeCell)) (fun t =>
      (t.cell 1 0).slots = storeCell.slots && (t.cell 1 0).lockedWrites = 1) = true ∧
    onNext (exec (.registerWrite (.unit0 1 0 0x7F4) 5#32) up) (fun t => fld ((t.cell 1 0).slot 63) 63 32 = 5) = true := by decide +kernel
theorem test_registerWrite_step : onNext (exec (.registerWrite (.brw 0 0x10) 1#32) State.reset) (fun t =>
      t.helm.steps.step = 1 && t.helm.steps.state = 1) = true ∧
    onNext (exec (.registerWrite (.brw 0 0x10) 3#32) State.reset) (fun t => (t.bridge 0).rejected && t.helm.steps.step = 0) = true := by
  decide +kernel
theorem test_gatedAccess : onNext (exec (.gatedAccess 0 6 false) (svc { bridgeUp with clkEn := 0 } partUp)) (fun t =>
    (t.bridge 0).gatedCount = 1 && (t.bridge 0).gatedStatus = 64 && (t.bridge 0).lastRead = zeros 8) = true := by decide +kernel
theorem test_brwClrCnt : onNext (exec (.brwClrCnt 0) (svc { bridgeUp with gatedCount := 3 } partUp)) (fun t => (t.bridge 0).gatedCount = 0) = true := by
  decide +kernel

/-! ### Mailbox commands -/

/-- A command in execution at bridge 0, with tag 7 and this body. -/
def mbxOf (op : Nat) (body : List Byte) : MbxCmd :=
  { slot := 2, opcode := op, version := 1, flags := 0, tag := 7, length := body.length, resv := false, body := body, arrival := 4,
    accepted := false }
def calling (op : Nat) (body : List Byte) (q : Partition) : State := svc { bridgeUp with executing := [mbxOf op body] } q
def called (op : Nat) (body : List Byte) (q : Partition) : Bool :=
  let s := calling op body q
  let c := mbxOf op body
  decide (s.cmdOf 0 op 7 = some c) && s.helm.fw.running && (s.serving || beforeReady c) && (! changes c || s.turn 0 c)
theorem witness_called {op : Nat} {body : List Byte} {q : Partition} (h : called op body q = true) :
    Called (calling op body q) 0 op 7 (mbxOf op body) := by
  simp only [called, Bool.and_eq_true, Bool.or_eq_true, Bool.not_eq_true', decide_eq_true_eq] at h
  exact ⟨by decide, h.1.1.1, h.1.1.2, h.1.2, fun e => h.2.resolve_left (by simp [e])⟩
/-- The outcome's only completion at bridge 0: its status and the start of its body. -/
def answered (r : Res) (status : Code) (body : List Byte) : Bool :=
  onNext r (fun t => (t.bridge 0).executing = [] && (t.bridge 0).comps.map (fun e => (e.tag, e.status, e.body.take body.length)) = [(7, status, body)])

def runZero : Run :=
  { id := 3, site := 0, tag := 9, version := 1, slot := 5, noIntr := false, session := 0, progSlot := 0, priority := 0, arrival := 0,
    deadline := 500, comb := 0, sizes := [], wins := [], nin := 0, projEnd := 0, wake := 0, admitted := 0 }
def withRun : Partition := { partUp with queue := [runZero] }

def actZero : Active :=
  { run := runZero, startedAt := 0, guardAt := 1000, stopAt := none, stopCode := none, startedCells := [(1, 0)], retired := [], lastRetired := 0,
    faultCode := codeOk, degraded := codeOk, discard := false, aflags := 0, bytes := 0, outDigest := none, inDigest := zeros 48,
    sightBase := 0, skipBase := 0, pairA := 0, pairB := 0, deadReck := false }
def withActive : Partition := { partUp with active := some actZero }

/-- The buffer at host address 64 with 4,096 bytes. -/
def bufArg : List Byte := leBytes 8 64 ++ leBytes 4 4096

theorem witness_mailbox_reports :
    (called 1 (leBytes 2 1 ++ leBytes 2 1) partUp && called 1 (leBytes 2 2 ++ leBytes 2 2) partUp &&
     called 2 (zeros 8 ++ bufArg) partUp && called 2 (1 :: zeros 7 ++ bufArg) partUp && called 2 ([1, 0, 0, 4] ++ zeros 4 ++ bufArg) partUp &&
     called 2 (2 :: zeros 7 ++ bufArg) partUp && called 2 (3 :: zeros 7 ++ bufArg) partUp && called 0x0C (zeros 16 ++ bufArg) partUp &&
     called 0x0D (zeros 64 ++ bufArg) partUp && called 0x0E (zeros 24 ++ bufArg) partUp && called 0x0E ([1, 5] ++ zeros 22 ++ bufArg) partUp &&
     called 0x0F (zeros 16 ++ bufArg) partUp && called 0x0F (1 :: zeros 15 ++ bufArg) partUp && called 0x0F (2 :: zeros 15 ++ bufArg) partUp &&
     called 0x0F (2 :: zeros 7 ++ leBytes 2 600 ++ zeros 6 ++ bufArg) partUp && called 0x10 (zeros 8 ++ bufArg) partUp) = true ∧
    (calling 0x0E ([1, 5] ++ zeros 22 ++ bufArg) partUp).fieldInUse 5 = false ∧
    (calling 0x0E ([1, 0] ++ zeros 22 ++ bufArg) withActive).fieldInUse 0 = true ∧
    bufCheck bridgeUp 64 4096 100 = codeOk ∧ bufCheck bridgeUp 64 4096 5000 ≠ codeOk := by decide +kernel

theorem test_hello : answered (exec (.hello 0 7) (calling 1 (leBytes 2 1 ++ leBytes 2 1) partUp)) codeOk [1, 0, 1, 0, 1, 0] = true ∧
    answered (exec (.hello 0 7) (calling 1 (leBytes 2 2 ++ leBytes 2 2) partUp)) mbxVersion [] = true := by decide +kernel
theorem test_queryInfo : answered (exec (.queryInfo 0 7) (calling 2 (3 :: zeros 7 ++ bufArg) partUp)) codeOk [32, 0, 0, 0] = true ∧
    onNext (exec (.queryInfo 0 7) (calling 2 (3 :: zeros 7 ++ bufArg) partUp)) (fun t =>
      (t.bridge 0).posted.map (fun w => (w.addr, w.data.take 8)) = [(64, [0, 0, 0, 0x80, 4, 0, 0, 0xFF])]) = true ∧
    answered (exec (.queryInfo 0 7) (calling 2 ([1, 0, 0, 4] ++ zeros 4 ++ bufArg) partUp)) loadRange [] = true := by decide +kernel
theorem test_fixFetch : answered (exec (.fixFetch 0 7) (calling 0x0C (zeros 8 ++ leBytes 4 5 ++ zeros 4 ++ bufArg) partUp)) codeOk (zeros 8) = true := by
  decide +kernel
theorem test_logRead : answered (exec (.logRead 0 7) (calling 0x0E (zeros 16 ++ leBytes 4 1 ++ zeros 4 ++ bufArg) partUp)) codeOk [64, 0, 0, 0] = true ∧
    answered (exec (.logRead 0 7) (calling 0x0E ([1, 0] ++ zeros 22 ++ bufArg) withActive)) admitBusy [] = true := by decide +kernel
/-- Two counters from identifier 1 of the partition (R311). -/
theorem test_countersRead : answered (exec (.countersRead 0 7) (calling 0x0F ([1, 0, 1, 0, 2, 0] ++ zeros 10 ++ bufArg) partUp)) codeOk [16, 0, 0, 0] = true ∧
    answered (exec (.countersRead 0 7) (calling 0x0F (2 :: zeros 7 ++ leBytes 2 600 ++ zeros 6 ++ bufArg) partUp)) loadRange [] = true := by decide +kernel
theorem test_linkStatus : answered (exec (.linkStatus 0 7) (calling 0x10 (zeros 8 ++ leBytes 8 32 ++ leBytes 4 4096) partUp)) loadAlignment [] = true ∧
    answered (exec (.linkStatus 0 7) (calling 0x10 (zeros 8 ++ bufArg) partUp)) codeOk [] = true := by decide +kernel
theorem test_attest : answered (exec (.attest 0 7) (calling 0x0D (zeros 64 ++ leBytes 8 64 ++ leBytes 4 64) partUp)) loadBufferSize [] = true := by decide +kernel

/-! ### Partitions, programs, sessions, runs from the mailbox -/

/-- A program without cells: one bound, no dimensions, no windows. -/
def prog0 : Program :=
  { measurement := zeros 64, signed := false, module := 0, mode := 0, rect := 0, ndim := 0, nin := 0, nout := 0, fullCoverage := false,
    kSkew := 0, saveSize := 0, kvMin := 0, histMin := 0, sites := [], routing := [], buffers := [], ladders := [],
    bounds := [{ cycles := [0, 0, 0, 0, 0, 0, 0], pairExtra := 0, bucketWrites := 0, maskWrites := 0, sessionWrites := 0, peerXfers := 0,
                 outMax := 0, hostRate := 0 }],
    patches := [[]], masks := [], session := [], hist := [], sights := [], dfx := 0, dfy := 0, syncUse := [], peers := [] }
def progPart : Partition := { partUp with programs := [(0, { prog := prog0, save := 0, saved := none, comb := none })] }
def openCtx : Session := { Session.closed with state := 1, deadline := 1000000 }
def withSession (s : State) : State := { s with sessions := [(0, openCtx)] }

/-- RECT[0] = fields (0, 0) to (1, 1), the others none; timeouts of 50 µs. -/
def setArg : List Byte := leBytes 4 0x80000011 ++ zeros 12 ++ leBytes 2 50 ++ zeros 6
def badArg : List Byte := leBytes 4 0x8000F011 ++ zeros 20
def imgBytes : List Byte :=
  [82, 76, 66, 83, 1, 0, 1, 0, 32, 4, 0, 0, 5] ++ zeros 19 ++ [136, 202, 103, 142, 221, 121, 79, 214, 108, 37, 141, 2, 66, 11, 143, 252, 6, 132, 28, 229, 100, 166, 125, 163, 105, 88, 170, 238, 164, 120, 233, 250, 24, 59, 64, 202, 98, 166, 135, 7, 43, 230, 116, 22, 226, 31, 80, 242, 65, 53, 247, 143, 77, 85, 246, 96, 81, 211, 149, 97, 67, 164, 234, 43, 32, 4] ++ zeros 158 ++ [1, 1, 0, 0, 128, 1, 0, 0, 128] ++ zeros 7 ++ [2, 1, 0, 0, 0, 2, 0, 0, 16] ++ zeros 7 ++ [3, 1, 0, 0, 64, 2, 0, 0, 16] ++ zeros 7 ++ [4, 1, 0, 0, 128, 2, 0, 0, 16] ++ zeros 7 ++ [5, 1, 0, 0, 192, 2, 0, 0, 96, 1] ++ zeros 54 ++ [1] ++ zeros 327 ++ [1] ++ zeros 327 ++ [96, 1] ++ zeros 14
def loadArg : List Byte := leBytes 8 64 ++ leBytes 8 1056 ++ zeros 8
def openArg : List Byte := leBytes 2 3 ++ [0, 5] ++ leBytes 4 9 ++ zeros 32 ++ bufArg

theorem witness_settings :
    (called 3 setArg partUp && called 3 badArg partUp && called 0x0B [1] partUp && called 0x0B [1] withRun && called 0x11 (zeros 12) partUp &&
     called 0x11 (zeros 12) withRun && called 0x0A (1 :: zeros 23 ++ bufArg) partUp && called 0x0A (2 :: zeros 23 ++ bufArg) partUp &&
     called 0x12 [] partUp && called 0x12 [] Partition.reset) = true ∧
    (calling 3 setArg partUp).partitionCheck (mbxOf 3 setArg) = codeOk ∧ (calling 3 badArg partUp).partitionCheck (mbxOf 3 badArg) ≠ codeOk ∧
    (calling 3 setArg partUp).hasRuns 0 = false ∧ (calling 0x0B [1] withRun).hasRuns 0 = true ∧ (4 : Nat) ≠ byteAt (zeros 12) 0 ∧
    maskFields (leAt (1 :: zeros 23) 0 18) = [0] ∧ maskFields (leAt (2 :: zeros 23) 0 18) = [1] ∧ inRect 0x80000000#32 0 = true ∧
    inRect 0x80000000#32 1 = false := by decide +kernel
/-- The rectangle stays and its timeout changes; all rectangles leave (R241, R243). -/
theorem test_partitionSet : onNext (exec (.partitionSet 0 7) (calling 3 (leBytes 4 0x80000000 ++ zeros 12 ++ leBytes 2 60 ++ zeros 6) progPart)) (fun t =>
      (t.part 0).timeout = 60 && (t.field 0).xferTimeout = 60 && (t.part 0).programs = progPart.programs) = true ∧
    onNext (exec (.partitionSet 0 7) (calling 3 (zeros 24) partUp)) (fun t =>
      (t.part 0).rect = 0 && tgetD (t.field 9).frsRect 0 1 = 0 && (t.bridge 0).comps.map (·.status) = [codeOk]) = true ∧
    answered (exec (.partitionSet 0 7) (calling 3 badArg partUp)) loadRange [] = true := by decide +kernel
theorem test_pairSet : onNext (exec (.pairSet 0 7) (calling 0x0B [1] partUp)) (fun t => (t.part 0).pairReq) = true ∧
    answered (exec (.pairSet 0 7) (calling 0x0B [1] withRun)) admitBusy [] = true := by decide +kernel
theorem test_powerPolicy : onNext (exec (.powerPolicy 0 7) (calling 0x11 ([2, 0, 0, 0] ++ leBytes 4 30 ++ leBytes 4 0) partUp)) (fun t =>
      ((t.part 0).floor, (t.part 0).lullIdle, (t.part 0).doldIdle) = (2, 30, 10000)) = true ∧
    answered (exec (.powerPolicy 0 7) (calling 0x11 (zeros 12) withRun)) admitBusy [] = true := by decide +kernel
theorem test_sound : onNext (exec (.sound 0 7) (calling 0x0A (1 :: zeros 23 ++ bufArg) partUp)) (fun t =>
      (t.part 0).sounding = [0] && (t.bridge 0).executing.map (·.accepted) = [true]) = true ∧
    answered (exec (.sound 0 7) (calling 0x0A (2 :: zeros 23 ++ bufArg) partUp)) loadRange [] = true := by decide +kernel
theorem test_partitionReset : onNext (exec (.partitionReset 0 7) (calling 0x12 [] progPart)) (fun t =>
      (t.part 0).resetAt = some 9 && (t.field 0).preset && (t.part 0).programs = progPart.programs) = true ∧
    answered (exec (.partitionReset 0 7) (calling 0x12 [] Partition.reset)) codeOk [] = true := by decide +kernel

theorem witness_programs :
    (called 4 loadArg partUp && called 4 loadArg Partition.reset && called 5 [0] progPart && called 5 [1] progPart && called 6 openArg progPart &&
     called 6 (leBytes 2 2000 ++ zeros 50) progPart && called 7 [0, 0] progPart) = true ∧
    bufCheck bridgeUp 64 1056 0 = codeOk ∧
    (calling 5 [0] progPart).program 0 0 ≠ none ∧ (calling 5 [1] progPart).program 0 1 = none ∧
    (calling 6 openArg progPart).sessionFor 0 3 = some 3 ∧ (calling 6 openArg progPart).sessionFor 0 2000 = none ∧
    (calling 6 openArg progPart).openCheck 0 3 openArg = codeOk ∧
    (calling 6 openArg partUp).openCheck 0 3 openArg = loadRange ∧ bufCheck bridgeUp (leAt openArg 40 8) 64 64 = codeOk := by decide +kernel
theorem witness_programLoad : (match (calling 4 loadArg partUp).load 0 0 0 none (padTo 1056 imgBytes) with
    | .ok _ => true
    | .error _ => false) = true := by decide +kernel
/-- An image of one section more than R378 asks for does not pass; nor does one whose measurement differs. -/
theorem witness_programLoad_refused : (match (calling 4 loadArg partUp).load 0 0 0 none (padTo 1056 [1]) with
    | .ok _ => false
    | .error e => e.code = loadFormat) = true := by decide +kernel
theorem test_programLoad : onNext (exec (.programLoad 0 7 imgBytes) (calling 4 loadArg partUp)) (fun t =>
    (t.program 0 0).map (·.bounds.length) = some 1 && (t.bridge 0).comps.map (·.status) = [codeOk]) = true := by decide +kernel
theorem test_programUnload : onNext (exec (.programUnload 0 7) (calling 5 [0] progPart)) (fun t => t.program 0 0 = none) = true ∧
    answered (exec (.programUnload 0 7) (calling 5 [1] progPart)) loadRange [] = true := by decide +kernel
theorem test_sessionOpen : answered (exec (.sessionOpen 0 7) (calling 6 openArg progPart)) codeOk [3, 0, 0, 0] = true ∧
    onNext (exec (.sessionOpen 0 7) (calling 6 openArg progPart)) (fun t =>
      (t.session 3).priority = 5 && (t.session 3).deadline = 9 && bitB (t.chunkMap 0) 31) = true := by decide +kernel
theorem test_sessionClose : onNext (exec (.sessionClose 0 7) (withSession (calling 7 [0, 0] progPart))) (fun t =>
      t.session 0 = Session.closed && (t.bridge 0).comps.map (·.status) = [codeOk]) = true ∧
    answered (exec (.sessionClose 0 7) (calling 7 [0, 0] progPart)) loadRange [] = true := by decide +kernel

/-- The RUN body of session 0 without sizes or windows, deadline as the session has it. -/
def runArg : List Byte := leBytes 2 0 ++ [0xFF] ++ zeros 29
def runAt (body : List Byte) (v : Session) (q : Partition) : State := { calling 8 body q with sessions := [(0, v)] }
def alignArg : List Byte := zeros 24 ++ [0, 1] ++ zeros 6 ++ leBytes 8 32 ++ leBytes 8 64

theorem witness_sessionClose : (withSession (calling 7 [0, 0] progPart)).sessionBusy 0 0 = false ∧
    ((withSession (calling 7 [0, 0] progPart)).session 0).state = 1 ∧
    (withSession (calling 7 [0, 0] progPart)).cmdFields 0 (mbxOf 7 [0, 0]) = [] := by decide +kernel
theorem witness_run :
    (called 8 runArg progPart && called 8 alignArg progPart && called 9 (leBytes 8 3) withRun && called 9 (leBytes 8 4) withRun) = true ∧
    runWins alignArg = [(32, 64)] ∧ runWins runArg = [] ∧
    (runAt runArg openCtx progPart).serving = true ∧ (runAt runArg openCtx progPart).sessionState openCtx = 1 ∧
    (let s := runAt runArg openCtx progPart
     runCheck (s.bridge 0) prog0 runArg (combOf prog0.ladders (runSizes runArg)) = codeOk ∧
     runCheck (s.bridge 0) { prog0 with nin := 1 } runArg (some 0) ≠ codeOk ∧
     (s.field 0).power = .underway) := by decide +kernel
theorem witness_run_admitted :
    (let s := runAt runArg openCtx progPart
     let c := mbxOf 8 runArg
     let fs := s.runFields 0 (some prog0)
     s.admitCheck 0 c openCtx (some prog0) (some 0) fs = codeOk ∧ s.admitCheck 0 c openCtx (some prog0) none fs ≠ codeOk ∧
     fs.all (fun f => (s.field f).power = .underway) = true ∧
     (s.project 0 (s.chainHead 0).1 (s.chainHead 0).2.1 (placeRun (s.runOf 0 c openCtx 0 (s.wakeTime fs)) (s.chainHead 0).2.2)).isSome = true) := by
  decide +kernel
theorem witness_run_late :
    (let v := { openCtx with deadline := 1 }
     let s := runAt runArg v progPart
     (s.project 0 (s.chainHead 0).1 (s.chainHead 0).2.1 (placeRun (s.runOf 0 (mbxOf 8 runArg) v 0 0) (s.chainHead 0).2.2)) = none) := by decide +kernel
theorem test_run_admitted : onNext (exec (.run 0 7) (runAt runArg openCtx progPart)) (fun t =>
    (t.part 0).queue.map (fun r => (r.id, r.progSlot, r.deadline)) = [(1, 0, 50000004)] && (t.session 0).lastRun = 1 && (t.session 0).runs = 1) = true := by
  decide +kernel
theorem test_run_refused : answered (exec (.run 0 7) (runAt alignArg openCtx progPart)) loadAlignment (zeros 8 ++ [4]) = true ∧
    answered (exec (.run 0 7) (runAt runArg { openCtx with deadline := 1 } progPart)) admitDeadline (zeros 8 ++ [4]) = true := by decide +kernel
theorem test_runCancel : onNext (exec (.runCancel 0 7) (calling 9 (leBytes 8 3) withRun)) (fun t =>
      (t.part 0).queue = [] && (t.bridge 0).comps.map (fun e => (e.tag, e.kind, e.status)) = [(9, 1, runCancelled), (7, 0, codeOk)]) = true ∧
    answered (exec (.runCancel 0 7) (calling 9 (leBytes 8 4) withRun)) loadRange [] = true := by decide +kernel

/-! ### Runs -/

/-- A program of one cell, (1, 0), with slot 0 an ADD. -/
def siteA : SiteCfg :=
  { x := 1, y := 0, cls := 0, wdog := 0x10000, slotEn := 1, pred := 0, qcfg := List.replicate 8 0, qext := List.replicate 8 0,
    slots := [slotOf 0x10 0 0 0 1 15 0 1 0 0 0], descs := [], engine := none }
def prog1 : Program := { prog0 with sites := [siteA] }
def resident (g : Program) : Resident := { prog := g, save := 0, saved := none, comb := none }
def headZero : Head := { run := 3, at_ := 5, slot := none, comb := none, session := none }
def headPart (slot : Option Nat) : Partition :=
  { withRun with programs := [(0, resident prog1), (1, resident prog0)], activeSlot := slot, headAt := some headZero }
def running (a : Active) : Partition := { partUp with programs := [(0, resident prog1)], activeSlot := some 0, active := some a }
def overRun : Active := { actZero with retired := [(1, 0)], outDigest := some (zeros 48) }

theorem witness_runs :
    ((svc bridgeUp (headPart none)).headRun 0).isSome = true ∧ (svc bridgeUp (headPart none)).helm.fw.running = true ∧
    (svc bridgeUp (headPart none)).allUp 0 prog1 = true ∧ (svc bridgeUp (headPart (some 0))).reachable 1 0 = true ∧
    fieldOf 1 0 ∈ rectFields partUp.rect ∧ prog1.sites.filter (fun u => siteIx u.x u.y = siteIx siteA.x siteA.y) = [siteA] ∧
    ((svc bridgeUp (headPart (some 0))).cell 1 0).state = .idle := by decide +kernel
theorem witness_run_end :
    (svc bridgeUp (running { actZero with stopAt := some 2 })).settled actZero 2 = true ∧
    ({ svc bridgeUp (running actZero) with cells := [(siteIx 1 0, { Cell.reset with state := .active })] } : State).settled actZero 2 = false ∧
    actZero.startedCells.all actZero.retired.contains = false ∧
    ({ svc bridgeUp (running overRun) with cycle := 1024 } : State).runOver 0 overRun = true ∧ (9 : Nat) < actZero.guardAt := by decide +kernel
/-- The switch writes slot words and SLOT_EN; the slot is 0 of program 0. -/
theorem test_programSwitch : onNext (exec (.programSwitch 0) (svc bridgeUp (headPart none))) (fun t =>
    (t.part 0).activeSlot = some 0 && (t.cell 1 0).slotEn = 1 && sOp ((t.cell 1 0).slot 0) = 0x10) = true := by decide +kernel
/-- Tree 8 has its root at the helm landing router (212, 0). -/
def rooted (s : State) : State := s.onRouter 212 0 (fun r => { r with mcTree := [(8, word (2 ^ 31 + portN * 2 ^ 23))] })
/-- START goes out on the run-control tree (R258). -/
theorem test_runStart : onNext (exec (.runStart 0) (rooted (svc bridgeUp (headPart (some 0))))) (fun t =>
      ((t.part 0).active.map (fun a => (a.run.id, a.startedAt, a.startedCells))) = some (3, 5, [(1, 0)]) && (t.part 0).queue = [] &&
      (t.router 212 0).inject.map (fun p => (p.op, p.mc, p.dstX)) = [(opMwr, true, 8)] && (tget t.helm.mcast 8).isSome) = true ∧
    onNext (exec (.runStart 0) (svc bridgeUp { headPart (some 0) with nextStart := 10 })) (fun t => (t.part 0).active.isNone) = true := by decide +kernel
/-- STOP has been sent and the cells are idle: the run completes, with the code it was stopped with if it was. -/
theorem test_runEnd_completes : onNext (exec (.runEnd 0) (svc bridgeUp (running { overRun with stopAt := some 2 }))) (fun t =>
      (t.part 0).active.isNone && (t.bridge 0).comps.map (fun e => (e.tag, e.kind, e.status)) = [(9, 1, codeOk)] &&
      (t.part 0).records.map (·.runId) = [3]) = true ∧
    onNext (exec (.runEnd 0) (svc bridgeUp (running { actZero with stopAt := some 2, stopCode := some runCancelled }))) (fun t =>
      (t.part 0).active.isNone && (t.bridge 0).comps.map (·.status) = [runCancelled]) = true := by decide +kernel
theorem test_runEnd : onNext (exec (.runEnd 0) { svc bridgeUp (running overRun) with cycle := 1024 }) (fun t =>
      (t.part 0).active.map (·.stopAt) = some (some 1024)) = true ∧
    onNext (exec (.runEnd 0) { svc bridgeUp (running overRun) with cycle := 1023 }) (fun t => (t.part 0).active = some overRun) = true := by decide +kernel
theorem test_guardExpiry : onNext (exec (.guardExpiry 0) { svc bridgeUp (running actZero) with cycle := 1000 }) (fun t =>
      (t.part 0).active.map (fun a => (a.stopCode, a.stopAt)) = some (some runCancelled, some 1000)) = true ∧
    onNext (exec (.guardExpiry 0) { svc bridgeUp (running actZero) with cycle := 999 }) (fun t => (t.part 0).active = some actZero) = true := by decide +kernel

/-- The inputs and the output of a run without windows; SHA-384 in the fix record is the first 48 bytes of SHA-512 (R230). -/
theorem witness_inputs : ((svc bridgeUp (headPart (some 0))).headRun 0).isSome = true ∧ (svc bridgeUp (headPart (some 0))).allUp 0 prog1 = true ∧
    runZero.inputs [] = [] ∧ (running { overRun with outDigest := none }).activeSlot = some 0 ∧
    overRun.startedCells.all overRun.retired.contains = true ∧ bridgeUp.egress = [] ∧ bridgeUp.clocked 5 = true ∧ bridgeUp.clocked 6 = true := by decide +kernel
theorem test_inputRead : onNext (exec (.inputRead 0 []) (svc bridgeUp (headPart (some 0)))) (fun t =>
    ((t.part 0).inputs.map (fun i => (i.runId, i.digest.take 4))) = some (3, [0xCF, 0x83, 0xE1, 0x35])) = true := by decide +kernel
theorem test_outputFinalise : onNext (exec (.outputFinalise 0 []) (svc bridgeUp (running { overRun with outDigest := none }))) (fun t =>
    ((t.part 0).active.bind (·.outDigest)).map (·.take 2) = some [0xCF, 0x83]) = true := by decide +kernel


/-! ### Failing sites, reports, seals, resets -/

/-- Program 1 waits at the head while program 0, whose cell (1, 0) cannot be drained, is active. -/
def stuckPart : Partition :=
  { headPart (some 0) with queue := [{ runZero with progSlot := 1 }], headAt := some headZero }
/-- A sounding of field 0 in execution. -/
def soundCmd : MbxCmd := { mbxOf 0x0A (1 :: zeros 23 ++ bufArg) with accepted := true }
def soundState : State :=
  svc { bridgeUp with executing := [soundCmd] } { partUp with programs := [(0, resident prog1)], sounding := [0] }
/-- A report of a KIND, a code and a cell (R226). -/
def reportPkt (kind code x y : Nat) : Packet :=
  { reportAtHelm with payload := [BitVec.ofNat 256 (kind + code * 2 ^ 16 + x * 2 ^ 32 + y * 2 ^ 48)] }
def reportState (p : Packet) (q : Partition) : State := (svc bridgeUp q).onHelm (fun h => { h with reports := [(0, p)] })
def sealable : Partition :=
  { partUp with chainOn := true, chainId := zeros 64, chainSeq := 1,
                records := [{ mode := 0, flags := 0, seq := 0, runId := 1, tag := 0, session := 0, part := 0, status := 0, aflags := 0, sightWindows := 0,
                              sightSkipped := 0, sightResult := 0, pairResult := 0, time := 0, program := zeros 48, input := zeros 48,
                              output := zeros 48, prev := zeros 64 }] }
def resetting : Partition := { progPart with resetAt := some 9, resetTag := some 7 }

theorem witness_failing :
    ((svc bridgeUp stuckPart).headRun 0).isSome = true ∧ (svc bridgeUp stuckPart).program 0 0 = some prog1 ∧
    prog1.sites.any (fun v => v.x = 1 && v.y = 0) = true ∧
    (soundState.bridge 0).executing.find? (fun c => c.opcode = 0x0A && c.accepted) = some soundCmd ∧
    soundState.fieldInUse 0 = false ∧ bufCheck bridgeUp (leAt soundCmd.body 24 8) (leAt soundCmd.body 32 4) 4 = codeOk ∧
    soundState.bodyOut 1 0 = false ∧ prog1.names (1, 0, false) = true := by decide +kernel
theorem test_drainFail : onNext (exec (.drainFail 0 1 0) (svc bridgeUp stuckPart)) (fun t =>
    t.bodyOut 1 0 && (t.part 0).queue = [] && (t.bridge 0).comps.map (·.status) = [codeTransferTimeout]) = true := by decide +kernel
theorem test_sounding : onNext (exec (.sounding 0 [(1, 0, false)]) soundState) (fun t =>
    t.bodyOut 1 0 && t.program 0 0 = none && (t.bridge 0).posted.map (fun w => (w.addr, w.data)) = [(64, [1, 0, 0, 0])] &&
    (t.bridge 0).comps.map (fun e => (e.status, e.body.take 4)) = [(codeOk, [4, 0, 0, 0])]) = true := by decide +kernel

theorem witness_reports :
    inRect partUp.rect (fieldOf (reportOf (lgetD (reportPkt 5 0 1 0).payload 0 0)).x (reportOf (lgetD (reportPkt 5 0 1 0).payload 0 0)).y) = true ∧
    (reportOf (lgetD (reportPkt 5 0 1 0).payload 0 0)).kind = 5 ∧ (reportOf (lgetD (reportPkt 1 3 1 0).payload 0 0)).kind = 1 ∧
    actZero.startedCells.contains (1, 0) = true ∧ actZero.retired.contains (1, 0) = false ∧ inRect 0 0 = false ∧
    sealable.sealSeq < sealable.chainSeq ∧ (9 : Nat) < sealable.sealAt + msec ∧ sealable.chainSeq < sealable.sealSeq + 1024 ∧
    (9 : Nat) < 9 + 100 * usec ∧ resetting.epochAt = none := by decide +kernel
theorem test_helmReport : onNext (exec .helmReport (reportState (reportPkt 5 0 1 0) (running actZero))) (fun t =>
      (t.part 0).active.map (·.retired) = some [(1, 0)] && t.helm.reports = []) = true ∧
    onNext (exec .helmReport (reportState (reportPkt 1 (codeTransferTimeout).toNat 1 0) (running actZero))) (fun t =>
      (t.part 0).active.map (·.stopCode) = some (some codeTransferTimeout)) = true := by decide +kernel
/-- Of two fault reports of one cycle the lower code completes the run (R227). -/
theorem test_lower_code_wins : onNext (exec .helmReport ((reportState (reportPkt 1 0x0802 1 0) (running actZero)).onHelm (fun h =>
    { h with reports := h.reports ++ [(0, reportPkt 1 0x0601 1 0)] }))) (fun t =>
      (t.part 0).active.map (·.stopCode) = some (some sightMismatch)) = true := by decide +kernel
theorem test_fixSeal : onNext (exec (.fixSeal 0) { svc bridgeUp sealable with cycle := msec }) (fun t =>
      (t.part 0).seals.map (·.seq) = [0] && (t.part 0).sealSeq = 1) = true ∧
    onNext (exec (.fixSeal 0) { svc bridgeUp sealable with cycle := msec - 1 }) (fun t => (t.part 0).seals = []) = true := by decide +kernel
theorem test_partitionResetFinish : onNext (exec (.partitionResetFinish 0)
      { svc { bridgeUp with executing := [{ mbxOf 0x12 [] with accepted := true }] } resetting with cycle := 9 + 100 * usec }) (fun t =>
        (t.part 0).resetAt = none && (t.bridge 0).comps.map (·.status) = [codeOk]) = true ∧
    onNext (exec (.partitionResetFinish 0) { svc bridgeUp resetting with cycle := 8 + 100 * usec }) (fun t => (t.part 0).resetAt = some 9) = true := by
  decide +kernel

/-! ### Peer lanes -/

/-- Lane 5 of port 0, in service on module 0 of a pair, with these contents. -/
def laneUp : Lane := { Lane.reset with state := .up, ver := 1, peer := 1, hello := true, synced := true }
def laneAt (l : Lane) (cycle : Nat) : State :=
  let s := { svc bridgeUp partUp with lanes := [(5, l)], cycle := cycle }
  s.onHelm (fun h => { h with pins := { h.pins with topo := 1 } })
def heldFrame (q : Nat) : Frame := { data := true, seq := q, ctl := none, flits := [] }
/-- A codeword that holds a frame, with `e` symbols to correct. -/
def wordFor (e : Nat) (f : Frame) : Codeword := { fix := some e, msg := Frame.message f }
def badWordIn : Codeword := { fix := none, msg := 0 }
def laneReq : LaneReq := { x := 1, y := 0, port := portL, tag := 6 }

theorem witness_frames :
    laneUp.resend = none ∧ laneUp.tx = [] ∧ laneUp.replayBuf.length < 128 ∧
    ({ laneUp with replayBuf := [heldFrame 4], replayFrom := some 4 } : Lane).resend = some (heldFrame 4, none) ∧ laneUp.nakSeq = none ∧ laneUp.sinceState < 15 ∧
    frameOf (Frame.message (heldFrame 4)) = some (heldFrame 4) ∧ frameOf (BitVec.ofNat 5140 (3 * 2 ^ 18)) = none ∧ frameOf 21 = none ∧
    laneUp.expectSeq = 0 ∧ seqDist 4095 0 = 1 ∧ codewordFrame (wordFor 12 (heldFrame 4)) = some (heldFrame 4) ∧
    codewordFrame (wordFor 13 (heldFrame 4)) = none ∧ codewordFrame badWordIn = none ∧
    ({ laneUp with replayBuf := [heldFrame 4] } : Lane).replayBuf.any (fun f => f.seq = 4) = true ∧ laneUp.replayTimes.length < 8 ∧
    (List.replicate 8 0).length = 8 ∧ ((9 : Nat) < (List.replicate 8 0).getLastD 0 + 4 * usec) ∧ laneUp.reqs = [] ∧
    ({ laneUp with recvReplay := some 0 } : Lane).recvReplay.isSome = true := by decide +kernel
theorem test_frameSend : onNext (exec (.frameSend 0 5) (laneAt { laneUp with tx := List.replicate 21 7, sendSeq := 4095 } 9)) (fun t =>
      (t.lane 0 5).tx = [7] && (t.lane 0 5).sendSeq = 0 && (t.lane 0 5).replayBuf.map (fun f => (f.seq, f.flits.length)) = [(4095, 20)]) = true ∧
    onNext (exec (.frameSend 0 5) (laneAt { laneUp with replayBuf := [heldFrame 4], replayFrom := some 4 } 9)) (fun t =>
      (t.lane 0 5).lastFrame = some (heldFrame 4) && (t.lane 0 5).replayFrom = none) = true := by decide +kernel
theorem test_frameReceive : onNext (exec (.frameReceive 0 5 (wordFor 0 { heldFrame 0 with flits := [0] })) (laneAt laneUp 9)) (fun t =>
      (t.lane 0 5).expectSeq = 1 && (t.lane 0 5).rxPkts.length = 1) = true ∧
    onNext (exec (.frameReceive 0 5 badWordIn) (laneAt laneUp 9)) (fun t =>
      (t.lane 0 5).nakSeq = some 0 && (t.lane 0 5).badRun = 1 && tgetD t.helm.portCnt 4 0 = 1) = true := by decide +kernel
theorem test_nak : onNext (exec (.nak 0 5 4) (laneAt { laneUp with replayBuf := [heldFrame 4] } 9)) (fun t =>
      (t.lane 0 5).replayFrom = some 4 && tgetD t.helm.portCnt 0 0 = 1) = true ∧
    onNext (exec (.nak 0 5 4) (laneAt { laneUp with replayBuf := [heldFrame 4], replayTimes := List.replicate 8 0 } 9)) (fun t =>
      (t.lane 0 5).state = .training && (t.lane 0 5).downAt = some 9) = true := by decide +kernel
theorem test_nakRepeat : onNext (exec (.nakRepeat 0 5) (laneAt { laneUp with recvReplay := some 0, nakAt := 0, expectSeq := 8 } 1900)) (fun t =>
      (t.lane 0 5).nakSeq = some 8) = true ∧
    onNext (exec (.nakRepeat 0 5) (laneAt { laneUp with recvReplay := some 0, nakAt := 1, expectSeq := 8 } 1900)) (fun t =>
      (t.lane 0 5).nakSeq = none) = true := by decide +kernel
theorem test_ackTimeout : onNext (exec (.ackTimeout 0 5) (laneAt { laneUp with replayBuf := [heldFrame 4], ackAt := 0 } 3800)) (fun t =>
      (t.lane 0 5).replayFrom = some 4) = true ∧
    onNext (exec (.ackTimeout 0 5) (laneAt { laneUp with replayBuf := [heldFrame 4], ackAt := 1 } 3800)) (fun t =>
      (t.lane 0 5).replayFrom = none) = true := by decide +kernel

/-- A HELLO of module 1, port 0, lane 5, version 1 (R304). -/
def helloIt (lane : Nat) : Item := BitVec.ofNat 256 (2 + 256 + 2 ^ 16 + 5 * 2 ^ 24 + lane * 2 ^ 40 + 0x1152 * 2 ^ 48)
def peerPkt (p : Nat) : Packet := { reader with srcMod := 1, dstPort := p, cls := 0, dest := cellAddr 0 1 1 0 }
theorem witness_lanes :
    laneUp.state = .up ∧ (laneAt laneUp 9).helm.clocks.drSet = false ∧
    (laneUp.downTimes.filter (fun t => decide ((9 : Nat) < t + 60000 * msec))).length < 2 ∧
    ([1, 2].filter (fun t => decide ((9 : Nat) < t + 60000 * msec))).length = 2 ∧
    (portPeer 1 (laneAt laneUp 9).myMod 0) = some 1 ∧ helloState 1 (laneAt laneUp 9).myMod 0 5 (helloIt 5) = .training ∧
    helloState 1 (laneAt laneUp 9).myMod 0 5 (helloIt 6) ≠ .training ∧ itemLe (helloIt 5) 0 1 = 2 ∧
    (laneAt laneUp 9).goodLanes 0 = [5] ∧ (laneAt laneUp 9).wantsKA 0 = false := by decide +kernel
/-- Lock that has been lost for 1 µs takes the lane down (R300); the third time in 60 s it is out (R303). -/
theorem test_linkDown : onNext (exec (.linkDown 0 5) (laneAt { laneUp with reqs := [laneReq], lockLost := some 0 } 1900)) (fun t =>
      let v := siteOfLane 0 5
      (t.lane 0 5).state = .training && (t.router v.1 v.2).inject.map (fun p => (p.op, p.tag, p.status)) = [(opFault, 6, codeLinkDown)]) = true ∧
    onNext (exec (.linkDown 0 5) (laneAt { laneUp with downTimes := [1, 2], lockLost := some 0 } 1900)) (fun t => (t.lane 0 5).out) = true ∧
    onNext (exec (.linkDown 0 5) (laneAt { laneUp with lockLost := some 1 } 1900)) (fun t => (t.lane 0 5).state = .up) = true := by decide +kernel
theorem test_laneRetrain : onNext (exec (.laneRetrain 0 5 true) (laneAt { laneUp with state := .training, downAt := some 0, sendSeq := 9, cleanAt := some msec } (11 * msec))) (fun t =>
      (t.lane 0 5).state = .up && (t.lane 0 5).sendSeq = 0) = true ∧
    onNext (exec (.laneRetrain 0 5 true) (laneAt { laneUp with state := .training, downAt := some 0, cleanAt := some (msec + 1) } (11 * msec))) (fun t =>
      (t.lane 0 5).state = .training) = true := by decide +kernel
theorem test_peerHello : onNext (exec (.peerHello 0 5 (helloIt 5)) (laneAt Lane.reset 9)) (fun t =>
      (t.lane 0 5).peer = 1 && (t.lane 0 5).state = .training) = true ∧
    onNext (exec (.peerHello 0 5 (helloIt 6)) (laneAt laneUp 9)) (fun t => (t.lane 0 5).state = .miswired) = true := by decide +kernel
theorem test_keepAlive : onNext (exec (.keepAlive 0) (laneAt { laneUp with peerKA := true } 9)) (fun t => (t.lane 0 5).state = .keepAlive) = true ∧
    onNext (exec (.keepAlive 0) (laneAt { laneUp with state := .keepAlive } 9)) (fun t =>
      (t.lane 0 5).state = .training && (t.lane 0 5).downAt = some 9) = true := by decide +kernel
def lane0At (l : Lane) : State :=
  ({ laneAt l 9 with lanes := [(0, l)] } : State).onField 0 (fun _ => { inPart with frsRect := [(0, 0x80000000#32)] })
def farPkt : Packet := { peerPkt portL with dest := cellAddr 0 60 1 0 }
theorem witness_peer_packet :
    (let s := lane0At { laneUp with rxPkts := [peerPkt portL] }
     let v := siteOfLane 0 0
     s.routerUp v.1 v.2 = true ∧ (peerPkt portL).damaged = false ∧ opKnown (peerPkt portL).op = true ∧ (peerPkt portL).mc = false ∧
     destOf s v.1 v.2 portV { peerPkt portL with detour := false, down := false } = .to 1 1 portL ∧
     destOf s v.1 v.2 portV { farPkt with detour := false, down := false } = .refused ∧ farPkt.isReq = true ∧
     (s.router v.1 v.2).vcRoom portV (peerPkt portL) = true ∧ (s.router v.1 v.2).linkFree (6 + portV) s.cycle = true ∧
     (s.router v.1 v.2).tailOf (6 + portV) = 0) := by decide +kernel
theorem test_peerPacketArrive : onNext (exec (.peerPacketArrive 0 0 0) (lane0At { laneUp with rxPkts := [peerPkt portL] })) (fun t =>
      let v := siteOfLane 0 0
      (t.router v.1 v.2).bufs.map (fun f => (f.pkt.dstX, f.pkt.dstY, f.port)) = [(1, 1, portV)] && (t.lane 0 0).rxPkts = []) = true ∧
    onNext (exec (.peerPacketArrive 0 0 0) (lane0At { laneUp with rxPkts := [farPkt] })) (fun t =>
      let v := siteOfLane 0 0
      (t.router v.1 v.2).inject.map (fun p => (p.op, p.status)) = [(opFault, fabFencedTarget)]) = true := by decide +kernel

/-! ### Power, heat, clocks -/

/-- Field 5 with these contents among fields that run, at a cycle. -/
def power (q : Field) (cycle : Nat) : State :=
  (({ svc bridgeUp partUp with cycle := cycle } : State).onField 5 (fun _ => q)).onHelm (fun h => { h with steps := { h.steps with step := 11, state := 2 } })
def lullField : Field := { inPart with power := .lull, fieldGate := true, gates := 0xFFFFFFFFFFFFFFFF#64, idleSince := some 0 }
def sleeper : Field := { inPart with power := .doldrums, rails := false, waking := some 0, sr := true }
def busyCell : Cell := { Cell.reset with state := .active }
def siteIn5 : Nat × Nat := (48 * 5 + 1, 0)
def quietCell : State := { power inPart 100 with cells := [(siteIx 241 0, { Cell.reset with pulse := 64 })] }

theorem witness_power_actions :
    (power inPart 9).fieldQuiet 5 (fun _ => true) = true ∧
    ({ power inPart 9 with cells := [(siteIx 241 0, busyCell)] } : State).fieldQuiet 5 (fun _ => true) = false ∧
    lullField.rails = true ∧ lullField.entry = none ∧ inPart.tripped = false ∧ inPart.power ≠ .off ∧ ({ inPart with rails := false } : Field).rails = false ∧
    fieldOf 241 0 = 5 ∧ quietCell.clocked 241 0 = true ∧ quietCell.quiescent 241 0 = true ∧
    (quietCell.cell 241 0).quietSince + 64 ≤ (quietCell.cell 241 0).pulse := by decide +kernel
theorem test_ungate : onNext (exec (.ungate 5) (power lullField 9)) (fun t =>
    (t.field 5).power = .underway && (t.field 5).gates = 0 && (t.field 5).idleSince = some 9) = true := by decide +kernel
theorem test_lull : onNext (exec (.lull 5) (power inPart 9)) (fun t => (t.field 5).power = .lull && (t.field 5).fieldGate) = true ∧
    onNext (exec (.lull 5) { power inPart 9 with cells := [(siteIx 241 0, busyCell)] }) (fun t =>
      (t.field 5).power = .underway && (t.field 5).refused && (t.field 5).gateRefused = 1) = true := by decide +kernel
theorem test_railsOff : onNext (exec (.railsOff 5) { power lullField 9 with cells := [(siteIx 241 0, { busyCell with slots := [(0, 1)] })] }) (fun t =>
    (t.field 5).power = .doldrums && (t.cell 241 0).slots = [] && t.fresh = 2) = true := by decide +kernel
theorem test_railsOn : onNext (exec (.railsOn 5) (power { sleeper with tripped := false } 9)) (fun t => (t.field 5).rails) = true ∧
    onNext (exec (.railsOn 5) (power { sleeper with tripped := true } 9)) (fun t => ! (t.field 5).rails) = true := by decide +kernel
theorem test_selfRefresh : onNext (exec (.srEnter 5) (power lullField 9)) (fun t => (t.field 5).sr) = true ∧
    onNext (exec (.srExit 5) (power sleeper 9)) (fun t => ! (t.field 5).sr) = true := by decide +kernel
theorem test_pwrGateWrite : onNext (exec (.pwrGateWrite 5 true 0x10#32) (power inPart 9)) (fun t => (t.field 5).gates = 2 ^ 36) = true := by decide +kernel
theorem test_pwrReefWrite : onNext (exec (.pwrReefWrite 5 0xFFFFFFF7#32) (power inPart 9)) (fun t => (t.field 5).reefReg = 7) = true := by decide +kernel
theorem test_cellGate : onNext (exec (.cellGateClose 241 0) quietCell) (fun t => (t.cell 241 0).gated) = true ∧
    onNext (exec (.cellGateOpen 241 0) { quietCell with
      cells := [(siteIx 241 0, { Cell.reset with gated := true })], routers := [(siteIx 241 0, { Router.reset with arrived := [(portL, reader)] })] })
      (fun t => ! (t.cell 241 0).gated) = true := by decide +kernel

theorem witness_sleep :
    (power { inPart with idleSince := some 0 } 1900000).idleLimits 5 = (some 1900000, some 19000000000) ∧
    (power { inPart with idleSince := some 0 } 1900000).idleTime 5 = 1900000 ∧ (power inPart 9).serving = true ∧
    (power { inPart with idleSince := some 0 } 1899999).idleTime 5 < 1900000 ∧ inPart.lullTry = none ∧
    (power lullField 19000000000).idleTime 5 = 19000000000 ∧ lullField.shutting = false ∧ sleeper.waking.isSome = true ∧
    sleeper.tripped = false ∧ ({ sleeper with waking := none } : Field).waking = none := by decide +kernel
/-- LULL_IDLE is 1,000 µs at reset, DOLDRUMS_IDLE 10,000 ms (R326). -/
theorem test_lullIdleExpiry : onNext (exec (.lullIdleExpiry 5) (power { inPart with idleSince := some 0 } 1900000)) (fun t => (t.field 5).power = .lull) = true ∧
    onNext (exec (.lullIdleExpiry 5) (power { inPart with idleSince := some 0 } 1899999)) (fun t => (t.field 5).power = .underway) = true := by decide +kernel
theorem test_doldrumsIdleExpiry : onNext (exec (.doldrumsIdleExpiry 5) (power lullField 19000000000)) (fun t =>
      (t.field 5).entry = some 19000000000 && (t.field 5).fieldOff && t.helm.lostFields = [5]) = true ∧
    onNext (exec (.doldrumsIdleExpiry 5) (power lullField 18999999999)) (fun t => (t.field 5).entry = none) = true := by decide +kernel
theorem test_wakeRequest : onNext (exec (.wakeRequest 5) (power lullField 9)) (fun t => (t.field 5).power = .underway && (t.field 5).gates = 0) = true ∧
    onNext (exec (.wakeRequest 5) (power { sleeper with waking := none } 9)) (fun t => (t.field 5).waking = some 9) = true := by decide +kernel
theorem test_doldrumsWakeDone : onNext (exec (.doldrumsWakeDone 5 true) (power sleeper 9)) (fun t =>
      (t.field 5).power = .underway && ! (t.field 5).sr && (t.field 5).locked) = true ∧
    onNext (exec (.doldrumsWakeDone 5 false) (power sleeper 9)) (fun t => (t.field 5).power = .off && (t.field 5).tripped) = true := by decide +kernel

def joined : State := (power { inPart with couple := 0xF } 9).onField 4 (fun q => { q with couple := 0xF })
theorem witness_losses : inPart.tripped = false ∧ (power inPart 9).reefing = true ∧
    (fieldBeyond 5 2 = some 4 ∨ fieldBeyond 5 3 = some 4) := by decide +kernel
theorem witness_slip : (List.range 4).any (fun p => decide (fieldBeyond 5 p = some 4) && bitB (BitVec.ofNat 4 (joined.coupled 5)) p) = true := by decide +kernel
theorem test_trip : onNext (exec (.trip 5) (power inPart 9)) (fun t =>
    (t.field 5).power = .off && (t.field 5).tripped && (t.field 5).sr && t.helm.lostFields = [5] && bitB t.helm.pins.smbStatus 6) = true := by decide +kernel
theorem test_powerStageTrip : onNext (exec (.powerStageTrip 5) (power inPart 9)) (fun t => (t.field 5).power = .off && ! (t.field 5).rails) = true := by
  decide +kernel
theorem test_roseSlip : (List.range 4).all (fun p => ! decide (fieldBeyond 5 p = some 4) || onNext (exec (.roseSlip [(5, p)]) joined) (fun t =>
    (t.field 5).power = .off && bitB (t.field 4).slip (opposite p))) = true := by decide +kernel
/-- 110 °C is 440 quarter degrees, 105 °C 420, the DRAM limit of 95 °C 380 (R333, R337). -/
theorem test_hwThermalTrip : onNext (exec (.hwThermalTrip 5 440) (power inPart 9)) (fun t => (t.field 5).power = .off && t.helm.pins.thermtrip) = true ∧
    onNext (exec (.hwThermalTrip 5 439) (power inPart 9)) (fun t => (t.field 5).power = .underway) = true := by decide +kernel
theorem test_tjHotReport : onNext (exec (.tjHotReport 5 420) (power inPart 9)) (fun t => (t.field 5).shutting && (t.field 5).reefReg = 15) = true ∧
    onNext (exec (.tjHotReport 5 419) (power inPart 9)) (fun t => ! (t.field 5).shutting) = true := by decide +kernel
theorem test_dramHotReport : onNext (exec (.dramHotReport 5 380) (power inPart 9)) (fun t =>
      (t.field 5).shutting && bitB t.helm.pins.smbStatus 5) = true ∧
    onNext (exec (.dramHotReport 5 379) (power inPart 9)) (fun t => ! (t.field 5).shutting) = true := by decide +kernel
/-- The field leaves the mesh; once its routers are empty it is Off (R156, R335). -/
theorem test_thermalShutdown : onNext (exec (.thermalShutdown 5) (power { inPart with shutting := true } 9)) (fun t =>
      (t.field 5).coolAt = some 9 && (t.field 5).fieldOff && (t.field 5).rails) = true ∧
    onNext (exec (.thermalShutdown 5) (power { inPart with shutting := true, coolAt := some 9 } 10)) (fun t =>
      (t.field 5).power = .off && t.helm.pins.thermtrip && (t.field 5).sr) = true := by decide +kernel
theorem test_towerRailOvercurrent : onNext (exec (.towerRailOvercurrent 5) (power inPart 9)) (fun t =>
    (t.field 5).withdrawn && ! (t.field 5).towerRails && (t.field 5).railsLatch) = true := by decide +kernel

/-- Field 5 at 90 °C and level 3, of no partition: its floor is 15. -/
def hot (tj : Int) (n : BitVec 4) (cycle : Nat) : State := power { inPart with tj := tj, reefReg := n } cycle
theorem witness_reefing : (hot 360 3 190000).reefing = true ∧ (hot 360 3 190000).helm.reefAt + 100 * usec ≤ 190000 ∧
    (List.range 144).all (fun f => decide (((hot 360 3 190000).field f).tj < 420) && decide (((hot 360 3 190000).field f).past = none) &&
      decide (((hot 360 3 190000).field f).reefReg.toNat ≤ (hot 360 3 190000).floorOf f)) = true ∧
    (List.range 144).all (fun f => f = 5 || decide (((hot 360 3 190000).field f).tj < 360)) = true ∧
    (List.range 144).all (fun f => f = 5 || decide (((hot 348 3 190000).field f).reefReg.toNat < 3)) = true := by decide +kernel
theorem test_reefStep_up : onNext (exec (.reefStep []) (hot 360 3 190000)) (fun t => (t.field 5).reefReg = 4 && t.helm.reefAt = 190000) = true ∧
    onNext (exec (.reefStep []) (hot 360 3 189999)) (fun t => (t.field 5).reefReg = 3) = true := by decide +kernel
theorem test_reefStep_down : onNext (exec (.reefStep []) (hot 348 3 190000)) (fun t => (t.field 5).reefReg = 2) = true ∧
    onNext (exec (.reefStep []) (hot 349 3 190000)) (fun t => (t.field 5).reefReg = 3) = true := by decide +kernel
/-- Field 0 is of partition 0, whose floor is 4. -/
def pastFloor (cycle : Nat) : State := (power inPart cycle).onField 0 (fun q => { q with past := some 0, reefReg := 9 })
theorem witness_past_floor : (pastFloor msec).floorOf 0 < ((pastFloor msec).field 0).reefReg.toNat ∧ (pastFloor msec).reefing = true := by decide +kernel
theorem test_reefPastFloorExpiry : onNext (exec (.reefPastFloorExpiry 0) (pastFloor msec)) (fun t => (t.field 0).shutting) = true ∧
    onNext (exec (.reefPastFloorExpiry 0) (pastFloor (msec - 1))) (fun t => ! (t.field 0).shutting) = true := by decide +kernel

/-- Crystals A and B as given, A selected. -/
def crystals (a b dr : Bool) (cycle : Nat) : State :=
  let at_ := fun (ok : Bool) => if ok then none else some 0
  (laneAt laneUp cycle).onHelm (fun h => { h with
    clocks := { h.clocks with okA := a, okB := b, failA := ! a, failB := ! b, failAtA := at_ a, failAtB := at_ b, drSet := dr } })
theorem witness_clocks : (crystals true true false 9).helm.clocks.good false = true ∧ (crystals true true false 9).helm.clocks.good true = true ∧
    (crystals true false false 9).helm.clocks.good true = false ∧ (crystals true true false 9).helm.clocks.sel = false ∧
    (crystals false true false 9).helm.clocks.failA = true ∧ (crystals false false false 9).helm.service = true ∧
    (crystals false true false 9).helm.clocks.failAtA = some 0 ∧ (9 : Nat) < 0 + 1000 * msec := by decide +kernel
theorem test_crystalFail : onNext (exec (.crystalFail false) (crystals true true false 9)) (fun t =>
      t.helm.clocks.sel && ! t.helm.clocks.okA && t.helm.clocks.failA) = true ∧
    onNext (exec (.crystalFail false) (crystals true false false 9)) (fun t => ! t.helm.clocks.sel) = true := by decide +kernel
theorem test_crystalGoodAgain : onNext (exec (.crystalGoodAgain false) (crystals false true false (1000 * msec))) (fun t => t.helm.clocks.okA) = true ∧
    onNext (exec (.crystalGoodAgain false) (crystals false true false (1000 * msec - 1))) (fun t => ! t.helm.clocks.okA) = true := by decide +kernel
theorem test_deadReckoningEntry : onNext (exec .deadReckoningEntry (crystals false false false 9)) (fun t =>
      t.helm.clocks.drSet && t.helm.clocks.drEntries = 1 && (t.lane 0 5).state ≠ .up) = true := by decide +kernel
theorem test_deadReckoningExit : onNext (exec (.deadReckoningExit true []) (crystals false true true 9)) (fun t =>
      ! t.helm.clocks.drSet && t.helm.clocks.sel) = true := by decide +kernel

/-! ### Start-up -/

/-- Step `n` in progress since cycle 0 on a state. -/
def inStepOf (n : Nat) (s : State) : State := s.onHelm (fun h => { h with steps := { h.steps with step := n, state := 1, since := 0 } })
def stepped (t : State) : Nat × Nat × Nat := (t.helm.steps.step, t.helm.steps.state, t.helm.steps.reason)

/-- A firmware image of empty sections, signed for key slot 1: COMMIT_SVN 3, REVOKE_BELOW (R377, R388-R390). R and S are the hash itself, so
that both multipliers of the check are 1. -/
def fwBytes : List Byte :=
  [82, 76, 66, 83, 1, 0, 0, 7, 148, 2, 0, 0, 6, 0, 0, 0, 3, 0, 2, 0, 1] ++ zeros 11 ++ [86, 101, 109, 169, 2, 35, 232, 77, 189, 192, 156,
    125, 172, 250, 176, 155, 114, 78, 93, 52, 91, 85, 184, 175, 47, 141, 195, 162, 24, 124, 104, 87, 235, 22, 6, 167, 151, 113, 206, 188,
    6, 87, 132, 175, 39, 65, 253, 77, 6, 13, 231, 55, 113, 40, 152, 209, 27, 236, 142, 238, 22, 250, 89, 76, 128, 1] ++ zeros 158 ++ [1,
    0, 0, 0, 128, 1] ++ zeros 10 ++ [2, 0, 0, 0, 128, 1] ++ zeros 10 ++ [2, 0, 0, 0, 128, 1] ++ zeros 10 ++ [2, 0, 0, 0, 128, 1] ++ zeros
    10 ++ [2, 0, 0, 0, 128, 1] ++ zeros 10 ++ [2, 0, 0, 0, 128, 1] ++ zeros 42 ++ [1, 0, 1, 0, 4, 0, 111, 220, 130, 94, 55, 64, 143, 43,
    38, 52, 90, 16, 193, 138, 137, 134, 44, 71, 207, 168, 112, 226, 37, 146, 227, 61, 11, 246, 215, 49, 16, 35, 61, 237, 232, 180, 179,
    55, 84, 15, 247, 155, 170, 33, 108, 238, 51, 85, 143, 228, 129, 90, 123, 16, 216, 219, 237, 5, 195, 171, 171, 9, 145, 225, 249, 0,
    153, 138, 104, 253, 217, 175, 119, 6, 213, 37, 188, 58, 208, 184, 90, 161, 42, 151, 190, 135, 68, 251, 100, 199, 67, 116, 64, 152,
    133, 157, 59, 142, 178, 129, 6, 98, 77, 190, 42, 92, 30, 116, 7, 123, 87, 37, 42, 181, 134, 157, 114, 148, 65, 120, 111, 190, 200, 90,
    120, 43, 201, 25, 158, 18, 66] ++ zeros 5 ++ [44, 132, 98, 228, 212, 236, 18, 243, 148, 106, 178, 72, 20, 23, 23, 230, 251, 131, 67,
    245, 11, 54, 246, 189, 245, 10, 112, 107, 122, 247, 181, 136, 68, 163, 235, 172, 193, 150, 156, 252, 208, 11, 47, 249, 5, 6, 96, 181,
    252, 80, 195, 155, 73, 183, 8, 63, 84, 117, 72, 33, 169, 218, 90, 107, 0, 0, 44, 132, 98, 228, 212, 236, 18, 243, 148, 106, 178, 72,
    20, 23, 23, 230, 251, 131, 67, 245, 11, 54, 246, 189, 245, 10, 112, 107, 122, 247, 181, 136, 68, 163, 235, 172, 193, 150, 156, 252,
    208, 11, 47, 249, 5, 6, 96, 181, 252, 80, 195, 155, 73, 183, 8, 63, 84, 117, 72, 33, 169, 218, 90, 107] ++ zeros 4
def fwKey : BitVec 512 := 0x93659929a9885b0ed291b24ece699e0d25b9bf19bc46770085619766569a766fb14b59eca12cee856247af47b417a27d6b43fbdb862d4262b17be9f6c1571c87#512
def withImage (l : List Byte) : State :=
  (inStepOf 3 State.reset).onHelm (fun h => { h with otp := { h.otp with keys := [0, fwKey, 0, 0] }, fw := { h.fw with image := l } })
/-- Bridge 0 takes the image from host memory at address 0. -/
def hostImage : Bridge := { bridgeUp with imgLo := 1 }

theorem witness_steps_one_two : InStep (inStepOf 1 State.reset) 1 ∧ InStep (inStepOf 2 State.reset) 2 := by
  simp only [InStep]; decide
theorem witness_images : (hostImage.firmwareImage fwBytes).isSome = true ∧ hostImage.firmwareImage [] = none := by decide +kernel
theorem test_clocks : onNext (exec (.clocks false true []) (inStepOf 1 State.reset)) (fun t =>
      stepped t = (1, 2, 0) && t.helm.clocks.helmSrc && t.helm.clocks.sel) = true ∧
    onNext (exec (.clocks false false []) (inStepOf 1 State.reset)) (fun t => stepped t = (1, 4, 1)) = true := by decide +kernel
theorem test_helmLoad : onNext (exec (.helmLoad 0 fwBytes) { inStepOf 2 State.reset with bridges := [(0, hostImage)] }) (fun t =>
      stepped t = (2, 2, 0) && t.helm.fw.image.length = 660) = true ∧
    onNext (exec (.helmLoad 0 []) { inStepOf 2 State.reset with bridges := [(0, hostImage)] }) (fun t => stepped t = (2, 4, 2)) = true := by decide +kernel
theorem witness_verify : ((imageHead fwBytes).map (fun h => (withImage fwBytes).helm.firmwareBad fwBytes h)) = some none := by decide +kernel
theorem witness_verify_refused : ((imageHead fwBytes).map (fun h => (inStepOf 3 State.reset).helm.firmwareBad fwBytes { h with kind := 1 })) =
      some (some (reasonImage, 0)) ∧
    imageHead [] = none := by decide +kernel
theorem test_helmVerify : onNext (exec .helmVerify (withImage fwBytes)) (fun t =>
      stepped t = (3, 2, 0) && t.helm.fw.running && t.helm.otp.rollback = 3 && t.helm.otp.revoked = 1 && t.fresh = 3) = true := by decide +kernel
theorem test_helmVerify_refused : onNext (exec .helmVerify (withImage [])) (fun t => stepped t = (3, 4, 2) && ! t.helm.fw.running) = true := by decide +kernel

/-- A warm start with a valid summary and a field record for every field, whose CRCs the summary holds (R361). -/
def warm : State :=
  let r : FieldRec := { towerOk := true, withdrawn := false, lanesOk := true, logPos := 0, draw := 0, failed := [], laneIn := [], laneOut := [] }
  let s : State := { State.reset with fields := (List.range 144).map (fun f => (f, { Field.reset with settings := some r, tower := { Memory.zero with cells := [(8, 1)] } })) }
  (inStepOf 4 s).onHelm (fun h =>
    { h with steps := { h.steps with warm := true }, readyPos := some 1, summary := { h.summary with valid := true, logPos := 1, fieldCrc := s.recordCrcs } })
theorem warm_records : warm.recordCrcs = warm.helm.summary.fieldCrc := rfl
/-- TOWERS where every condition of R361 holds. -/
theorem startTowers_fast {s : State} (h : s.fastFails = none) (l : List (Nat × Nat)) (shed : Nat → Bool) : s.startTowers l shed =
    ((List.range 144).foldl (fun s f => s.resumeTower f (l.any (fun v => v.1 = f)) (shed f))
      (s.onSteps (fun t => { t with fast := true, fastPath := true }))).endStep := by
  unfold State.startTowers
  rw [h]
theorem witness_fast : warm.fastFails = none := by
  have e : (warm.recordCrcs ≠ warm.helm.summary.fieldCrc) = False := eq_false (fun h => h warm_records)
  simp only [State.fastFails, e]
  decide +kernel
theorem witness_towers : (inStepOf 4 State.reset).fastFails = some 1 ∧
    (warm.field 7).settings.any (·.withdrawn) = false ∧ (warm.field 7).railsLatch = false ∧
    [(3, 5)].all (fun v : Nat × Nat => decide (v.1 < 144) && decide (v.2 < 64)) = true := by decide +kernel
theorem test_towers_full : onNext (exec (.towers [(3, 5)]) (inStepOf 4 State.reset)) (fun t =>
    stepped t = (4, 3, 5) && (t.field 3).withdrawn && ! (t.field 3).trained && (t.field 2).trained && t.helm.steps.fastPath = false) = true := by decide +kernel
theorem test_towers_fast : onNext (exec (.towers [(3, 5)]) warm) (fun t =>
    stepped t = (4, 3, 7) && (t.field 3).tower.cells = [] && (t.field 2).tower.cells = [(8, 1)] && t.helm.steps.fastPath) = true := by
  have h : exec (.towers [(3, 5)]) warm = .next (warm.startTowers [(3, 5)] (fun _ => false)) := by
    show execTowers [(3, 5)] warm = _
    rw [execTowers, State.inStep, if_neg (by decide +kernel), if_pos (by decide +kernel)]
  rw [h, startTowers_fast witness_fast]
  decide +kernel

/-- Firmware running in step `n`, every field's rails up. -/
def climbing (n : Nat) : State := (inStepOf n (svc bridgeUp partUp)).onHelm (fun h => { h with service := false })
/-- Field 7 dark, the others with their rails up; fields 0 and 1 up alone. -/
def dark (n : Nat) : State := (climbing n).onField 7 (fun _ => Field.reset)
def few (n : Nat) : State := { climbing n with fields := [(0, inPart), (1, inPart)] }
theorem witness_climb : (dark 5).helm.steps.state = 1 ∧ ((dark 5).field 7).rails = false ∧ ((dark 5).field 4).tripped = false ∧ ((dark 5).field 4).power ≠ .off ∧
    (climbing 6).helm.steps.fastPath = false ∧ (climbing 8).bodyOut 1 0 = false ∧ ((climbing 8).field (fieldOf 1 0)).rails = true ∧
    (climbing 10).helm.pins.topo ≠ 3 ∧ fieldOfLane 0 5 = 1 := by decide +kernel
theorem witness_in_step : InStep (dark 5) 5 ∧ InStep (climbing 6) 6 ∧ InStep (climbing 7) 7 ∧ InStep (climbing 8) 8 ∧ InStep (climbing 9) 9 ∧
    InStep (climbing 10) 10 ∧ InStep (climbing 11) 11 ∧ InStep (inStepOf 4 State.reset) 4 ∧ InStep (withImage []) 3 := by
  simp only [InStep]; decide +kernel
theorem test_fieldsPower : onNext (exec (.fieldsPower [8]) (dark 5)) (fun t =>
      stepped t = (5, 3, 5) && (t.field 8).tripped && (t.field 7).rails) = true ∧
    onNext (exec (.fieldsPower [4]) (dark 5)) (fun t => stepped t = (5, 4, 8)) = true := by decide +kernel
theorem test_roseLock : onNext (exec (.roseLock []) (few 6)) (fun t => stepped t = (6, 2, 0) && (t.field 1).locked) = true := by decide +kernel
/-- With its own field Off the helm has no landing, so the step fails (R349). The link between field 0 and field 1 of row 0 leaves site (47, 0) by its east port; its far end is (48, 0). -/
theorem test_meshTest : onNext (exec (.meshTest [(47, 0, 1)] []) ((few 7).onField 4 (fun q => { q with power := .off }))) (fun t =>
    stepped t = (7, 4, 5) && t.helm.summary.down = [(47, 0, 1)]) = true := by decide +kernel
theorem test_linkOff : (let t := (few 7).linkOff (47, 0, 1)
    bitB (t.router 47 0).fence 5 && (beyond 47 0 1).any (fun u => bitB (t.router u.1 u.2).fence (4 + opposite 1))) = true := by decide +kernel
theorem test_cellMicrocode : onNext (exec (.cellMicrocode [(1, 0)]) (climbing 8)) (fun t => stepped t = (8, 3, 5) && t.bodyOut 1 0) = true ∧
    onNext (exec (.cellMicrocode []) (climbing 8)) (fun t => stepped t = (8, 2, 0)) = true := by decide +kernel
theorem test_ready : onNext (exec .ready (climbing 11)) (fun t =>
    stepped t = (11, 2, 0) && t.helm.service && t.helm.nextRunId = 0 && (t.field 7).power = .underway) = true := by decide +kernel
theorem test_peers : onNext (exec (.peers []) ((climbing 10).onHelm (fun h => { h with pins := { h.pins with topo := 3 } }))) (fun t =>
      stepped t = (10, 4, 9)) = true ∧
    onNext (exec (.peers [(0, 5, 7)]) (climbing 10)) (fun t => stepped t = (10, 2, 0)) = true := by decide +kernel

theorem witness_turns : ({ Steps.reset with step := 4, state := 2, runOn := true } : Steps).runOn = true ∧
    (inStepOf 5 State.reset).helm.steps.since + stepMax 5 false * msec ≤ 100 * msec ∧ (inStepOf 4 State.reset).fastFails ≠ none ∧
    State.reset.helm.pins.topo ≠ 3 ∧ (portPeer 1 0 0).isSome = true := by decide +kernel
theorem test_runOnNextStep : onNext (exec .runOnNextStep (State.reset.onHelm (fun h => { h with steps := { h.steps with step := 4, state := 3, runOn := true } })))
      (fun t => stepped t = (5, 1, 0)) = true ∧
    onNext (exec .runOnNextStep (State.reset.onHelm (fun h => { h with steps := { h.steps with step := 4, state := 4, runOn := true } })))
      (fun t => stepped t = (4, 4, 0)) = true := by decide +kernel
theorem test_stepTimeout : onNext (exec (.stepTimeout []) { inStepOf 5 State.reset with cycle := 100 * msec }) (fun t => stepped t = (5, 4, 4)) = true ∧
    onNext (exec (.stepTimeout []) { inStepOf 5 State.reset with cycle := 100 * msec - 1 }) (fun t => stepped t = (5, 1, 0)) = true := by decide +kernel
theorem test_stepTimeout_towers : onNext (exec (.stepTimeout [3]) { inStepOf 4 State.reset with cycle := 70000 * msec }) (fun t =>
    stepped t = (4, 3, 5) && (t.field 3).withdrawn) = true := by decide +kernel

/-! ### Resets and supplies -/

/-- A field that runs beside one that sleeps, a record in the ring. -/
def serving : State :=
  let s := (svc bridgeUp progPart).onField 5 (fun _ => sleeper)
  { s.onHelm (fun h => { h with log := { h.log with ring := [{ recOf 0x05 .firmware with seq := 6, mono := 40 }], count := 7 } }) with
    lanes := [(5, laneUp)], sessions := [(0, openCtx)] }
def unpowered : State := (State.reset.onHelm (fun h =>
  { h with pins := { h.pins with inRange := false }, log := { h.log with ring := [{ recOf 0x02 .logger with seq := 6, mono := 40 }], count := 7, stopped := true } }))

theorem witness_resets : serving.helm.pins.inRange = true ∧ unpowered.helm.pins.inRange = false ∧ unpowered.helm.log.ring.length = 1 ∧
    (State.reset.bridge 0).hostUp = false ∧ (serving.bridge 0).hostUp = true := by decide +kernel
theorem test_moduleReset : onNext (exec (.moduleReset true) serving) (fun t =>
    (t.field 0).power = .underway && (t.field 5).power = .doldrums && t.partitions = [] && t.sessions = [] && t.helm.steps.warm &&
    t.helm.steps.resetForce && t.helm.fw.running = false) = true := by decide +kernel
theorem test_resetN : onNext (exec .resetN serving) (fun t => t.lanes = [] && t.helm.steps.warm && ! t.helm.steps.resetForce) = true ∧
    onNext (exec .resetN unpowered) (fun t => ! t.helm.steps.warm) = true := by decide +kernel
/-- POWER_LOSS (type 2) is the last record (R370). -/
theorem test_inputOutOfRange : onNext (exec .inputOutOfRange serving) (fun t =>
    t.fields = [] && t.helm.pins.inRange = false && t.helm.log.ring.map (·.type) = [2, 5] && t.helm.log.stopped) = true := by decide +kernel
theorem test_rimDieOvertemp : onNext (exec .rimDieOvertemp serving) (fun t => t.helm.log.ring.map (·.type) = [2, 0x35, 5]) = true := by decide +kernel
/-- MONO resumes at one more than that of the newest record; POWER_ON (type 1) has the next SEQ. -/
theorem test_inputInRange : onNext (exec .inputInRange unpowered) (fun t =>
    t.mono = 41 && t.helm.pins.inRange && t.helm.log.ring.map (fun r => (r.type, r.seq)) = [(1, 7), (2, 6)]) = true := by decide +kernel
theorem witness_powerOn : unpowered.helm.pins.inRange = false ∧ unpowered.helm.log.ring ≠ [] ∧ unpowered.helm.log.keep = none := by decide +kernel
theorem test_hostDieStart : onNext (exec (.hostDieStart 2) State.reset) (fun t =>
    (t.bridge 2).linkUp && (t.bridge 2).up = [0] && (t.bridge 2).rate = 4) = true := by decide +kernel

/-! ### Logbook -/

def logWith (f : Logbook → Logbook) (cycle : Nat) : State :=
  { (svc bridgeUp partUp).onHelm (fun h => { h with log := f h.log }) with cycle := cycle, mono := 400 }
def stepRec : LogRec := recOf 0x05 .firmware
def fullLog (r : LogRec) (l : Logbook) : Logbook := { l with queue := [r], keep := some 0, count := 65472, overflow := [(0, fenceEntry (1, 0, false))] }

theorem witness_logbook :
    (logWith (fun l => { l with queue := [stepRec] }) 3800).helm.log.may stepRec = true ∧
    ((logWith (fullLog stepRec) 9).helm.log.may stepRec = false ∧ stepRec.origin ≠ .logger ∧
      takeFirst (fun q => q.kept && (logWith (fullLog stepRec) 9).helm.log.may q) [stepRec] = none) ∧
    (logWith (fullLog (recOf 0x05 .bootRom)) 9).helm.log.may (recOf 0x05 .bootRom) = false ∧ (recOf 0x05 .bootRom).mono + 328 ≤ 400 ∧
    (logWith (fun l => { l with lastWrite := 1 }) 3800).helm.log.lastWrite + 2 * usec ≤ 3801 ∧
    (logWith (fun l => { l with count := 32768, overflow := [(0, fenceEntry (1, 0, false))] }) 9).helm.log.renewing (fenceEntry (1, 0, false)) = false ∧
    bridgeUp.clocked 2 = true ∧ ({ bridgeUp with clkEn := 0 } : Bridge).clocked 2 = false := by decide +kernel
theorem test_logRecordWrite : onNext (exec .logRecordWrite (logWith (fun l => { l with queue := [stepRec], lastWrite := 1 }) 3801)) (fun t =>
      t.helm.log.queue = [] && t.helm.log.count = 2 && t.helm.log.lastWrite = 3801) = true ∧
    onNext (exec .logRecordWrite (logWith (fun l => { l with queue := [stepRec], lastWrite := 1 }) 3800)) (fun t => t.helm.log.count = 1) = true := by decide +kernel
theorem test_bootRomRecordDrop : onNext (exec .bootRomRecordDrop (logWith (fullLog (recOf 0x05 .bootRom)) 9)) (fun t =>
      t.helm.log.lost = 1 && t.helm.log.queue.map (·.type) = [4]) = true ∧
    onNext (exec .bootRomRecordDrop (logWith (fullLog { recOf 0x05 .bootRom with mono := 73 }) 9)) (fun t => t.helm.log.lost = 0) = true := by decide +kernel
theorem test_fenceRenewal : onNext (exec .fenceRenewal (logWith (fun l => { l with count := 32768, overflow := [(0, fenceEntry (1, 0, false))] }) 9)) (fun t =>
      t.helm.log.queue.map (fun r => (r.type, r.kept)) = [(0x10, true)]) = true ∧
    onNext (exec .fenceRenewal (logWith (fun l => { l with count := 32767, overflow := [(0, fenceEntry (1, 0, false))] }) 9)) (fun t =>
      t.helm.log.queue = []) = true := by decide +kernel
theorem test_logWall : onNext (exec (.logWallLoWrite 0 5#32) (logWith id 9)) (fun t => tgetD t.helm.log.heldLo 0 0 = 5 && ! t.helm.log.wallOk) = true ∧
    onNext (exec (.logWallHiWrite 0 1#32) (logWith (fun l => { l with heldLo := [(0, 5)] }) 9)) (fun t => t.helm.log.wall = 2 ^ 32 + 5 && t.helm.log.wallOk) = true := by
  decide +kernel
theorem test_logLoRead : onNext (exec (.logLoRead 0 0x18) { logWith id 9 with mono := 2 ^ 32 + 3 }) (fun t =>
      (t.bridge 0).lastRead = [3, 0, 0, 0] && t.logReg 0 0x1C = 1) = true ∧
    onNext (exec (.logLoRead 0 0x18) { logWith id 9 with bridges := [(0, { bridgeUp with clkEn := 0 })] }) (fun t => (t.bridge 0).gatedStatus = 4) = true := by
  decide +kernel

/-! ### Host links, service network -/

def narrow : Bridge := { bridgeUp with up := [0, 1, 2], leftOut := [3], retryAt := 0 }
theorem witness_links : narrow.linkUp = true ∧ narrow.leftOut.contains 3 = true ∧ bridgeUp.trainable [0, 1, 2, 3] 16 32 = true ∧ 544 ≤ 4 * 16 * 32 ∧
    bridgeUp.trainable [2] 16 32 = true ∧ 1 * 16 * 32 < 544 ∧ bridgeUp.keepAlive = false ∧
    (svc bridgeUp partUp).reachesHelm 5 288 (some 4) = true ∧
    ((svc bridgeUp partUp).onField 12 (fun q => { q with altParent := true })).reachesHelm 13 288 (some 12) = false ∧ inPart.altParent = false := by decide +kernel
theorem test_hostModuleRetry : onNext (exec (.hostModuleRetry 0 3 true) { svc narrow partUp with cycle := 1000 * msec }) (fun t =>
      (t.bridge 0).up.length = 4 && (t.bridge 0).leftOut = []) = true ∧
    onNext (exec (.hostModuleRetry 0 3 true) { svc narrow partUp with cycle := 1000 * msec - 1 }) (fun t => (t.bridge 0).up.length = 3) = true := by decide +kernel
theorem test_hostLinkRetrain : onNext (exec (.hostLinkRetrain 0 [0, 1, 2, 3] 16 32) (svc { bridgeUp with keepAlive := true, up := [0] } partUp)) (fun t =>
    ! (t.bridge 0).keepAlive && (t.bridge 0).up.length = 4) = true := by decide +kernel
theorem test_linkDegraded : onNext (exec (.linkDegraded 0 [2] 16 32) (svc bridgeUp partUp)) (fun t =>
    (t.bridge 0).up = [2] && bitB (t.bridge 0).evtStatus evLinkDegraded) = true := by decide +kernel
theorem test_serviceParentTimeout : onNext (exec (.serviceParentTimeout 5) (svc bridgeUp partUp)) (fun t => (t.field 5).altParent) = true ∧
    onNext (exec (.serviceParentTimeout 13) ((svc bridgeUp partUp).onField 12 (fun q => { q with altParent := true }))) (fun t =>
      ! (t.field 13).altParent) = true := by decide +kernel

/-! ### Microcode -/

/-- A chunk of zeros, index 0 of 1, for a C-cell; the CRC32 of 224 zero bytes is that of zlib. -/
def chunkOf (crc : Nat) : List Item := zeroItems ++ [BitVec.ofNat 256 (1 * 2 ^ 32 + crc * 2 ^ 64)]
  where zeroItems : List Item := List.replicate 7 0
def goodCrc : Nat := 1025596259
def mcState (m : Microcode) : State := ({ svc bridgeUp partUp with cells := [(siteIx 1 0, { Cell.reset with mc := some m })] } : State).onHelm (fun h => { h with mcPhase := true })
def heldMc : Microcode := { Microcode.reset with count := 1, chunks := [(0, zeros 224)] }
theorem witness_microcode : (mcState Microcode.reset).mcActive 1 0 = true ∧ (mcState Microcode.reset).bodyOut 1 0 = false ∧
    (chunkOf goodCrc).length = 8 ∧ byteAt ((flitsBytes (chunkOf goodCrc)).drop 224) 2 = (clsOf 1 0).code ∧
    crc32 ((flitsBytes (chunkOf goodCrc)).take 224) = goodCrc ∧ heldMc.whole = true ∧
    ({ Microcode.reset with count := 2, chunks := [(0, zeros 224)] } : Microcode).whole = false := by decide +kernel
theorem test_mcPort : onNext (exec (.mcPort 1 0 (chunkOf goodCrc)) (mcState Microcode.reset)) (fun t => (t.mcOf 1 0).complete) = true ∧
    onNext (exec (.mcPort 1 0 (chunkOf (goodCrc + 1))) (mcState Microcode.reset)) (fun t =>
      (t.mcOf 1 0).badCrc = 1 && (t.mcOf 1 0).chunks = []) = true := by decide +kernel
theorem test_mcClear : onNext (exec (.mcClear 1 0) (mcState heldMc)) (fun t => (t.mcOf 1 0).chunks = [] && (t.mcOf 1 0).count = 0) = true := by decide +kernel
theorem test_mcVerify : onNext (exec (.mcVerify 1 0) (mcState { heldMc with expect := 1 })) (fun t => (t.mcOf 1 0).crcFail && (t.mcOf 1 0).chunks = []) = true := by
  decide +kernel
/-- 101 items go into the cell's lane 19, its own report lane (R353). -/
theorem test_mcReport : onNext (exec (.mcReport 1 0) (mcState heldMc)) (fun t => ((t.router 1 0).lane 19).length = 101) = true := by decide +kernel

/-! ### SMBus, JTAG, telemetry -/

def pinned (f : Pins → Pins) : State := (svc bridgeUp partUp).onHelm (fun h => { h with pins := f h.pins })
theorem test_smbusRead : onNext (exec (.smbusBlockRead 0x10 true) (pinned (fun p => { p with vin := 48000 }))) (fun t =>
      t.helm.pins.smbRead = some 48000#32) = true ∧
    onNext (exec (.smbusBlockRead 0x10 false) (pinned id)) (fun t => t.helm.pins.smbRead = none) = true := by decide +kernel
theorem test_smbusWrite : onNext (exec (.smbusBlockWrite 0x01 0x48#32 true) (pinned (fun p => { p with smbStatus := 0xC8 }))) (fun t =>
    t.helm.pins.smbStatus = 0x80) = true := by decide +kernel
theorem test_alertResponse : onNext (exec .alertResponse (pinned (fun p => { p with smbStatus := 8, modId := 1 }))) (fun t =>
      t.helm.pins.smbAra = some 0x59#8) = true ∧
    onNext (exec .alertResponse (pinned (fun p => { p with smbStatus := 8, smbMask := 8 }))) (fun t => t.helm.pins.smbAra = none) = true := by decide +kernel
theorem test_jtag : onNext (exec (.jtagInstruction 3) State.reset) (fun t => t.helm.pins.jtag = 3) = true ∧
    onNext (exec (.jtagInstruction 3) (pinned id)) (fun t => t.helm.pins.jtag = 0) = true := by decide +kernel
theorem test_telemetry : onNext (exec (.telemetrySample 43999 0 0 0 0 (0, 100)) (pinned (fun p => { p with lowSamples := 1 }))) (fun t =>
      bitB t.helm.pins.smbStatus 3 && (t.field 0).td = 100) = true ∧
    onNext (exec (.telemetrySample 44000 0 0 0 0 (0, 100)) (pinned (fun p => { p with lowSamples := 1 }))) (fun t =>
      ! bitB t.helm.pins.smbStatus 3 && t.helm.pins.lowSamples = 0) = true := by decide +kernel

/-! ### Every step, the rules stated word for word -/

/-- A step runs the front command on the queue's rest; a command that names no object faults. -/
theorem test_step_front : onNext (step { State.reset with pending := [.resetN, .ready] }) (fun t => t.pending = [.ready] && t.helm.steps.warm) = true := by decide +kernel
theorem test_step_fault : (match step { State.reset with pending := [.trip 144] } with
    | .fault .noSuchField => true
    | _ => false) = true := by decide +kernel
theorem witness_wf : (Instr.trip 143).wf = true ∧ (Instr.trip 144).wf = false := by decide +kernel
theorem witness_idle : (upCell 1 0 (active 0 [])).pending = [] ∧ (upCell 1 0 (active 0 [])).bodyOut 1 0 = false ∧
    (upCell 1 0 (active 0 [])).clocked 1 0 = true ∧ swallowed 16 4 ≠ swallowed 17 4 := by decide +kernel
theorem witness_every_step : (State.reset.pending = [] ∧ ¬ MapAfresh (.trip 0)) ∧ onNext (step { State.reset with pending := [.trip 0] }) (fun _ => true) = true ∧
    ({ State.reset with helm := { State.reset.helm with defects := [(1, 0, false)] } } : State).bodyOut 1 0 = true := by
  refine ⟨⟨rfl, ?_⟩, by decide, by decide⟩
  rintro (⟨_, h⟩ | h | h | h | ⟨_, _, h⟩ | h) <;> cases h

theorem witness_canonical : MemoriesCanonical (lineTower []) := by
  refine ⟨?_, ?_, ?_⟩ <;> decide

/-- K = 1 probes the sets 632, 495, 358 and 221 (R126). -/
theorem test_hash_sets : (List.range 4).map (hProbe 1) = [632, 495, 358, 221] := by decide +kernel
/-- Set 0 is none of the four of key 1. -/
theorem witness_hash_sets : ∀ p, p < 4 → 0 / 4 ≠ hProbe 1 p := by decide +kernel
/-- The largest INT8 group sum: 32 products of −128 and −128 are 2^19 (R69). -/
def minus128 : Oper := { item := BitVec.ofNat 256 ((List.range 32).foldl (fun a k => a + 128 * 2 ^ (8 * k)) 0), live := 2 ^ 32 - 1, sc := [] }
theorem test_int8_group : groupInt minus128 minus128 (groupElems 8 minus128 minus128) = 2 ^ 19 := by decide +kernel
/-- 2^31 − 1 and 1 wrap to −2^31 and set OVF (R69). -/
theorem test_int8_wrap : accAdd true 0x7FFFFFFF#32 1#32 = (0x80000000#32, flOvf) := by decide +kernel

/-- A DOT, or an ACC_OUT, into accumulators 0 to 7 in flight, and an earlier addition into them. -/
def accOp (dot : Bool) (id : Nat) : Op :=
  { oneOp with id := id, isDot := dot, accLo := 0, accLen := 8, outs := [], adds := [(0, true, 1)], promised := false, waiting := false }
def hazard (w : BitVec 128) (ops : List Op) : State := upCell 1 0 { active w [] with ops := ops }
theorem witness_hazards : clsOf 1 0 = .c ∧
    (let c := (hazard (slotOf 0x02 0 0 15 15 15 4 0 0 0 0) [accOp true 3]).cell 1 0
     overlaps (accOutBase (c.slot 0) (c.run 0)) 8 0 8 = true ∧ overlaps (sOpc (slotOf 0x03 0 0 15 15 15 0 0 0 8 0)) 8 0 8 = true ∧
     overlaps (dotRange c (slotOf 0x01 8 0 0 1 15 0 0 0 0 0)).1
       ((dotRange c (slotOf 0x01 8 0 0 1 15 0 0 0 0 0)).2 + 1 - (dotRange c (slotOf 0x01 8 0 0 1 15 0 0 0 0 0)).1) 0 8 = true) ∧
    (accOp true 2).id < (accOp true 3).id ∧ (accOp true 2).adds ≠ [] := by decide +kernel
theorem test_hazards : onNext (exec (.accOut 1 0 0) (hazard (slotOf 0x02 0 0 15 15 15 4 0 0 0 0) [accOp true 3])) (fun t => (t.cell 1 0).firings = 0) = true ∧
    onNext (exec (.resultWrite 1 0 3) (hazard 0 [accOp true 2, accOp true 3])) (fun t => (t.cell 1 0).ops.length = 2) = true := by decide +kernel

/-- Row 1 of tile 0, the last live tile of both axes: element 3 under a mask of three columns (R93). -/
theorem test_element_masks :
    (let d := { Desc.of (descOf 8 4 4 2 16 4 0) with mskEn := true, live0 := 1, live1 := 1 }
     elemLive d (BitVec.ofNat 256 ((2 ^ 3 - 1) * 2 ^ 128 + 15)) { r := 1, c := 0, t0 := 0, t1 := 0 } 3 = false ∧
     elemLive d (BitVec.ofNat 256 ((2 ^ 3 - 1) * 2 ^ 128 + 15)) { r := 1, c := 0, t0 := 0, t1 := 0 } 2 = true) := by decide +kernel

/-! ### Clauses of the statements at their boundaries -/

/-- The cell of a state with one field changed. -/
def withCell (s : State) (x y : Nat) (f : Cell → Cell) : State := s.setCell x y (f (s.cell x y))
/-- The slot issues: as `readyB`, with any words. -/
def issuesB (s : State) (x y n : Nat) (isOp : Cls → BitVec 128 → Bool) : Bool := decide (Issues s x y n isOp (planAt s x y n))

/-- Slot 0's first word, and the head entry of queue 0, uncorrectable. -/
def badSlotWord : State := withCell (steerAt 0x30 0) 1 0 (fun c => { c with storeBad := [128] })
def badEntry : State := withCell (steerAt 0x30 0) 1 0 (fun c =>
  { c with queues := tset c.queues 0 { holding [7] with hw := [{ data := 7, since := 0, bad := true }] } })
/-- Storage word 0 uncorrectable: read by LOAD and SREAD, written in part by STORE and SWRITE of four bytes, read by VADD and DOT. -/
def markWord (s : State) (x y : Nat) : State := withCell s x y (fun c => { c with data := { c.data with bad := [0] } })
def fourBytes (s : State) (x y : Nat) : State := withCell s x y (fun c => { c with descs := [(0, descOf 8 2 4 1 2 1 0)] })
def vecMem (op : Nat) : State :=
  markWord (upCell 1 0 (memCell (slotOf op 0 0 8 0 15 0x4 0 0 0 0) [(0, holding [all8 0x3F800000])])) 1 0
def dotMem : State := markWord (upCell 1 0 (memCell (slotOf 0x01 0 0 0 8 15 0 0 0 0 5) [(0, holding [all8 0x3F800000])])) 1 0

theorem witness_faulty_slots :
    issuesB badSlotWord 1 0 0 (isAny 0x30) = true ∧ storeHit (badSlotWord.cell 1 0) 0 (planAt badSlotWord 1 0 0) = some 128 ∧
    issuesB badEntry 1 0 0 (isAny 0x30) = true ∧ storeHit (badEntry.cell 1 0) 0 (planAt badEntry 1 0 0) = none ∧
    queueHit (badEntry.cell 1 0) (planAt badEntry 1 0 0) = true := by decide +kernel
theorem witness_faulty_words :
    (let s := markWord (memAt 1 0 0x20) 1 0
     let c := s.cell 1 0
     readyB s 1 0 0 (isOf .c 0x20) = true ∧ readyB (markWord (memAt 1 1 0x01) 1 1) 1 1 0 (isOf .m 0x01) = true ∧
     c.seen.badWord (readDesc c.seen (storeSize .c) (c.maskOf (c.desc 0)) (c.desc 0).bare 0 0).used = some 0) ∧
    (let s := fourBytes (markWord (memAt 1 0 0x21) 1 0) 1 0
     let c := s.cell 1 0
     readyB s 1 0 0 (isOf .c 0x21) = true ∧
     partialBad c.data (writeDesc c.data (storeSize .c) (c.maskOf (c.desc 0)) (c.desc 0) 0 (c.headItem 0)) = some 0) ∧
    (let c := (vecMem 0x10).cell 1 0
     readyB (vecMem 0x10) 1 0 0 (isVec 0x10 0x08) = true ∧ readyB (vecMem 0x13) 1 0 0 (isOf .c 0x13) = true ∧
     c.seen.badWord (vecSrc c 8 0).used = some 0) ∧
    (let c := dotMem.cell 1 0
     readyB dotMem 1 0 0 (isOf .c 0x01) = true ∧ c.seen.badWord ((dotForm c (c.slot 0) (c.run 0)).flatMap (fun u => u.used)) = some 0) := by
  decide +kernel
/-- Word 2 of the accumulators holds 4 and 5. -/
theorem witness_faulty_accumulators :
    (let s := withCell (accAt 0x02 0 0 SlotRun.reset) 1 0 (fun c => { c with accBad := [2] })
     readyB s 1 0 0 (isOf .c 0x02) = true ∧ (s.cell 1 0).accHit (span 0 8) = some 2) ∧
    (let s := withCell (accAt 0x03 1 5 SlotRun.reset) 1 0 (fun c => { c with accBad := [2] })
     readyB s 1 0 0 (isOf .c 0x03) = true ∧ (s.cell 1 0).accHit [5] = some 2) ∧
    (let c := { ctlCell .active with accBad := [2] }
     c.accHit (([(5, true, 1)] : List (Nat × Bool × Nat)).map (·.1)) = some 2 ∧ c.accHit [6] = none) := by decide +kernel
/-- Of an uncorrectable word read the cell freezes and its queue keeps its item (R183). -/
theorem test_load_uncorrectable : onNext (exec (.load 1 0 0) (markWord (memAt 1 0 0x20) 1 0)) (fun t =>
    decide ((t.cell 1 0).state = .frozen) && (t.cell 1 0).faultCode = memUncorrectable && (t.cell 1 0).ops = []) = true := by decide +kernel
/-- ACC_CLR of 4 and 5 writes the whole word and makes it good again; of 5 alone it reads 4 and freezes (R182, R183). -/
theorem test_accClr_words : onNext (exec (.accClr 1 0 0) (withCell (accAt 0x03 2 4 SlotRun.reset) 1 0 (fun c => { c with accBad := [2] }))) (fun t =>
      (t.cell 1 0).accBad = []) = true ∧
    onNext (exec (.accClr 1 0 0) (withCell (accAt 0x03 1 5 SlotRun.reset) 1 0 (fun c => { c with accBad := [2] }))) (fun t =>
      decide ((t.cell 1 0).state = .frozen)) = true := by decide +kernel

/-- A reserved bit of a span command; 64 groups of one row fill a staging region of 4,096 bytes and not one of 4,064; a tile
whose header is all ones. -/
def manyGroups (bound : Nat) : State :=
  withCell (gAt 2 0 (itemOf (zeros 20 ++ [63])) []) 3 3 (fun c => { c with descs := [(0, descOf 0 1 8 1 bound 1 0)] })
def badTile : State := withCell expandAt 3 3 (fun c => { c with data := Memory.zero.write ((span 0 64).map (fun a => (a, 0xFF))) })
theorem witness_gather_faults :
    (SpanCmd.of (itemOf (zeros 12 ++ [1]))).resv = true ∧ readyB (gAt 2 0 (itemOf (zeros 12 ++ [1])) []) 3 3 0 isPlan = true ∧
    (let cmd := SpanCmd.of (itemOf (zeros 20 ++ [63]))
     cmd.resv = false ∧ cmd.groups * gLen 0 cmd.rows false = 32 * 128 ∧ ((manyGroups 128).cell 3 3).desc 0 = Desc.of (descOf 0 1 8 1 128 1 0) ∧
     (Desc.of (descOf 0 1 8 1 128 1 0)).bound = 32 * 128 ∧ readyB (manyGroups 127) 3 3 0 isPlan = true) ∧
    (let e := expandEngine badTile.myMod 3 3 0 (badTile.cell 3 3)
     expandHit e.1 0 = none ∧ expandBad e.1 0 = true) := by decide +kernel
theorem test_plan_faults : onNext (exec (.plan 3 3 0) (manyGroups 127)) (fun t => (t.cell 3 3).faultCode = loadBufferSize) = true ∧
    onNext (exec (.plan 3 3 0) (manyGroups 128)) (fun t => (t.cell 3 3).gc.spans.length = 1) = true ∧
    onNext (exec (.gatherExpand 3 3 0) badTile) (fun t => (t.cell 3 3).faultCode = loadFormat) = true := by decide +kernel

/-- Sixteen records of key 1 stand in the four sets that key 5 probes. -/
def fullTable : Tbl (BitVec 128) :=
  (List.range 16).foldl (fun t k => tset t (4 * hProbe 5 (k / 4) + k % 4) (BitVec.ofNat 128 (1 * 2 ^ 96 + 2 ^ 95))) []
def spilling : State := withCell (gAt 3 0 (hItem 1) []) 3 3 (fun c => { c with gc := { c.gc with hash := fullTable } })
def spillReq : Req := { tag := 5, slot := 0, opId := 0, kind := .spill, dest := 0, age := 0, resend := none }
def draining : State := withCell (gAt 4 0 0 []) 3 3 (fun c => { c with reqs := [spillReq] })
theorem witness_hash_spill :
    (let c := spilling.cell 3 3
     let r := BitVec.ofNat 128 (hItem 1).toNat
     readyB spilling 3 3 0 (isOf .g 0x03) = true ∧ c.gc.hashBad = [] ∧ (hAdd c.gc.hash r [0, 1, 2, 3]).2 = false ∧
     hTries c.gc.hash r [0, 1, 2, 3] = 4) ∧
    readyB draining 3 3 0 (isOf .g 0x04) = true ∧ (draining.cell 3 3).gc.drain = none ∧
    (draining.cell 3 3).reqs.any (fun q => decide (q.kind = .spill)) = true := by decide +kernel
/-- The record that finds no place is spilled, twelve pulses after its issue (R49, R127). -/
theorem test_hashAdd_spills : onNext (exec (.hashAdd 3 3 0) spilling) (fun t =>
    (t.cell 3 3).gc.spillCount = 1 && (t.router 3 3).inject.map (·.op) = [opWr] && (t.cell 3 3).ops.map (·.due) = [13]) = true := by decide +kernel
/-- A drain waits for its spill acknowledgements; the last one lets it go on (R129). -/
theorem test_drain_waits : onNext (exec (.hashDrain 3 3 0) draining) (fun t =>
      (t.cell 3 3).gc.drain.map (·.residue) = some none && (t.cell 3 3).ops.map (·.waiting) = [true]) = true := by decide +kernel

/-- The head entry of the outbound queue is uncorrectable (R31); three complete sums wait at an output (log 20). -/
def badStream : State := withCell streamAt 1 0 (fun c =>
  { c with queues := tset c.queues 0 { c.queue 0 with hw := [{ data := 7, since := 0, bad := true }] } })
theorem witness_stream_faults : (((badStream.cell 1 0).queue 0).head 1).any (·.bad) = true ∧ badStream.routerUp 1 0 = true ∧
    ((joinAt [(8, { fullJoin with outs := List.replicate 3 { sum := 1, bad := false, due := 9 } })]).router 1 1).joins.length = 1 := by decide +kernel
theorem test_streamItemSend_uncorrectable : onNext (exec (.streamItemSend 1 0 0) badStream) (fun t =>
    decide ((t.cell 1 0).state = .frozen) && (t.router 1 0).lane 16 = (badStream.router 1 0).lane 16) = true := by decide +kernel
/-- An uncorrectable flit goes on marked, a corrected one is counted (R140). -/
theorem test_staticFlitHop_ecc : onNext (exec (.staticFlitHop 1 0 16 .uncorrectable) streamAt) (fun t =>
      ((t.router 2 0).lane 12).map (·.bad) = [false, true]) = true ∧
    onNext (exec (.staticFlitHop 1 0 16 .corrected) streamAt) (fun t => tgetD (t.router 1 0).cnt 4 0 = 1) = true := by decide +kernel

/-- A request that came from module 1, refused; a multicast packet that waits at the helm's landing with its tree there. -/
def farAsk : Packet := { stranger with srcMod := 1 }
def treePkt : Packet := { ctrlPkt 0 1 with srcX := 212, srcY := 0, srcPort := portN, mc := true, dstX := 8, tag := 8 }
def treeWaits (w : Word) : State := { up with
  routers := [(siteIx 212 0, { Router.reset with inject := [treePkt], mcTree := [(8, w)] })],
  fields := [(4, fieldUp)], cycle := 9 }
theorem witness_inject_more :
    farAsk.srcMod ≠ (injectAt farAsk).myMod ∧ destOf (injectAt farAsk) 2 1 portL farAsk = .refused ∧
    (let s := treeWaits 0x82000000#32
     s.routerUp 212 0 = true ∧ (takeFirst (fun (p : Packet) => p.srcPort = portN) (s.router 212 0).inject) = some (treePkt, []) ∧
     (s.router 212 0).vcRoom portN treePkt = true ∧ (s.router 212 0).linkFree (6 + portN) s.cycle = true ∧
     (s.router 212 0).tailOf (6 + portN) = 0) := by decide +kernel
/-- With a LOCAL entry the packet is held with its local branch; without a valid entry it is discarded (log 57). -/
theorem test_multicast_enters : onNext (exec (.packetInject 212 0 portN .clean) (treeWaits 0xC2000000#32)) (fun t =>
      (t.router 212 0).held.map (·.open_) = [[portL]]) = true ∧
    onNext (exec (.packetInject 212 0 portN .clean) (treeWaits 0)) (fun t =>
      (t.router 212 0).held = [] && tgetD (t.router 212 0).cnt 8 0 = 1) = true := by decide +kernel

/-- The local branch of tree 3 at (1, 1): two cycles after the packet came it is written to the cell (R141, R152). -/
def localAt (cycle : Nat) (fence : Nat) : State := treeAt portL 0 fence cycle
theorem witness_multicast_local : (localAt 2 0).mcFenced 1 1 (mcHeldAt portL) = false ∧ (localAt 2 1).mcFenced 1 1 (mcHeldAt portL) = true ∧
    ((localAt 2 0).router 1 1).mcHead (mcHeldAt portL) 2 = true ∧ (localAt 2 0).dynGo 1 1 portL (8 * portW + 0) = true ∧
    ((localAt 2 0).cell 1 1).gated = false ∧ (mcHeldAt portL).since + 2 ≤ 2 ∧ (1 : Nat) < (mcHeldAt portL).since + 2 := by decide +kernel
theorem test_multicast_fenced : onNext (exec (.multicastForward 1 1 3 portL .clean) (localAt 2 1)) (fun t =>
      tgetD (t.router 1 1).cnt 8 0 = 1 && tgetD (t.router 1 1).cnt 6 0 = 1) = true ∧
    onNext (exec (.multicastForward 1 1 3 portL .clean) (localAt 1 0)) (fun t => (t.router 1 1).held = [mcHeldAt portL]) = true := by decide +kernel

/-- A request at the V port of the lane site of lane 0, port 0, whose lane is in service or not. -/
def overLane : Packet := { reader with dest := cellAddr 1 1 1 0, dstX := (siteOfLane 0 0).1, dstY := (siteOfLane 0 0).2, dstPort := portV }
def laneSiteAt (l : Lane) : State :=
  let v := siteOfLane 0 0
  let s : State := { lane0At l with cycle := 9 }
  s.onRouter v.1 v.2 (fun r => { r with bufs := [s.flight v.1 v.2 portE overLane 0] })
theorem witness_eject_lane :
    (let s := laneSiteAt laneUp
     let v := siteOfLane 0 0
     s.routerUp v.1 v.2 = true ∧ laneNo v.1 v.2 = some (0, 0) ∧ ((s.router v.1 v.2).vcHead portE 0 9).isSome = true ∧
     wayOf s v.1 v.2 (s.lookups v.1 v.2 overLane) overLane = .eject overLane ∧
     fenceOf { (s.router v.1 v.2) with fence := s.fenceWord v.1 v.2 } v.1 v.2 overLane = none ∧
     overLane.size ≤ lgetD laneUp.credits overLane.cls 0 ∧ laneUp.reqs.length < 512) := by decide +kernel
theorem test_packetEject_lane : (let v := siteOfLane 0 0
    onNext (exec (.packetEject v.1 v.2 portE 0 .clean) (laneSiteAt laneUp)) (fun t =>
        (t.lane 0 0).tx.length = overLane.size && (t.lane 0 0).reqs = [{ x := 2, y := 1, port := portL, tag := 5 }]) = true ∧
      onNext (exec (.packetEject v.1 v.2 portE 0 .clean) (laneSiteAt { laneUp with state := .training })) (fun t =>
        (t.router v.1 v.2).inject.map (fun p => (p.op, p.status)) = [(opFault, codeLinkDown)]) = true) := by decide +kernel
end Sys2Proof.Tests
end

/-!
Laws of bit fields: what a field reads after a field was replaced (R8).
-/
namespace Sys2Proof.Machine

/-- A bit of a field is that bit of the word. -/
theorem testBit_fld {w : Nat} (v : BitVec w) (hi lo i : Nat) :
    (fld v hi lo).testBit i = (decide (i < hi + 1 - lo) && v.getLsbD (lo + i)) := by
  simp [fld, Nat.testBit_mod_two_pow, Nat.testBit_shiftRight, BitVec.getLsbD]

/-- The bits of a word after a field of it was replaced. -/
theorem getLsbD_setFld {w : Nat} (v : BitVec w) {hi lo : Nat} (x i : Nat) (hlo : lo ≤ hi) (hi' : i < w) :
    (setFld v hi lo x).getLsbD i = if lo ≤ i ∧ i ≤ hi then x.testBit (i - lo) else v.getLsbD i := by
  have hn : lo + (hi + 1 - lo) = hi + 1 := by omega
  have hlow : v.toNat % 2 ^ lo < 2 ^ lo := Nat.mod_lt _ (Nat.two_pow_pos lo)
  have hmid : 2 ^ lo * (x % 2 ^ (hi + 1 - lo)) + v.toNat % 2 ^ lo < 2 ^ (hi + 1) := by
    calc 2 ^ lo * (x % 2 ^ (hi + 1 - lo)) + v.toNat % 2 ^ lo
        < 2 ^ lo * (x % 2 ^ (hi + 1 - lo) + 1) := by rw [Nat.mul_succ]; exact Nat.add_lt_add_left hlow _
      _ ≤ 2 ^ lo * 2 ^ (hi + 1 - lo) := Nat.mul_le_mul_left _ (Nat.mod_lt _ (Nat.two_pow_pos _))
      _ = 2 ^ (hi + 1) := by rw [← Nat.pow_add, hn]
  have hsum : v.toNat % 2 ^ lo + x % 2 ^ (hi + 1 - lo) * 2 ^ lo + v.toNat / 2 ^ (hi + 1) * 2 ^ (hi + 1) =
      2 ^ (hi + 1) * (v.toNat / 2 ^ (hi + 1)) + (2 ^ lo * (x % 2 ^ (hi + 1 - lo)) + v.toNat % 2 ^ lo) := by
    rw [Nat.mul_comm (2 ^ (hi + 1)), Nat.mul_comm (2 ^ lo), Nat.add_comm, Nat.add_comm (v.toNat % 2 ^ lo)]
  rw [setFld, BitVec.getLsbD_ofNat, hsum, Nat.testBit_two_pow_mul_add _ hmid, Nat.testBit_two_pow_mul_add _ hlow]
  simp only [hi', decide_true, Bool.true_and, Nat.testBit_mod_two_pow, Nat.testBit_div_two_pow, BitVec.getLsbD]
  by_cases hbelow : i < lo
  · have : i < hi + 1 := by omega
    simp [hbelow, this, Nat.not_le.2 hbelow]
  · by_cases habove : i < hi + 1
    · have : i - lo < hi + 1 - lo := by omega
      simp [hbelow, habove, this, Nat.not_lt.1 hbelow, Nat.lt_succ_iff.1 habove]
    · have : ¬ i ≤ hi := by omega
      simp [habove, this, Nat.sub_add_cancel (Nat.not_lt.1 habove)]

/-- A field reads what was written to it. -/
theorem fld_setFld_same {w : Nat} (v : BitVec w) {hi lo : Nat} (x : Nat) (hlo : lo ≤ hi) (hw : hi < w) :
    fld (setFld v hi lo x) hi lo = x % 2 ^ (hi + 1 - lo) := by
  apply Nat.eq_of_testBit_eq
  intro i
  rw [testBit_fld, Nat.testBit_mod_two_pow]
  by_cases h : i < hi + 1 - lo
  · rw [getLsbD_setFld v x (lo + i) hlo (by omega), if_pos (by omega), Nat.add_sub_cancel_left]
  · simp [h]

/-- A field that a write does not overlap reads as before. -/
theorem fld_setFld_disjoint {w : Nat} (v : BitVec w) {hi lo hi2 lo2 : Nat} (x : Nat) (hlo : lo ≤ hi) (hw : hi2 < w)
    (hd : hi2 < lo ∨ hi < lo2) : fld (setFld v hi lo x) hi2 lo2 = fld v hi2 lo2 := by
  apply Nat.eq_of_testBit_eq
  intro i
  rw [testBit_fld, testBit_fld]
  by_cases h : i < hi2 + 1 - lo2
  · rw [getLsbD_setFld v x (lo2 + i) hlo (by omega), if_neg (by omega)]
  · simp [h]

/-- The addresses of consecutive bytes. -/
theorem mem_cellsAt_addr {l : List Byte} {a : Nat} {p : Host.Cell} (h : p ∈ cellsAt a l) : a ≤ p.1 ∧ p.1 < a + l.length := by
  induction l generalizing a with
  | nil => simp [cellsAt] at h
  | cons b t ih =>
    rcases List.mem_cons.1 h with rfl | h
    · simp
    · have := ih h
      simp only [List.length_cons]
      omega

@[simp] theorem leBytes_length (n v : Nat) : (leBytes n v).length = n := by
  induction n generalizing v with
  | zero => rfl
  | succ n ih => simp [leBytes, ih]

/-- A word that is written to a store leaves every byte outside its four. -/
theorem memory_writeWord_byte_other (m : Memory) (v : Word) {a off : Nat} (h : a < off ∨ off + 4 ≤ a) :
    (m.write (cellsAt off (wordBytes v))).byte a = m.byte a := by
  apply memory_write_byte_other
  intro p hp
  have := mem_cellsAt_addr hp
  rw [wordBytes, leBytes_length] at this
  omega

end Sys2Proof.Machine

/-!
What one update of the state changes, in the terms of the statements.
-/
namespace Sys2Proof.Claims
open Sys2Proof.Machine

theorem onBridge_only (s : State) (h : Nat) (g : Bridge → Bridge) : Only s (s.onBridge h g) { bridges := [h] } where
  pending  := rfl
  cycle    := rfl
  mono     := rfl
  slowAt   := rfl
  fresh    := fun _ => rfl
  cells    := fun _ _ _ => rfl
  routers  := fun _ _ _ => rfl
  fields   := fun _ _ => rfl
  lanes    := fun _ _ _ => rfl
  bridges  := fun _ hj => onBridge_bridge_other s g (by simpa using hj)
  parts    := fun _ _ => rfl
  sessions := fun _ _ => rfl
  helm     := fun _ => rfl

/-- A bridge's update that answers the bridge itself changes nothing. -/
theorem onBridge_only_of_fixed (s : State) {h : Nat} {g : Bridge → Bridge} (hg : g (s.bridge h) = s.bridge h) :
    Only s (s.onBridge h g) {} :=
  { onBridge_only s h g with
    bridges := fun j _ => by
      rw [onBridge_bridge]
      split
      · next hj => rw [hj, hg]
      · rfl }

theorem onHelm_only (s : State) (g : Helm → Helm) : Only s (s.onHelm g) { helm := true } where
  pending  := rfl
  cycle    := rfl
  mono     := rfl
  slowAt   := rfl
  fresh    := fun _ => rfl
  cells    := fun _ _ _ => rfl
  routers  := fun _ _ _ => rfl
  fields   := fun _ _ => rfl
  lanes    := fun _ _ _ => rfl
  bridges  := fun _ _ => rfl
  parts    := fun _ _ => rfl
  sessions := fun _ _ => rfl
  helm     := nofun

/-- A field's update that keeps the draw of its lost contents changes the field and nothing else. -/
theorem onField_only (s : State) (f : Nat) (g : Field → Field) (hg : (g (s.field f)).lostGen = (s.field f).lostGen) :
    Only s (s.onField f g) { fields := [f] } where
  pending  := rfl
  cycle    := rfl
  mono     := rfl
  slowAt   := rfl
  fresh    := fun _ => rfl
  cells    := fun u v _ => onField_cell s f u v g hg
  routers  := fun _ _ _ => rfl
  fields   := fun _ hj => onField_field_other s g (by simpa using hj)
  lanes    := fun _ _ _ => rfl
  bridges  := fun _ _ => rfl
  parts    := fun _ _ => rfl
  sessions := fun _ _ => rfl
  helm     := fun _ => rfl

theorem onCell_onlyCell (s : State) (x y : Nat) (g : Cell → Cell) : OnlyCell s (s.onCell x y g) x y where
  pending    := rfl
  cycle      := rfl
  mono       := rfl
  slowAt     := rfl
  fresh      := rfl
  fields     := rfl
  lanes      := rfl
  bridges    := rfl
  partitions := rfl
  sessions   := rfl
  helm       := rfl
  cells      := fun _ _ h => onCell_cell_other s g h
  routers    := fun _ _ _ => rfl
  router     := rfl

/-- A command after which bridge `h` is `d`, and nothing else has changed. -/
def BridgeBecomes (s : State) (h : Nat) (i : Instr) (d : Bridge) : Prop :=
  ∃ t, exec i s = .next t ∧ Only s t { bridges := [h] } ∧ t.bridge h = d

theorem bridgeBecomes_of_onBridge {s : State} {h : Nat} {i : Instr} {g : Bridge → Bridge} (hi : exec i s = .next (s.onBridge h g)) :
    BridgeBecomes s h i (g (s.bridge h)) := ⟨_, hi, onBridge_only s h g, onBridge_bridge_same s h g⟩

end Sys2Proof.Claims

/-!
REGISTER_WRITE: what a write of each target answers (R9, R168, R170, R270, R271, R338, R343).
-/
namespace Sys2Proof.Machine

/-! ### Operands that name an object -/

theorem aligned_eq {off n : Nat} (r : Res) (h4 : off % 4 = 0) (hn : off < n) : aligned off n r = r := if_pos ⟨h4, hn⟩

theorem onSite_eq (s : State) {h : Nat} (f : State → State) (hh : h < 4) : s.onSite h f = .next (f s) := if_neg (by omega)

theorem onFld_eq (s : State) {f : Nat} (g : State → State) (hf : f < 144) : s.onFld f g = .next (g s) := if_neg (by omega)

theorem exec_registerWrite (s : State) (r : RegTarget) (v : Word) :
    exec (.registerWrite r v) s = execRegisterWrite r v s := rfl

/-! ### The structures of BAR0 (R270) -/

/-- The reserved regions of BAR0 (R270). -/
def bar0Reserved (off : Nat) : Prop :=
  (0x11000 ≤ off ∧ off < 0x20000) ∨ (0x30040 ≤ off ∧ off < 0x400000) ∨ (0x800000 ≤ off ∧ off < 0x1000000) ∨
    (0x1800000 ≤ off ∧ off < 0x4000000)

section
variable (s : State) (v : Word) {h off : Nat} (hh : h < 4)
include hh

theorem exec_write_brw (h4 : off % 4 = 0) (hn : off < 0x10000) (hs : off ≠ 0x10) :
    exec (.registerWrite (.brw h off) v) s = .next (s.onBridge h (fun b => b.writeReg off v)) := by
  rw [exec_registerWrite, execRegisterWrite, aligned_eq _ h4 hn, onSite_eq s _ hh, if_neg hs]

theorem exec_write_brw_stepCmd : exec (.registerWrite (.brw h 0x10) v) s = .next (s.stepCmd h v) := by
  rw [exec_registerWrite, execRegisterWrite, aligned_eq _ rfl (by decide), onSite_eq s _ hh, if_pos rfl]

theorem exec_write_image (h4 : off % 4 = 0) (hn : off < 0x800000) :
    exec (.registerWrite (.image h off) v) s = .next (s.writeImage h off v) := by
  rw [exec_registerWrite, execRegisterWrite, aligned_eq _ h4 hn, onSite_eq s _ hh]

theorem exec_write_msix {k : Nat} (hk : k < 16) :
    exec (.registerWrite (.msix h (4 * k)) v) s = .next (s.onBridge h (fun b => b.writeMsix k v)) := by
  rw [exec_registerWrite, execRegisterWrite, aligned_eq _ (by omega) (by omega), onSite_eq s _ hh,
    Nat.mul_div_cancel_left k (by decide : 0 < 4)]

theorem exec_write_component (h4 : off % 4 = 0) (hn : off < 0x10000) :
    exec (.registerWrite (.component h off) v) s = .next (s.onBridge h (fun b => b.writeHdm off v)) := by
  rw [exec_registerWrite, execRegisterWrite, aligned_eq _ h4 hn, onSite_eq s _ hh]

theorem exec_write_config (r : CfgReg) :
    exec (.registerWrite (.config h r) v) s = .next (s.onBridge h (fun b => b.writeCfg r v)) := by
  rw [exec_registerWrite, execRegisterWrite, onSite_eq s _ hh]

omit hh in
theorem exec_write_bar0 (h4 : off % 4 = 0) (hn : off < 0x4000000) :
    exec (.registerWrite (.bar0 h off) v) s = s.writeBar0 h off v := aligned_eq _ h4 hn

theorem writeBar0_stepCmd : s.writeBar0 h 0x10 v = .next (s.stepCmd h v) := by
  rw [State.writeBar0, if_pos rfl, onSite_eq s _ hh]

theorem writeBar0_brw (hn : off < 0x10000) (hs : off ≠ 0x10) :
    s.writeBar0 h off v = .next (s.onBridge h (fun b => b.writeReg off v)) := by
  rw [State.writeBar0, if_neg hs, if_pos hn, onSite_eq s _ hh]

theorem writeBar0_component (hn : off < 0x10000) :
    s.writeBar0 h (0x20000 + off) v = .next (s.onBridge h (fun b => b.writeComponent off v)) := by
  rw [State.writeBar0, if_neg (by omega), if_neg (by omega), if_neg (by omega), if_pos (by omega), onSite_eq s _ hh,
    Nat.add_sub_cancel_left]

theorem writeBar0_msix {k : Nat} (hk : k < 16) :
    s.writeBar0 h (0x30000 + 4 * k) v = .next (s.onBridge h (fun b => b.writeMsix k v)) := by
  rw [State.writeBar0, if_neg (by omega), if_neg (by omega), if_neg (by omega), if_neg (by omega), if_pos (by omega),
    onSite_eq s _ hh, Nat.add_sub_cancel_left, Nat.mul_div_cancel_left k (by decide : 0 < 4)]

theorem writeBar0_image (hn : off < 0x800000) : s.writeBar0 h (0x1000000 + off) v = .next (s.writeImage h off v) := by
  rw [State.writeBar0, if_neg (by omega), if_neg (by omega), if_neg (by omega), if_neg (by omega), if_neg (by omega),
    if_neg (by omega), if_neg (by omega), if_neg (by omega), if_pos (by omega), onSite_eq s _ hh, Nat.add_sub_cancel_left]

theorem writeBar0_reserved (hr : bar0Reserved off) : s.writeBar0 h off v = .next s := by
  unfold bar0Reserved at hr
  rw [State.writeBar0, if_neg (by omega), if_neg (by omega), if_neg (by omega), if_neg (by omega), if_neg (by omega),
    if_neg (by omega), if_neg (by omega), if_neg (by omega), if_neg (by omega), onSite_eq s _ hh]

end

/-! ### BRW_STEP_CMD (R343) -/

theorem stepCmd_reset (s : State) (h : Nat) {v : Word} (hn : fld v 3 0 = 15) : s.stepCmd h v = s.moduleReset (bitB v 31) := by
  simp [State.stepCmd, hn]

theorem stepCmd_none (s : State) (h : Nat) {v : Word} (hn : fld v 3 0 = 0 ∨ 12 ≤ fld v 3 0 ∧ fld v 3 0 ≤ 14) : s.stepCmd h v = s := by
  rw [State.stepCmd, if_neg (by omega), if_pos (by omega)]

theorem stepCmd_accepted (s : State) (h : Nat) {v : Word} (h1 : 1 ≤ fld v 3 0) (h11 : fld v 3 0 ≤ 11)
    (ha : s.helm.steps.accepts (fld v 3 0) = true) :
    s.stepCmd h v = s.onSteps (fun t => t.begin_ (fld v 3 0) (bitB v 30) (bitB v 31) s.cycle) := by
  rw [State.stepCmd, if_neg (by omega), if_neg (by omega), if_pos ha]

theorem stepCmd_rejected (s : State) (h : Nat) {v : Word} (h1 : 1 ≤ fld v 3 0) (h11 : fld v 3 0 ≤ 11)
    (ha : s.helm.steps.accepts (fld v 3 0) = false) : s.stepCmd h v = s.onBridge h (fun b => { b with rejected := true }) := by
  rw [State.stepCmd, if_neg (by omega), if_neg (by omega), if_neg (by simp [ha])]

/-! ### The image window (R289, R346) -/

theorem writeImage_gated {s : State} {h : Nat} (off : Nat) (v : Word) (hc : (s.bridge h).clocked 3 = false) :
    s.writeImage h off v = s.onBridge h (fun b => b.gatedHit 3) := by simp [State.writeImage, hc]

theorem writeImage_held {s : State} {h : Nat} (off : Nat) (v : Word) (hc : (s.bridge h).clocked 3 = true)
    (hr : s.helm.fw.running = true ∨ s.helm.steps.step = 3 ∧ s.helm.steps.state = 1) : s.writeImage h off v = s := by
  simp [State.writeImage, hc, hr]

theorem writeImage_taken {s : State} {h : Nat} (off : Nat) (v : Word) (hc : (s.bridge h).clocked 3 = true)
    (hr : s.helm.fw.running = false) (hv : ¬ (s.helm.steps.step = 3 ∧ s.helm.steps.state = 1)) :
    s.writeImage h off v = s.onBridge h (fun b => { b with imgWin := b.imgWin.write (cellsAt off (wordBytes v)) }) := by
  simp [State.writeImage, hc, hr, hv]

/-! ### MSI-X (R287) -/

/-- While no vector is pending nothing is sent. -/
theorem release_of_not_pending {b : Bridge} (hp : b.msixPending = 0) : b.release = b := by
  simp [Bridge.release, List.range_succ, bitB, hp]

theorem writeMsix_of_not_pending {b : Bridge} (k : Nat) (v : Word) (hp : b.msixPending = 0) :
    b.writeMsix k v = { b with msixTable := tset b.msixTable k (if k % 4 = 3 then v &&& 1#32 else v) } := release_of_not_pending hp

/-! ### Gated blocks (R271, R289) -/

theorem exec_gatedAccess (s : State) {h k : Nat} (w : Bool) (hh : h < 4) (h1 : 1 ≤ k) (h7 : k < 7) :
    exec (.gatedAccess h k w) s = .next (s.onBridge h (fun b =>
      if b.clocked k then b else if w then b.gatedHit k else { b.gatedHit k with lastRead := zeros 8 })) := by
  change execGatedAccess h k w s = _
  rw [execGatedAccess, if_neg (by omega), onSite_eq s _ hh]

theorem exec_brwClrCnt (s : State) {h : Nat} (hh : h < 4) : exec (.brwClrCnt h) s = .next (s.onBridge h Bridge.clrCnt) :=
  onSite_eq s (fun t => t.onBridge h Bridge.clrCnt) hh

/-! ### Sites (R168) -/

theorem exec_write_unit0 (s : State) (v : Word) {x y off : Nat} (hs : siteOk x y = true) (h4 : off % 4 = 0) (hn : off < 0x10000) :
    exec (.registerWrite (.unit0 x y off) v) s = .next (if (s.field (fieldOf x y)).rails then s.writeSite x y off v else s) := by
  rw [exec_registerWrite, execRegisterWrite, aligned_eq _ h4 hn, if_neg (by simp [hs])]

theorem writeSite_store {s : State} {x y off : Nat} (v : Word) (hn : off < 0x2000) (hb : s.bodyOut x y = false) :
    s.writeSite x y off v = s.onCell x y (fun c => c.writeStore (clsOf x y) off (v &&& storeBits off)) := by
  simp [State.writeSite, hn, hb]

theorem locked_of_not_idle {c : Cell} (f : Cell → Cell) (hc : c.state ≠ .idle) :
    c.locked f = { c with lockedWrite := true, lockedWrites := satInc c.lockedWrites } := if_pos hc

theorem locked_of_idle {c : Cell} (f : Cell → Cell) (hc : c.state = .idle) : c.locked f = f c := by simp [Cell.locked, hc]

/-- A cell with word `j` of slot `n` replaced. -/
def Cell.withSlotWord (c : Cell) (n j : Nat) (v : Word) : Cell :=
  { c with slots := tset c.slots n (setFld (c.slot n) (32 * j + 31) (32 * j) v.toNat) }

/-- Slot `n` of the store stands at 0x400 + 16 n, and is locked in a running cell (R38, R60). -/
theorem writeStore_slot (c : Cell) (k : Cls) (v : Word) {n j : Nat} (hn : n < 64) (hj : j < 4) :
    c.writeStore k (0x400 + 16 * n + 4 * j) v = c.locked (fun c => c.withSlotWord n j v) := by
  have hslot : (0x400 + 16 * n + 4 * j - 0x400) / 16 = n := by omega
  have hword : (0x400 + 16 * n + 4 * j) / 4 % 4 = j := by omega
  rw [Cell.writeStore, if_neg (by omega), if_neg (by omega), if_neg (by omega), if_neg (by omega), if_neg (by omega),
    if_neg (by omega), if_neg (by omega), if_neg (by omega), if_pos (by omega), hslot, hword]
  rfl

theorem withSlotWord_fld_same (c : Cell) (n : Nat) {j : Nat} (v : Word) (hj : j < 4) :
    fld ((c.withSlotWord n j v).slot n) (32 * j + 31) (32 * j) = v.toNat := by
  rw [Cell.withSlotWord, Cell.slot, tgetD_tset_same, fld_setFld_same _ _ (by omega) (by omega),
    show 32 * j + 31 + 1 - 32 * j = 32 by omega, Nat.mod_eq_of_lt v.isLt]

theorem withSlotWord_fld_other (c : Cell) (n : Nat) {j k : Nat} (v : Word) (hk : k < 4) (hkj : k ≠ j) :
    fld ((c.withSlotWord n j v).slot n) (32 * k + 31) (32 * k) = fld (c.slot n) (32 * k + 31) (32 * k) := by
  rw [Cell.withSlotWord, Cell.slot, tgetD_tset_same, fld_setFld_disjoint _ _ (by omega) (by omega) (by omega)]

theorem withSlotWord_slot_other (c : Cell) {n m : Nat} (j : Nat) (v : Word) (hm : m ≠ n) :
    (c.withSlotWord n j v).slot m = c.slot m := tgetD_tset_other _ _ _ hm

theorem withSlotWord_rest (c : Cell) (n j : Nat) (v : Word) : { c.withSlotWord n j v with slots := c.slots } = c := rfl

/-- A write of a word of a slot reaches the cell's store. -/
theorem exec_write_slot {s : State} (v : Word) {x y n j : Nat} (hs : siteOk x y = true) (hn : n < 64) (hj : j < 4)
    (hr : (s.field (fieldOf x y)).rails = true) (hb : s.bodyOut x y = false) :
    exec (.registerWrite (.unit0 x y (0x400 + 16 * n + 4 * j)) v) s = .next (s.onCell x y (fun c =>
      c.locked (fun c => c.withSlotWord n j (v &&& storeBits (0x400 + 16 * n + 4 * j))))) := by
  simp only [exec_write_unit0 s v hs (off := 0x400 + 16 * n + 4 * j) (by omega) (by omega), hr, if_true,
    writeSite_store v (off := 0x400 + 16 * n + 4 * j) (by omega) hb, writeStore_slot _ _ _ hn hj]

/-! ### Base dies and resolution stores (R170, R338) -/

theorem exec_write_baseDie (s : State) (v : Word) {f off : Nat} (hf : f < 144) (h4 : off % 4 = 0) (hn : off < 0x10000)
    (ht : ¬ (off = 0x200 ∧ fld v 2 0 = 5)) : exec (.registerWrite (.baseDie f off) v) s = .next (s.writeBase f off v) := by
  rw [exec_registerWrite, execRegisterWrite, aligned_eq _ h4 hn, onFld_eq s _ hf, if_neg ht]

theorem exec_write_reefReg (s : State) (v : Word) {f : Nat} (hf : f < 144) :
    exec (.registerWrite (.baseDie f 0x208) v) s = .next (s.onField f (fun q => { q with reefReg := BitVec.ofNat 4 (fld v 3 0) })) :=
  exec_write_baseDie s v hf rfl (by decide) (by simp)

/-- PWR_CMD TRIP is a trip of the field (R336). -/
theorem exec_write_baseDie_trip (s : State) {v : Word} {f : Nat} (hf : f < 144) (ht : fld v 2 0 = 5) :
    exec (.registerWrite (.baseDie f 0x200) v) s = .next (s.powerLost f) := by
  rw [exec_registerWrite, execRegisterWrite, aligned_eq _ rfl (by decide), onFld_eq s _ hf, if_pos ⟨rfl, ht⟩]

theorem exec_write_store (s : State) (v : Word) {f off : Nat} (hf : f < 144) (h4 : off % 4 = 0) (hn : off < 0x10000) :
    exec (.registerWrite (.store f off) v) s =
      .next (if (s.field f).rails then s.onField f (fun q => q.writeStore off v) else s) := by
  rw [exec_registerWrite, execRegisterWrite, aligned_eq _ h4 hn, onFld_eq s _ hf]

@[simp] theorem writeStore_lostGen (q : Field) (off : Nat) (v : Word) : (q.writeStore off v).lostGen = q.lostGen := by
  unfold Field.writeStore
  repeat' split
  all_goals rfl

end Sys2Proof.Machine

/-!
The parts of O17, one for each kind of target.
-/
namespace Sys2Proof.Claims
open Sys2Proof.Machine

section
variable {s : State} {v : Word} {h : Nat} (hh : h < 4)
include hh

theorem bridgeRegister_write {off : Nat} (hn : off < 0x10000) (h4 : off % 4 = 0) (hs : off ≠ 0x10) :
    BridgeBecomes s h (.registerWrite (.brw h off) v) ((s.bridge h).writeReg off v) ∧
      BridgeBecomes s h (.registerWrite (.bar0 h off) v) ((s.bridge h).writeReg off v) :=
  ⟨bridgeBecomes_of_onBridge (exec_write_brw s v hh h4 hn hs),
   bridgeBecomes_of_onBridge ((exec_write_bar0 s v h4 (by omega)).trans (writeBar0_brw s v hh hn hs))⟩

theorem stepCommand_write {i : RegTarget} (hi : i = .brw h 0x10 ∨ i = .bar0 h 0x10) :
    exec (.registerWrite i v) s = .next (s.stepCmd h v) := by
  rcases hi with rfl | rfl
  · exact exec_write_brw_stepCmd s v hh
  · exact (exec_write_bar0 s v rfl (by decide)).trans (writeBar0_stepCmd s v hh)

theorem stepCommand_begins {i : RegTarget} (hi : i = .brw h 0x10 ∨ i = .bar0 h 0x10) (h1 : 1 ≤ fld v 3 0) (h11 : fld v 3 0 ≤ 11)
    (ha : s.helm.steps.accepts (fld v 3 0) = true) :
    ∃ t, exec (.registerWrite i v) s = .next t ∧ Only s t { helm := true } ∧ t.helm = { s.helm with steps := { s.helm.steps with
      step := fld v 3 0, state := 1, fast := false, reason := 0, code := 0, runOn := bitB v 30, forceFull := bitB v 31,
      since := s.cycle } } := by
  refine ⟨_, stepCommand_write hh hi, ?_⟩
  rw [stepCmd_accepted s h h1 h11 ha]
  exact ⟨onHelm_only _ _, rfl⟩

theorem stepCommand_rejected {i : RegTarget} (hi : i = .brw h 0x10 ∨ i = .bar0 h 0x10) (h1 : 1 ≤ fld v 3 0) (h11 : fld v 3 0 ≤ 11)
    (ha : s.helm.steps.accepts (fld v 3 0) = false) :
    BridgeBecomes s h (.registerWrite i v) { s.bridge h with rejected := true } :=
  bridgeBecomes_of_onBridge ((stepCommand_write hh hi).trans (congrArg Host.Outcome.next (stepCmd_rejected s h h1 h11 ha)))

theorem image_write {off : Nat} (hn : off < 0x800000) (h4 : off % 4 = 0) {i : RegTarget}
    (hi : i = .image h off ∨ i = .bar0 h (0x1000000 + off)) : exec (.registerWrite i v) s = .next (s.writeImage h off v) := by
  rcases hi with rfl | rfl
  · exact exec_write_image s v hh h4 hn
  · exact (exec_write_bar0 s v (by omega) (by omega)).trans (writeBar0_image s v hh hn)

theorem msixTable_write {k : Nat} (hk : k < 16) :
    BridgeBecomes s h (.registerWrite (.msix h (4 * k)) v) ((s.bridge h).writeMsix k v) ∧
      BridgeBecomes s h (.registerWrite (.bar0 h (0x30000 + 4 * k)) v) ((s.bridge h).writeMsix k v) :=
  ⟨bridgeBecomes_of_onBridge (exec_write_msix s v hh hk),
   bridgeBecomes_of_onBridge ((exec_write_bar0 s v (by omega) (by omega)).trans (writeBar0_msix s v hh hk))⟩

theorem componentRegister_write {off : Nat} (hn : off < 0x10000) (h4 : off % 4 = 0) :
    BridgeBecomes s h (.registerWrite (.component h off) v) ((s.bridge h).writeHdm off v) ∧
      BridgeBecomes s h (.registerWrite (.bar0 h (0x20000 + off)) v) ((s.bridge h).writeComponent off v) :=
  ⟨bridgeBecomes_of_onBridge (exec_write_component s v hh h4 hn),
   bridgeBecomes_of_onBridge ((exec_write_bar0 s v (by omega) (by omega)).trans (writeBar0_component s v hh hn))⟩

theorem reserved_write {off : Nat} (h4 : off % 4 = 0) (hr : bar0Reserved off) :
    exec (.registerWrite (.bar0 h off) v) s = .next s :=
  (exec_write_bar0 s v h4 (by unfold bar0Reserved at hr; omega)).trans (writeBar0_reserved s v hh hr)

theorem gatedAccess_clocked {k : Nat} (w : Bool) (h1 : 1 ≤ k) (h7 : k < 7) (hc : (s.bridge h).clocked k = true) :
    ∃ t, exec (.gatedAccess h k w) s = .next t ∧ Only s t {} :=
  ⟨_, exec_gatedAccess s w hh h1 h7, onBridge_only_of_fixed s (by simp [hc])⟩

theorem gatedAccess_gated {k : Nat} (w : Bool) (h1 : 1 ≤ k) (h7 : k < 7) (hc : (s.bridge h).clocked k = false) :
    BridgeBecomes s h (.gatedAccess h k w) { s.bridge h with
      gatedCount := satInc (s.bridge h).gatedCount, gatedStatus := setBit (s.bridge h).gatedStatus k true,
      lastRead := if w then (s.bridge h).lastRead else zeros 8 } := by
  refine ⟨_, exec_gatedAccess s w hh h1 h7, onBridge_only s h _, ?_⟩
  cases w <;> simp [hc, Bridge.gatedHit]

end

theorem slotWrite_locked {s : State} {v : Word} {x y n j : Nat} (hs : siteOk x y = true) (hn : n < 64) (hj : j < 4)
    (hr : (s.field (fieldOf x y)).rails = true) (hb : s.bodyOut x y = false) (hc : (s.cell x y).state ≠ .idle) :
    ∃ t, exec (.registerWrite (.unit0 x y (0x400 + 16 * n + 4 * j)) v) s = .next t ∧ OnlyCell s t x y ∧
      t.cell x y = { s.cell x y with lockedWrite := true, lockedWrites := satInc (s.cell x y).lockedWrites } :=
  ⟨_, exec_write_slot v hs hn hj hr hb, onCell_onlyCell s x y _, by rw [onCell_cell_same, locked_of_not_idle _ hc]⟩

/-- In an idle cell a write of a slot's word replaces that word. -/
theorem slotWrite_idle {s : State} {v : Word} {x y n j : Nat} (hs : siteOk x y = true) (hn : n < 64) (hj : j < 4)
    (hr : (s.field (fieldOf x y)).rails = true) (hb : s.bodyOut x y = false) (hc : (s.cell x y).state = .idle) :
    ∃ t, exec (.registerWrite (.unit0 x y (0x400 + 16 * n + 4 * j)) v) s = .next t ∧ OnlyCell s t x y ∧
      t.cell x y = (s.cell x y).withSlotWord n j (v &&& storeBits (0x400 + 16 * n + 4 * j)) :=
  ⟨_, exec_write_slot v hs hn hj hr hb, onCell_onlyCell s x y _, by rw [onCell_cell_same, locked_of_idle _ hc]⟩

theorem store_write {s : State} {v : Word} {f off : Nat} (hf : f < 144) (hn : off < 0x10000) (h4 : off % 4 = 0)
    (hr : (s.field f).rails = true) :
    ∃ t, exec (.registerWrite (.store f off) v) s = .next t ∧ Only s t { fields := [f] } ∧
      t.field f = (s.field f).writeStore off v := by
  refine ⟨_, exec_write_store s v hf h4 hn, ?_⟩
  rw [if_pos hr]
  exact ⟨onField_only s f _ (writeStore_lostGen _ _ _), onField_field_same s f _⟩

end Sys2Proof.Claims

section
open Sys2Proof Sys2Proof.Machine Sys2Proof.Claims

/-- Settles O17: each target's write is one update of the object it names, and that update changes nothing else. -/
theorem registerWritesReachTheirRegister : Obligations.RegisterWritesReachTheirRegister := by
  unfold Obligations.RegisterWritesReachTheirRegister
  intro s v
  refine ⟨?bridge, ?clkStatus, ?site, ?slot, ?field, ?reef⟩
  case bridge =>
    intro h hh b gives
    refine ⟨?brw, ?stepCmd, ?image, ?msix, ?component, ?config, ?reserved, ?gated, ?clrCnt⟩
    case brw => exact fun off hn h4 hs => bridgeRegister_write hh hn h4 hs
    case stepCmd =>
      rintro i n hi rfl
      refine ⟨stepCommand_begins hh hi, stepCommand_rejected hh hi, fun hn => ?_, fun hn => ?_⟩
      · rw [stepCommand_write hh hi, stepCmd_none s h hn]
      · rw [stepCommand_write hh hi, stepCmd_reset s h hn]
    case image =>
      intro off hn h4
      refine ⟨fun i hi => ⟨fun hc => ?_, fun hc hr => ?_, fun hc hr hv => ?_⟩, fun a ha => memory_writeWord_byte_other _ v ha⟩
      · exact bridgeBecomes_of_onBridge ((image_write hh hn h4 hi).trans (congrArg Host.Outcome.next (writeImage_gated off v hc)))
      · rw [image_write hh hn h4 hi, writeImage_held off v hc hr]
      · exact bridgeBecomes_of_onBridge ((image_write hh hn h4 hi).trans (congrArg Host.Outcome.next (writeImage_taken off v hc hr hv)))
    case msix =>
      intro k hk
      obtain ⟨hmsix, hbar⟩ := msixTable_write (s := s) (v := v) hh hk
      exact ⟨hmsix, hbar, writeMsix_of_not_pending k v⟩
    case component => exact fun off hn h4 => componentRegister_write hh hn h4
    case config => exact fun r => bridgeBecomes_of_onBridge (exec_write_config s v hh r)
    case reserved => exact fun off h4 hr => reserved_write hh h4 hr
    case gated => exact fun k w h1 h7 => ⟨gatedAccess_clocked hh w h1 h7, gatedAccess_gated hh w h1 h7⟩
    case clrCnt => exact bridgeBecomes_of_onBridge (exec_brwClrCnt s hh)
  case clkStatus => exact ⟨_, rfl, onHelm_only s _, rfl⟩
  case site =>
    intro x y off hs hn h4
    rw [exec_write_unit0 s v hs h4 hn]
    exact ⟨fun hr => by simp [hr], fun hr => by simp [hr]⟩
  case slot =>
    intro x y n j hs hn hj hr hb c off
    refine ⟨slotWrite_locked hs hn hj hr hb, fun hc => ?_⟩
    obtain ⟨t, ht, honly, hcell⟩ := slotWrite_idle (v := v) hs hn hj hr hb hc
    refine ⟨t, ht, honly, ?_⟩
    rw [hcell]
    exact ⟨withSlotWord_fld_same c n _ hj, fun k hk hkj => withSlotWord_fld_other c n _ hk hkj,
      fun m hm => withSlotWord_slot_other c j _ hm, withSlotWord_rest c n j _⟩
  case field =>
    intro f off hf hn h4
    refine ⟨exec_write_baseDie s v hf h4 hn, ?_, fun hr => ?_, store_write hf hn h4⟩
    · rintro rfl ht
      exact exec_write_baseDie_trip s hf ht
    · simp [exec_write_store s v hf h4 hn, hr]
  case reef =>
    intro f hf
    exact ⟨_, exec_write_reefReg s v hf, onField_only s f _ rfl, onField_field_same s f _⟩

end

/-!
Liveness of elements, and the mask of an item's live elements (R92, R93, R94).
-/
namespace Sys2Proof.Machine

/-- An element is live when it lies in the tile and, with MSK_EN, in the live tiles and under the masks of the boundary tiles (R93). -/
theorem elemLive_iff (d : Desc) (m : BitVec 256) (p : Pos) (k : Nat) :
    elemLive d m p k = true ↔ p.r < d.rows ∧ k < d.cols ∧
      (d.mskEn = true → p.t0 < d.live0 ∧ p.t1 < d.live1 ∧ (p.t0 + 1 = d.live0 → m.getLsbD (128 + k) = true) ∧
        (p.t1 + 1 = d.live1 → m.getLsbD p.r = true)) := by
  cases hm : d.mskEn with
  | false => simp [elemLive, hm]
  | true => simp [elemLive, hm, colMask, rowMask, and_assoc, Decidable.imp_iff_not_or]

/-- Without MSK_EN neither the live counts nor the mask entry matter (R93). -/
theorem elemLive_unmasked {d : Desc} (hd : d.mskEn = false) (m m' : BitVec 256) (p : Pos) (k a b : Nat) :
    elemLive { d with live0 := a, live1 := b } m' p k = elemLive d m p k := by
  simp [elemLive, hd]

/-- The sum of the powers of two whose exponents below `n` a test accepts. -/
def maskUpTo (f : Nat → Bool) (n : Nat) : Nat := (List.range n).foldl (fun m k => if f k then m + 2 ^ k else m) 0

theorem liveMask_eq_maskUpTo (d : Desc) (m : BitVec 256) (p : Pos) :
    liveMask d m p = maskUpTo (fun k => elemLive d m p (p.c * epi d.fmt + k)) (epi d.fmt) := rfl

theorem maskUpTo_succ (f : Nat → Bool) (n : Nat) : maskUpTo f (n + 1) = if f n then maskUpTo f n + 2 ^ n else maskUpTo f n := by
  simp [maskUpTo, List.range_succ]

theorem maskUpTo_lt (f : Nat → Bool) (n : Nat) : maskUpTo f n < 2 ^ n := by
  induction n with
  | zero => exact Nat.one_pos
  | succ n ih =>
    rw [maskUpTo_succ, Nat.pow_succ]
    split <;> omega

/-- The bits of the sum are the accepted exponents. -/
theorem testBit_maskUpTo (f : Nat → Bool) (n k : Nat) : (maskUpTo f n).testBit k = (decide (k < n) && f k) := by
  induction n with
  | zero => simp [maskUpTo]
  | succ n ih =>
    rcases Nat.lt_trichotomy k n with hk | rfl | hk
    · rw [maskUpTo_succ, Nat.add_comm (maskUpTo f n)]
      split <;> simp [Nat.testBit_two_pow_add_gt hk, ih, hk, Nat.lt_succ_of_lt hk]
    · rw [maskUpTo_succ, Nat.add_comm (maskUpTo f k)]
      cases f k <;> simp [ Nat.testBit_two_pow_add_eq, ih]
    · have habove : maskUpTo f (n + 1) < 2 ^ k :=
        Nat.lt_of_lt_of_le (maskUpTo_lt f (n + 1)) (Nat.pow_le_pow_right (by decide) hk)
      simp [Nat.testBit_lt_two_pow habove, Nat.not_lt.2 hk]

theorem testBit_liveMask (d : Desc) (m : BitVec 256) (p : Pos) (k : Nat) :
    (liveMask d m p).testBit k = (decide (k < epi d.fmt) && elemLive d m p (p.c * epi d.fmt + k)) := by
  rw [liveMask_eq_maskUpTo, testBit_maskUpTo]

/-- A row without a live element has an empty mask. -/
theorem liveMask_eq_zero {d : Desc} {m : BitVec 256} {p : Pos} (h : ∀ j, elemLive d m p j = false) : liveMask d m p = 0 :=
  Nat.eq_of_testBit_eq (fun k => by simp [testBit_liveMask, h])

/-- A dead item reads as zero (R94). -/
@[simp] theorem readItem_dead (mem : Memory) (lim : Nat) (d : Desc) (p : Pos) : readItem mem lim d p 0 = 0 := rfl

end Sys2Proof.Machine

section
open Sys2Proof Sys2Proof.Machine Sys2Proof.Claims

/-- Settles O44: the live mask is a sum of distinct powers of two, so that its bits are the live elements. -/
theorem elementsAreLiveUnderMasks : Obligations.ElementsAreLiveUnderMasks := by
  unfold Obligations.ElementsAreLiveUnderMasks
  intro d m p k
  refine ⟨elemLive_iff d m p k, testBit_liveMask d m p k, fun hd m' a b => elemLive_unmasked hd m m' p k a b, ?dead⟩
  case dead =>
    intro mem lim h
    rw [liveMask_eq_zero (h p.r), readItem_dead]

end

/-!
The issue of a slot in the terms of the statements: what becomes of the queues, and what a firing or a bad operand changes.
-/
namespace Sys2Proof.Machine

/-- A queue after its head item was popped in pulse `pulse`; an inbound one (`dir` 1) owes its stream a credit (R33). -/
def Queue.popped (v : Queue) (pulse cycle dir : Nat) : Queue :=
  { v with hw := v.hw.drop 1, lastPop := some pulse, owed := if dir = 1 then v.owed ++ [(cycle, [])] else v.owed }

theorem pop_queue (c : Cell) (cycle q j : Nat) :
    (c.pop cycle q).queue j = if j = q then (c.queue q).popped c.pulse cycle (qDir c q) else c.queue j :=
  setQueue_queue _ _ _ _

/-- Pops of queues named once each: a queue that is named is popped once, and no other is touched. -/
theorem pops_queue (l : List Nat) (c : Cell) (cycle j : Nat) (h : l.Nodup) :
    (l.foldl (fun c q => c.pop cycle q) c).queue j = if j ∈ l then (c.queue j).popped c.pulse cycle (qDir c j) else c.queue j := by
  induction l generalizing c with
  | nil => simp
  | cons q l ih =>
    obtain ⟨hq, hl⟩ := List.nodup_cons.1 h
    have hpulse : (c.pop cycle q).pulse = c.pulse := rfl
    have hdir : qDir (c.pop cycle q) j = qDir c j := rfl
    rw [List.foldl_cons, ih _ hl, pop_queue, hpulse, hdir]
    by_cases hj : j = q
    · subst hj; simp [hq]
    · simp [hj]

theorem take_queue (c : Cell) (cycle n : Nat) (p : Plan) (q : Nat) :
    (c.take cycle n p).queue q = if q ∈ p.pops then (c.queue q).popped c.pulse cycle (qDir c q) else c.queue q := by
  have h := pops_queue (dedup p.pops) c cycle q (dedup_nodup _)
  rw [take_eq]
  simp only [mem_dedup] at h
  exact h

@[simp] theorem take_pc (c : Cell) (cycle n : Nat) (p : Plan) : (c.take cycle n p).pc = c.pc := by rw [take_eq]

theorem advance_walkPos (c : Cell) (i j : Nat) :
    (c.advance i 1).walkPos j = if j = i then (c.walkPos i + 1) % (c.desc i).steps else c.walkPos j :=
  tgetD_tset _ _ _ _ _

end Sys2Proof.Machine

namespace Sys2Proof.Claims
open Sys2Proof.Machine

/-- The op's own part `d` of a firing leaves to the issue what the issue decides. -/
structure IssuesFrom (c d : Cell) : Prop where
  queues  : d.queues = c.queues
  qcfg    : d.qcfg = c.qcfg
  slots   : d.slots = c.slots
  firings : d.firings = c.firings
  pulse   : d.pulse = c.pulse

/-- The issue of a slot whose op's own part is `d`. -/
theorem take_issued {s : State} {x y n : Nat} {d : Cell} {p : Plan} (h : IssuesFrom (s.cell x y) d)
    (hruns : ∀ m, m ≠ n → d.run m = (s.cell x y).run m) : Issued s x y (d.take s.cycle n p) n p (d.run n) := by
  obtain ⟨hq, hcfg, hslots, hfirings, hpulse⟩ := h
  have hqueue : ∀ q, d.queue q = (s.cell x y).queue q := fun q => by rw [Cell.queue, Cell.queue, hq]
  have hdir : ∀ q, qDir d q = qDir (s.cell x y) q := fun q => by rw [qDir, qDir, hcfg]
  have hslot : d.slot n = (s.cell x y).slot n := by rw [Cell.slot, Cell.slot, hslots]
  have htaken : ∀ q, (d.take s.cycle n p).queue q = if q ∈ p.pops then
      ((s.cell x y).queue q).popped d.pulse s.cycle (qDir (s.cell x y) q) else (s.cell x y).queue q := fun q => by
    rw [take_queue, hqueue, hdir]
  exact {
    firings := by rw [take_firings, hfirings]
    units   := fun u hu => by
      rw [take_eq, ← hpulse]
      exact List.mem_append_left _ (List.mem_map.2 ⟨u, hu, rfl⟩)
    own     := by rw [take_run, if_pos rfl, hslot]
    others  := fun m hm => by rw [take_run, if_neg hm, hruns m hm]
    popped  := fun q => by rw [htaken]; split <;> rfl
    ring    := fun q => by rw [htaken]; split <;> rfl
    credits := fun q => by rw [htaken]; split <;> rfl
    owed    := fun q => by
      rw [htaken]
      by_cases hp : q ∈ p.pops <;> by_cases hd : qDir (s.cell x y) q = 1 <;> simp [hp, hd, Queue.popped] }

/-- A firing that sends nothing and freezes nothing changes its own cell alone. -/
theorem finish_fired_onlyCell (s : State) (x y n : Nat) (p : Plan) (d : Cell) : OnlyCell s (s.finish x y n p (fired d)) x y where
  pending    := rfl
  cycle      := rfl
  mono       := rfl
  slowAt     := rfl
  fresh      := rfl
  fields     := rfl
  lanes      := rfl
  bridges    := rfl
  partitions := rfl
  sessions   := rfl
  helm       := rfl
  cells      := fun _ _ h => finish_cell_other s p _ h
  routers    := fun _ _ h => finish_router_other s p _ h
  router     := by simp [fired, finish_router]

/-- An operand that cannot be read freezes its cell, and nothing else happens (R183). -/
theorem finish_firedBad_froze (s : State) (x y n ix : Nat) (p : Plan) (a : Dword) :
    Froze s (s.finish x y n p (firedBad (s.cell x y) ix a)) x y memUncorrectable ix 0 a where
  only := {
    pending    := rfl
    cycle      := rfl
    mono       := rfl
    slowAt     := rfl
    fresh      := rfl
    fields     := rfl
    lanes      := rfl
    bridges    := rfl
    partitions := rfl
    sessions   := rfl
    helm       := rfl
    cells      := fun _ _ h => finish_cell_other s p _ h
    routers    := fun _ _ h => finish_router_other s p _ h
    router     := by simp [State.finish, firedBad, State.freezeCell, State.report] }
  cell := by
    have hcell : (s.finish x y n p (firedBad (s.cell x y) ix a)).cell x y = (s.cell x y).freeze memUncorrectable := by
      simp [State.finish, firedBad, State.freezeCell, State.report]
    rw [hcell]
    exact ⟨rfl, rfl, rfl, rfl, rfl, rfl⟩

/-- A slot that is ready fires: its op's body runs and the issue is taken. -/
theorem fire_of_ready {s : State} {x y n : Nat} {isOp : Cls → BitVec 128 → Bool} {p : Plan} (h : Ready s x y n isOp p)
    (body : Cls → Cell → Plan → Fired) :
    s.fire x y n isOp body = .next (s.finish x y n p (body (clsOf x y) (s.cell x y) p)) := by
  obtain ⟨⟨hsite, hslot, hbody, hclock, hop, hready, hwins⟩, hstore, hqueue⟩ := h
  exact fire_ready hsite hslot hbody hclock hop hready hwins hstore hqueue

end Sys2Proof.Claims

/-!
CH_READ and CH_WRITE: each branch of their bodies is one update of the cell (R98, R173, R175, R180).
-/
namespace Sys2Proof.Machine

/-- The own part of a CH_READ or CH_WRITE: descriptor `i` steps, op `o` is in flight, and the channel controller is `pc`. -/
def Cell.chFired (c : Cell) (i : Nat) (o : Op) (pc : PChan) : Cell := { (c.advance i 1).addOp o with pc := pc }

@[simp] theorem chFired_run (c : Cell) (i : Nat) (o : Op) (pc : PChan) (m : Nat) : (c.chFired i o pc).run m = c.run m := rfl
@[simp] theorem chFired_walkPos (c : Cell) (i : Nat) (o : Op) (pc : PChan) (j : Nat) :
    (c.chFired i o pc).walkPos j = (c.advance i 1).walkPos j := rfl
@[simp] theorem chFired_aflags (c : Cell) (i : Nat) (o : Op) (pc : PChan) : (c.chFired i o pc).aflags = c.aflags := rfl
@[simp] theorem chFired_ops (c : Cell) (i : Nat) (o : Op) (pc : PChan) : (c.chFired i o pc).ops = c.ops ++ [o] := rfl
@[simp] theorem chFired_pc (c : Cell) (i : Nat) (o : Op) (pc : PChan) : (c.chFired i o pc).pc = pc := rfl

/-- Which lines a descriptor still uses depends on the cell's descriptor table alone. -/
theorem usedLater_congr {c c' : Cell} (h : c'.descs = c.descs) (d : Desc) (line k step : Nat) :
    usedLater c' d line k step = usedLater c d line k step := by
  induction k generalizing step with
  | zero => rfl
  | succ k ih =>
    have hlines : itemLines c' d step = itemLines c d step := by
      simp only [itemLines, Cell.maskOf, Cell.descWord, h]
    rw [usedLater, usedLater, ih, hlines]

/-- Counting a hit and holding an op in flight change nothing of which lines are freed. -/
theorem freeLines_addOp_pcCount (c : Cell) (o : Op) (k v n i : Nat) :
    freeLines ((c.addOp o).pcCount k v) n i = freeLines c n i := by
  have hused : ∀ d line j step, usedLater ((c.addOp o).pcCount k v) d line j step = usedLater c d line j step :=
    usedLater_congr rfl
  simp only [freeLines, hused]
  rfl

section
variable (t : Memory) (m x y n : Nat) (k : Cls) (c : Cell) (p : Plan)

/-- An item with no live element reads nothing. -/
theorem bodyChRead_dead (h : itemLines c (c.desc (sOpa (c.slot n) % 128)) (c.walkPos (sOpa (c.slot n) % 128)) = []) :
    bodyChRead t m x y n k c p =
      fired (c.chFired (sOpa (c.slot n) % 128) (opOf c n (c.pulse + 3) (outsOf (dstQs (c.slot n)) 0)) c.pc) := by
  simp only [bodyChRead, h, if_true]
  rfl

/-- From buffered lines an item is due in three pulses, and a line that no coming step uses is freed (R175). -/
theorem bodyChRead_hit :
    let i := sOpa (c.slot n) % 128
    let d := c.desc i
    let lines := itemLines c d (c.walkPos i)
    let st := (strmOf c i).getD 8
    lines ≠ [] → st < 8 ∧ lines.all (fun a => (lineAt c st a).isSome) = true → badInLines c (lineAt c st) d (c.walkPos i) = none →
    bodyChRead t m x y n k c p = fired (c.chFired i
      (opOf c n (c.pulse + 3) (outsOf (dstQs (c.slot n)) (itemFromLines c (lineAt c st) d (c.walkPos i))))
      { c.pc with cnt := cntAdd c.pc.cnt 0 1, lines := freeLines (c.advance i 1) st i }) := by
  intro i d lines st hlive hhit hgood
  simp only [i, d, lines, st] at hlive hhit hgood
  simp only [bodyChRead, hlive, if_false, if_pos hhit, hgood, freeLines_addOp_pcCount]
  rfl

/-- An uncorrectable word among the live bytes stops the read (R183). -/
theorem bodyChRead_bad (b : Nat) :
    let i := sOpa (c.slot n) % 128
    let d := c.desc i
    let lines := itemLines c d (c.walkPos i)
    let st := (strmOf c i).getD 8
    lines ≠ [] → st < 8 ∧ lines.all (fun a => (lineAt c st a).isSome) = true → badInLines c (lineAt c st) d (c.walkPos i) = some b →
    bodyChRead t m x y n k c p = firedBad c n (towerAddr m (fieldOf x y) (towerOff (chanOf x y) (8 * b))) := by
  intro i d lines st hlive hhit hbad
  simp only [i, d, lines, st] at hlive hhit hbad
  simp only [bodyChRead, hlive, if_false, if_pos hhit, hbad]

/-- An item that lacks a line waits, for what the channel holds now (R98, R175). -/
theorem bodyChRead_miss :
    let i := sOpa (c.slot n) % 128
    let d := c.desc i
    let lines := itemLines c d (c.walkPos i)
    let st := (strmOf c i).getD 8
    let now := lineNow c t (chanOf x y)
    let need := lines.filter (fun a => st = 8 || ! (heldLines c st).contains a)
    lines ≠ [] → ¬ (st < 8 ∧ lines.all (fun a => (lineAt c st a).isSome) = true) →
    bodyChRead t m x y n k c p = fired (c.chFired i
      { opOf c n (c.pulse + 3) (outsOf (dstQs (c.slot n)) 0) with fixed := false, waiting := true }
      { c.pc with
        cnt := cntAdd c.pc.cnt 1 1,
        waits := c.pc.waits ++ [{ opId := c.nextOp, stream := st, step := c.walkPos i, desc := i, lines := lines }],
        fetches := c.pc.fetches.map (fun q => if q.stream = st && ! q.dead && q.taken.isNone && lines.contains q.addr then
          { q with taken := some (now st q.addr) } else q) ++ missFetches c st c.nextOp now need }) := by
  intro i d lines st now need hlive hmiss
  simp only [i, d, lines, st] at hlive hmiss
  simp only [bodyChRead, hlive, if_false, if_neg hmiss]
  rfl

/-- A write of no byte posts nothing. -/
theorem bodyChWrite_nothing (h : chWriteCells c n = []) :
    bodyChWrite x y n k c p = fired (c.chFired (sOpa (c.slot n) % 128) (opOf c n (c.pulse + 3) []) c.pc) := by
  simp only [bodyChWrite, h]
  rfl

/-- The bytes of a write enter the posted write buffer; in a host-scope page the write waits there (R173, R180). -/
theorem bodyChWrite_posts {q : Host.Cell} {u : List Host.Cell} (h : chWriteCells c n = q :: u) :
    bodyChWrite x y n k c p = fired (c.chFired (sOpa (c.slot n) % 128)
      { opOf c n (c.pulse + 3) [] with fixed := ! hostScope c q.1, waiting := hostScope c q.1 }
      { c.pc with
        pwb := c.pc.pwb ++ pwbOf (chanOf x y) (chWriteCells c n) none (if hostScope c q.1 then some c.nextOp else none) }) := by
  simp only [bodyChWrite, h]
  rfl

end
end Sys2Proof.Machine

namespace Sys2Proof.Claims
open Sys2Proof.Machine

/-- The firing of a CH_READ or CH_WRITE through descriptor `i`: op `o` is in flight and the channel controller is `pc`. -/
structure ChannelFiring (s t : State) (x y n : Nat) (p : Plan) (i : Nat) (o : Op) (pc : PChan) : Prop where
  only   : OnlyCell s t x y
  issued : Issued s x y (t.cell x y) n p ((s.cell x y).run n)
  walk   : ∀ j, (t.cell x y).walkPos j = stepped (s.cell x y) [i] j
  flags  : (t.cell x y).aflags = (s.cell x y).aflags
  rest   : rest { t.cell x y with pc := (s.cell x y).pc, walk := (s.cell x y).walk } = rest (s.cell x y)
  ops    : (t.cell x y).ops = (s.cell x y).ops ++ [o]
  chan   : (t.cell x y).pc = pc

theorem chFired_issuesFrom (c : Cell) (i : Nat) (o : Op) (pc : PChan) : IssuesFrom c (c.chFired i o pc) := ⟨rfl, rfl, rfl, rfl, rfl⟩

theorem rest_take_chFired (c : Cell) (i : Nat) (o : Op) (pc : PChan) (cycle n : Nat) (p : Plan) :
    rest { (c.chFired i o pc).take cycle n p with pc := c.pc, walk := c.walk } = rest c := by
  rw [take_eq]; rfl

theorem channelFiring_of_chFired {s : State} {x y n : Nat} {isOp : Cls → BitVec 128 → Bool} {p : Plan} (h : Ready s x y n isOp p)
    {body : Cls → Cell → Plan → Fired} {i : Nat} {o : Op} {pc : PChan}
    (hbody : body (clsOf x y) (s.cell x y) p = fired ((s.cell x y).chFired i o pc)) :
    ∃ t, s.fire x y n isOp body = .next t ∧ ChannelFiring s t x y n p i o pc := by
  refine ⟨_, fire_of_ready h body, ?_⟩
  rw [hbody]
  have hcell : (s.finish x y n p (fired ((s.cell x y).chFired i o pc))).cell x y =
      ((s.cell x y).chFired i o pc).take s.cycle n p := finish_cell ..
  refine ⟨finish_fired_onlyCell s x y n p _, ?issued, ?walk, ?flags, ?rest, ?ops, ?chan⟩ <;> rw [hcell]
  case issued =>
    have hissued := take_issued (p := p) (chFired_issuesFrom (s.cell x y) i o pc) (n := n) (fun m _ => chFired_run _ i o pc m)
    rwa [chFired_run] at hissued
  case walk =>
    intro j
    rw [take_walkPos, chFired_walkPos, advance_walkPos, stepped]
    by_cases hj : j = i <;> simp [hj]
  case flags => rw [take_aflags, chFired_aflags]
  case rest => exact rest_take_chFired ..
  case ops => rw [take_ops, chFired_ops]
  case chan => rw [take_pc, chFired_pc]

end Sys2Proof.Claims

section
open Sys2Proof Sys2Proof.Machine Sys2Proof.Claims

/-- Settles O4: in each branch of its body the op's own part is one step of the descriptor, one op in flight and one change of the channel
controller; the issue leaves all of it alone. -/
theorem channelSlotsReadAndPost : Obligations.ChannelSlotsReadAndPost := by
  unfold Obligations.ChannelSlotsReadAndPost
  intro s x y n p c w i d lines st tw now need l keeps
  have kept : ∀ {t : State} {o : Op} {pc : PChan}, ChannelFiring s t x y n p i o pc → keeps t := fun f =>
    ⟨f.only, f.issued, f.walk, f.flags, f.rest⟩
  refine ⟨fun hready => ⟨?dead, ?hit, ?miss⟩, fun hready => ⟨?nothing, ?posts⟩⟩
  case dead =>
    intro hdead
    obtain ⟨t, ht, f⟩ := channelFiring_of_chFired hready (bodyChRead_dead tw s.myMod x y n _ c p hdead)
    exact ⟨t, ht, kept f, ⟨_, f.ops, rfl, rfl, rfl, rfl, rfl, rfl, rfl, rfl, rfl⟩, f.chan⟩
  case hit =>
    intro hlive hst hall
    refine ⟨fun hgood => ?_, fun b hbad => ?_⟩
    · obtain ⟨t, ht, f⟩ := channelFiring_of_chFired hready (bodyChRead_hit tw s.myMod x y n _ c p hlive ⟨hst, hall⟩ hgood)
      exact ⟨t, ht, kept f, ⟨_, f.ops, rfl, rfl, rfl, rfl, rfl, rfl, rfl, rfl, rfl⟩, f.chan⟩
    · refine ⟨_, fire_of_ready hready _, ?_⟩
      rw [bodyChRead_bad tw s.myMod x y n _ c p b hlive ⟨hst, hall⟩ hbad]
      exact finish_firedBad_froze s x y n n p _
  case miss =>
    intro hlive hmiss
    obtain ⟨t, ht, f⟩ := channelFiring_of_chFired hready (bodyChRead_miss tw s.myMod x y n _ c p hlive hmiss)
    exact ⟨t, _, ht, kept f, f.ops, rfl, rfl, rfl, rfl, f.chan⟩
  case nothing =>
    intro hnone
    obtain ⟨t, ht, f⟩ := channelFiring_of_chFired hready (bodyChWrite_nothing x y n _ c p hnone)
    exact ⟨t, ht, kept f, ⟨_, f.ops, rfl, rfl, rfl, rfl, rfl, rfl, rfl, rfl, rfl⟩, f.chan⟩
  case posts =>
    intro q u hsome
    obtain ⟨t, ht, f⟩ := channelFiring_of_chFired hready (bodyChWrite_posts x y n _ c p hsome)
    exact ⟨t, _, ht, kept f, f.ops, rfl, rfl, rfl, rfl, f.chan⟩

end

/-!
PROGRAM_UNLOAD of a program that is active (R244, R246): which cells a removal leaves alone, and a partition that shows that `Unloaded`
asks for more. `State.cell` answers for every pair of numbers, and (576, 0), which is no site, has the number of site (0, 1) of field 0 but
counts as a place of field 12.
-/
namespace Sys2Proof.Claims
open Sys2Proof.Machine

/-- The removal of a program leaves every cell whose number is none of the partition's sites. -/
theorem Removed.cell_other {s t : State} {p k : Nat} (h : Removed s t p k) {u v : Nat}
    (hout : ∀ q ∈ (rectFields (s.part p).rect).flatMap fieldSites, siteIx u v ≠ siteIx q.1 q.2) : t.cell u v = s.cell u v := by
  obtain ⟨d, hdropped, hresident, hactive⟩ := h
  have hd : d.cell u v = s.cell u v := hdropped.only.cells u v nofun
  by_cases hk : (s.part p).activeSlot = some k
  · obtain ⟨w, hw, -, hunloaded⟩ := hactive hk
    calc t.cell u v = w.cell u v := hunloaded.only.cells u v hout
      _ = d.cell u v := hw.cells u v nofun
      _ = s.cell u v := hd
  · exact ((hresident hk).1.cells u v nofun).trans hd

end Sys2Proof.Claims

namespace Sys2Proof.Machine

/-- A field takes whole rows of sites: those of field `f` begin at row 48 (f / 12). -/
theorem le_of_mem_fieldSites {f : Nat} {q : Nat × Nat} (h : q ∈ fieldSites f) : 48 * (f / 12) ≤ q.2 := by
  simp only [fieldSites, List.mem_flatMap, List.mem_map, List.mem_range] at h
  obtain ⟨j, -, i, -, rfl⟩ := h
  exact Nat.le_add_right _ _

/-- A program without cells. -/
def emptyProgram : Program :=
  { measurement := [], signed := false, module := 0, mode := 0, rect := 0, ndim := 0, nin := 0, nout := 0, fullCoverage := false, kSkew := 0,
    saveSize := 0, kvMin := 0, histMin := 0, sites := [], routing := [], buffers := [], ladders := [], bounds := [], patches := [],
    masks := [], session := [], hist := [], sights := [], dfx := 0, dfy := 0, syncUse := [], peers := [] }

/-- PROGRAM_UNLOAD of slot 0. -/
def unloadCmd : MbxCmd :=
  { slot := 0, opcode := 0x05, version := 1, flags := 0, tag := 7, length := 1, resv := false, body := [0], arrival := 0, accepted := false }

/-- Partition 0 is field (0, 1) alone, number 12; its program in slot 0 is active, and its host site asks to unload it. -/
def unloading : State :=
  { State.reset with
    bridges := [(0, { Bridge.reset with executing := [unloadCmd] })],
    partitions := [(0, { Partition.reset with
      rect := 0x80000101#32, programs := [(0, { prog := emptyProgram, save := 0, saved := none, comb := none })], activeSlot := some 0 })],
    helm := { State.reset.helm with fw := { State.reset.helm.fw with running := true }, service := true } }

theorem unloading_called : Claims.Called unloading 0 0x05 7 unloadCmd where
  site := by decide
  cmd := by decide +kernel
  running := rfl
  service := .inl rfl
  turn := fun _ => by decide +kernel

theorem unloading_resident : unloading.program 0 (byteAt unloadCmd.body 0) ≠ none := by decide +kernel

theorem unloading_idle : unloading.slotRuns 0 (byteAt unloadCmd.body 0) = false := by decide +kernel

theorem unloading_fields : rectFields (unloading.part 0).rect = [12] := by decide +kernel

/-- (576, 0) is none of the partition's sites. -/
theorem unloading_off_mesh : ∀ q ∈ (rectFields (unloading.part 0).rect).flatMap fieldSites, siteIx 576 0 ≠ siteIx q.1 q.2 := by
  intro q hq
  rw [unloading_fields, List.flatMap_cons, List.flatMap_nil, List.append_nil] at hq
  have hrow := le_of_mem_fieldSites hq
  simp only [siteIx]
  omega

/-- Before the command (576, 0) reads as a cell after reset, after it as one that was lost in the draw of field 12. -/
theorem unloading_changes : ∀ t, exec (.programUnload 0 7) unloading = .next t → (t.cell 576 0).accGen ≠ (unloading.cell 576 0).accGen := by
  have hnext : (match exec (.programUnload 0 7) unloading with
      | .next t => decide ((t.cell 576 0).accGen ≠ (unloading.cell 576 0).accGen)
      | _ => true) = true := by decide +kernel
  intro t ht
  rw [ht] at hnext
  exact of_decide_eq_true hnext

end Sys2Proof.Machine

section
open Sys2Proof Sys2Proof.Machine Sys2Proof.Claims

/-- Refutes O20: of a program that is active, `Removed` says that no cell outside `fieldSites` of the partition's fields changes. `State.cell`
takes the contents of a cell that nothing has listed from the field that `fieldOf` gives, and (576, 0), which is no site, lies in field 12 by
`fieldOf` while its number is that of site (0, 1) in field 0. A partition of field 12 alone loses its program: the draw of field 12 changes,
and with it what (576, 0) reads, though that is none of the partition's sites. The coordinates lie outside the mesh: the clause would have to
be asked of sites only. -/
theorem not_programsAndSessionsComeAndGo : ¬ Obligations.ProgramsAndSessionsComeAndGo := by
  unfold Obligations.ProgramsAndSessionsComeAndGo
  intro h
  obtain ⟨-, hunload, -, -⟩ := h unloading 0 7 unloadCmd []
  obtain ⟨-, -, hleaves⟩ := hunload unloading_called
  obtain ⟨u, t, hexec, hremoved, honly, -⟩ := hleaves unloading_resident unloading_idle
  have hsame : t.cell 576 0 = unloading.cell 576 0 :=
    (honly.cells 576 0 nofun).symm ▸ hremoved.cell_other unloading_off_mesh
  exact unloading_changes t hexec (congrArg Cell.accGen hsame)

end

/-!
The probes of the hash table, and what a record changes of it (R126, R127).
-/
namespace Sys2Proof.Machine

theorem or_one_eq (x : Nat) : x ||| 1 = x / 2 * 2 + 1 := by
  have hhalf : (x ||| 1) / 2 = x / 2 := by simp [Nat.or_div_two]
  have hlow : (x ||| 1) % 2 = 1 := Nat.or_mod_two_eq_one.2 (.inr rfl)
  omega

/-- The first set and the step between sets are bit fields of the key's product, the step with its bit 0 set (R126). -/
theorem hProbe_eq (K : Word) (p : Nat) :
    let h := K * 0x9E3779B1#32
    hProbe K.toNat p = ((h.extractLsb' 22 10).toNat + p * ((h.extractLsb' 12 10) ||| 1#10).toNat) % 1024 := by
  intro h
  have hproduct : h.toNat = K.toNat * 0x9E3779B1 % 2 ^ 32 := BitVec.toNat_mul ..
  have hstart : (h.extractLsb' 22 10).toNat = h.toNat / 2 ^ 22 := by
    rw [BitVec.extractLsb'_toNat, Nat.shiftRight_eq_div_pow]
    omega
  have hstep : ((h.extractLsb' 12 10) ||| 1#10).toNat = h.toNat / 2 ^ 12 % 1024 / 2 * 2 + 1 := by
    rw [BitVec.toNat_or, BitVec.extractLsb'_toNat, Nat.shiftRight_eq_div_pow]
    exact or_one_eq _
  rw [hProbe, hstart, hstep, hproduct]

/-- The step between a key's sets is odd, and so prime to their number: its first 1,024 probes examine different sets (R126). -/
theorem hProbe_ne_of_lt (key : Nat) {p q : Nat} (hpq : p < q) (hq : q < 1024) : hProbe key p ≠ hProbe key q := by
  intro h
  have hodd : ∀ u, Nat.Coprime 1024 (u * 2 + 1) := fun u => Nat.Coprime.pow_left 10 (show Nat.gcd 2 (u * 2 + 1) = 1 by simp)
  have hgap := Nat.sub_mod_eq_zero_of_mod_eq h.symm
  rw [Nat.add_sub_add_left, ← Nat.sub_mul] at hgap
  have hdvd : 1024 ∣ q - p := (hodd _).dvd_of_dvd_mul_right (Nat.dvd_of_mod_eq_zero hgap)
  have hle : 1024 ≤ q - p := Nat.le_of_dvd (by omega) hdvd
  omega

theorem hProbe_nodup (key : Nat) : ((List.range 4).map (hProbe key)).Nodup := by
  refine List.pairwise_map.2 (List.pairwise_lt_range.imp_of_mem (fun _ hq hlt => ?_))
  have hfour := List.mem_range.1 hq
  exact hProbe_ne_of_lt key hlt (by omega)

theorem set_of_mem_hWays {t : Tbl (BitVec 128)} {set : Nat} {e : Nat × BitVec 128} (h : e ∈ hWays t set) : e.1 / 4 = set := by
  obtain ⟨w, hw, rfl⟩ := List.mem_map.1 h
  rw [List.mem_range] at hw
  simp only
  omega

/-- A record writes at most one entry, which lies in a set that it probes (R127). -/
theorem hAdd_writes (t : Tbl (BitVec 128)) (r : BitVec 128) (ps : List Nat) :
    (hAdd t r ps).1 = t ∨ ∃ p ∈ ps, ∃ k v, k / 4 = hProbe (hKey r) p ∧ (hAdd t r ps).1 = tset t k v := by
  induction ps with
  | nil => exact .inl rfl
  | cons p ps ih =>
    simp only [hAdd]
    split
    next e hmatch => exact .inr ⟨p, List.mem_cons_self .., _, _, set_of_mem_hWays (List.mem_of_find?_eq_some hmatch), rfl⟩
    next =>
      split
      next e hfree => exact .inr ⟨p, List.mem_cons_self .., _, _, set_of_mem_hWays (List.mem_of_find?_eq_some hfree), rfl⟩
      next => exact ih.imp_right (fun ⟨q, hq, hw⟩ => ⟨q, List.mem_cons_of_mem _ hq, hw⟩)

theorem tgetD_hAdd_other {t : Tbl (BitVec 128)} {r : BitVec 128} {ps : List Nat} {i : Nat}
    (h : ∀ p ∈ ps, i / 4 ≠ hProbe (hKey r) p) : tgetD (hAdd t r ps).1 i 0 = tgetD t i 0 := by
  obtain hsame | ⟨p, hp, k, v, hk, hset⟩ := hAdd_writes t r ps
  · rw [hsame]
  · rw [hset, tgetD_tset_other t v 0 (fun hi => h p hp (by rw [hi, hk]))]

end Sys2Proof.Machine

section
open Sys2Proof Sys2Proof.Machine Sys2Proof.Claims

/-- Settles O42: the step between probes is odd, so that the four sets differ; a record writes one entry of a probed set at most. -/
theorem hashProbesFourSets : Obligations.HashProbesFourSets := by
  unfold Obligations.HashProbesFourSets
  refine ⟨fun K p _ => hProbe_eq K p, fun K => hProbe_nodup K.toNat, ?keyOne, fun t r i hout => ?other⟩
  case keyOne => decide
  case other => exact tgetD_hAdd_other (fun p hp => hout p (List.mem_range.1 (show p ∈ List.range 4 from hp)))

end

/-!
HASH_DRAIN at a cell whose next op number is taken (R129): the drain hands its items to every op in flight that has the number of its own.
-/
namespace Sys2Proof.Machine

/-- An op in flight that waits. Its number is the one that `drainingCell` gives its next op. -/
def numberedOp : Op :=
  { id := 0, slot := 0, due := 0, fixed := false, promised := false, waiting := true, outs := [], adds := [], accLo := 0, accLen := 0,
    isDot := false, pred := none }

/-- A G-cell in pulse 1: slot 0 is a HASH_DRAIN from queue 0 to queue 1 (R38) with its trigger there, the spill region lies in the M-cell at
(1, 1), and `numberedOp` is in flight. -/
def drainingCell : Cell :=
  { Cell.reset with
    state := .active, pulse := 1, slotEn := 1, slots := [(0, 0x04000FF0020000000000000000000000#128)],
    queues := [(0, { Queue.empty with hw := [{ data := 0, since := 0, bad := false }] })],
    ops := [numberedOp], gc := { GEng.reset with spillBase := 0x0001004000000000#64 } }

/-- Field 0 runs, with `drainingCell` at (3, 3). -/
def renumbering : State :=
  { State.reset with
    fields := [(0, { Field.reset with power := .underway, rails := true, trained := true, towerRails := true, oscEn := true, locked := true })],
    cells := [(siteIx 3 3, drainingCell)] }

/-- What the slot of `drainingCell` needs to fire. -/
def drainPlan : Plan :=
  { units := [.hash], hold := 1, pops := [0], peeks := [], rooms := [], lat := 4, descs := [], go := true }

theorem renumbering_ready : Claims.Ready renumbering 3 3 0 (isOf .g 0x04) drainPlan := by decide +kernel

/-- No spill write is out, and no word that the drain reads is uncorrectable. -/
theorem renumbering_drains :
    let c := renumbering.cell 3 3
    let at_ := spillSite c
    c.gc.drain = none ∧ c.reqs.any (fun q => q.kind = .spill) = false ∧ c.gc.hashBad = [] ∧
      (renumbering.cell at_.1 at_.2.1).data.badWord (spillSpan c) = none ∧ siteOk at_.1 at_.2.1 = true ∧ clsOf at_.1 at_.2.1 = .m := by
  decide +kernel

/-- The op that was in flight does not stay as it was: it no longer waits. -/
theorem renumbering_changes : ∀ t, exec (.hashDrain 3 3 0) renumbering = .next t → (t.cell 3 3).ops.head? ≠ some numberedOp := by
  have hnext : (match exec (.hashDrain 3 3 0) renumbering with
      | .next t => decide ((t.cell 3 3).ops.head? ≠ some numberedOp)
      | _ => true) = true := by decide +kernel
  intro t ht
  rw [ht] at hnext
  exact of_decide_eq_true hnext

end Sys2Proof.Machine

section
open Sys2Proof Sys2Proof.Machine Sys2Proof.Claims

/-- Refutes O53: `HashSlotsAddAndDrain` says that a drain whose spill writes are all acknowledged leaves the ops in flight as they were and
adds its own. The drain finds its own op by its number (`Cell.drainItems`), and the statement is about every state, also one in which an op
in flight already has the number `nextOp`: that op is handed the items too, and no longer waits. The clause would have to assume that no op
of `c.ops` has the number `c.nextOp`. -/
theorem not_gatherAndHashSlotsWork : ¬ Obligations.GatherAndHashSlotsWork := by
  unfold Obligations.GatherAndHashSlotsWork
  rintro ⟨-, hhash⟩
  obtain ⟨-, hdrain⟩ := hhash renumbering 3 3 0 drainPlan
  obtain ⟨hidle, hacked, hgood, hspill, hsite, hcls⟩ := renumbering_drains
  obtain ⟨-, hgoes⟩ := hdrain renumbering_ready hidle
  obtain ⟨t, o, hexec, -, hops, -⟩ := hgoes hacked hgood hspill hsite hcls
  refine renumbering_changes t hexec ?_
  rw [hops]
  rfl

end

/-!
The sync words of a cell, and what a command at a site writes: its cell, and the packets its router has to inject.
-/
namespace Sys2Proof.Machine

@[simp] theorem inject_cell_eq (s : State) (x y u v : Nat) (l : List Packet) : (s.inject x y l).cell u v = s.cell u v := rfl

@[simp] theorem inject_router_same (s : State) (x y : Nat) (l : List Packet) :
    (s.inject x y l).router x y = { s.router x y with inject := (s.router x y).inject ++ l } := onRouter_router_same ..

theorem inject_router_other (s : State) {x y u v : Nat} (l : List Packet) (h : siteIx u v ≠ siteIx x y) :
    (s.inject x y l).router u v = s.router u v := onRouter_router_other s _ h

@[simp] theorem setSw_sw_same (c : Cell) (k : Nat) (v : SyncWord) : (c.setSw k v).sw k = v := by
  by_cases hk : k = 0 <;> simp [Cell.setSw, Cell.sw, hk]

theorem setSw_sw_other (c : Cell) {j k : Nat} (v : SyncWord) (h : j = 0 ↔ k ≠ 0) : (c.setSw k v).sw j = c.sw j := by
  by_cases hk : k = 0 <;> simp [Cell.setSw, Cell.sw, hk, h]

/-- Writing a word of a cell leaves everything but the two words as it was. -/
theorem setSw_rest (c : Cell) (k : Nat) (v a b : SyncWord) :
    { c.setSw k v with w0 := a, w1 := b } = { c with w0 := a, w1 := b } := by
  by_cases hk : k = 0 <;> simp [Cell.setSw, hk]

/-- Word `k` of `c` becomes `v`; the other word and the rest of the cell stay. -/
theorem setSw_frame (c : Cell) {k : Nat} (v : SyncWord) (hk : k < 2) :
    (c.setSw k v).sw k = v ∧ (c.setSw k v).sw (1 - k) = c.sw (1 - k) ∧ { c.setSw k v with w0 := c.w0, w1 := c.w1 } = c :=
  ⟨setSw_sw_same c k v, setSw_sw_other c v (by omega), setSw_rest c k v c.w0 c.w1⟩

@[simp] theorem swCount_sw (c : Cell) (j k : Nat) : (c.swCount j).sw k = c.sw k := rfl

section
variable {s : State} {x y : Nat} {is : Packet → Bool} {p : Packet} {r : Router} (f : State → Packet → State)

theorem syncOp_idle (hsite : siteOk x y = true) (hhead : headReq (s.router x y) portL = none) : s.syncOp x y is f = .next s := by
  simp [State.syncOp, hsite, hhead]

theorem syncOp_other (hsite : siteOk x y = true) (hhead : headReq (s.router x y) portL = some (p, r)) (his : is p = false) :
    s.syncOp x y is f = .next s := by
  simp [State.syncOp, hsite, hhead, his]

theorem syncOp_served (hsite : siteOk x y = true) (hhead : headReq (s.router x y) portL = some (p, r)) (his : is p = true) :
    s.syncOp x y is f = .next (f (s.onRouter x y (fun _ => r)) p) := by
  simp [State.syncOp, hsite, hhead, his]

end

section
variable {s : State} {x y : Nat} (f : State → State)

theorem onSw_out (hsite : siteOk x y = true) (hout : clsOf x y ≠ .m ∨ s.bodyOut x y = true) : s.onSw x y f = .next s := by
  simp [State.onSw, hsite, hout]

theorem onSw_in (hsite : siteOk x y = true) (hm : clsOf x y = .m) (hbody : s.bodyOut x y = false) :
    s.onSw x y f = .next (f s) := by
  simp [State.onSw, hsite, hm, hbody]

theorem exec_clr0 (s : State) : exec (.clr0 x y) s = s.onSw x y (fun s => swClear s x y 0) := rfl

theorem exec_clr1 (s : State) : exec (.clr1 x y) s = s.onSw x y (fun s => swClear s x y 1) := rfl

theorem exec_swClrCnt (s : State) :
    exec (.swClrCnt x y) s = s.onSw x y (fun s => s.onCell x y (fun c => { c with syncCnt := [] })) := rfl

theorem exec_swWordHiWrite (s : State) {k : Nat} (v : Word) (hk : k < 2) :
    exec (.swWordHiWrite x y k v) s = s.onSw x y (fun s => swWriteHi s x y k v) := if_neg (by omega)

theorem exec_swWordLoRead (s : State) {k : Nat} (hk : k < 2) :
    exec (.swWordLoRead x y k) s = s.onSw x y (fun s => swReadLo s x y k) := if_neg (by omega)

end

/-- A sync word with a new value: the waiters whose condition then holds are gone from its list (R207). -/
def SyncWord.wrote (v : SyncWord) (w : Dword) : SyncWord :=
  { v with word := w, waiters := v.waiters.filter (fun p => ! swHolds w p.operand) }

/-- The answers to the waiters of `v` that the value `w` satisfies, in list order (R207). -/
def SyncWord.woken (v : SyncWord) (m x y : Nat) (w : Dword) : List Packet :=
  (v.waiters.filter (fun p => swHolds w p.operand)).map (waiterRsp m x y w codeOk)

theorem swStore_eq (c : Cell) (m x y k : Nat) (w : Dword) :
    c.swStore m x y k w = (c.setSw k ((c.sw k).wrote w), (c.sw k).woken m x y w) := rfl

/-- The answer to an operation that faults, and its report (R204). -/
def faultAnswers (m x y : Nat) (p : Packet) (code : Code) : List Packet :=
  [p.fault m x y portL code 0,
    reportPkt m x y portL (reportFlit 4 code p.srcX p.srcY 0xFF 0 p.srcMod p.op (syncAddr m (swIndex p)))]

/-- The answer to a WAIT_GE that does not fault, PENDING or not (R206). -/
def waitAnswer (m x y : Nat) (p : Packet) (w : Dword) (pending : Bool) : Packet :=
  p.answer m x y portL opSyncrsp [swItem m w codeOk p.op pending (swIndex p)]

/-- A sync word with the requester of `p` at the end of its wait list (R206). -/
def SyncWord.parked (v : SyncWord) (p : Packet) : SyncWord :=
  { v with waiters := v.waiters ++ [{ index := swIndex p, mod := p.srcMod, x := p.srcX, y := p.srcY, port := p.srcPort,
                                      tag := p.tag, operand := Machine.word p.arg.toNat }] }

end Sys2Proof.Machine

namespace Sys2Proof.Claims
open Sys2Proof.Machine

/-- From `s` to `t` only one site differs: its cell is `d`, and its router is `r` with the packets `l` to inject. -/
structure SiteBecomes (s t : State) (x y : Nat) (d : Cell) (r : Router) (l : List Packet) : Prop where
  only  : OnlySite s t x y
  cell  : t.cell x y = d
  sends : Sends t x y r l

theorem SiteBecomes.refl (s : State) (x y : Nat) : SiteBecomes s s x y (s.cell x y) (s.router x y) [] where
  only  := ⟨rfl, rfl, rfl, rfl, rfl, rfl, rfl, rfl, rfl, rfl, rfl, fun _ _ _ => rfl, fun _ _ _ => rfl⟩
  cell  := rfl
  sends := by simp [Sends]

theorem siteBecomes_taken (s : State) (x y : Nat) (r : Router) : SiteBecomes s (taken s x y r) x y (s.cell x y) r [] where
  only  := { (SiteBecomes.refl s x y).only with routers := fun _ _ hne => onRouter_router_other s _ hne }
  cell  := rfl
  sends := by simp [Sends, taken]

section
variable {s t : State} {x y : Nat} {d : Cell} {r : Router} {l : List Packet}

theorem SiteBecomes.setCell (h : SiteBecomes s t x y d r l) (d' : Cell) : SiteBecomes s (t.setCell x y d') x y d' r l where
  only  := { h.only with cells := fun u v hne => (setCell_cell_other t d' hne).trans (h.only.cells u v hne) }
  cell  := setCell_cell_same t x y d'
  sends := h.sends

theorem SiteBecomes.inject (h : SiteBecomes s t x y d r l) (l' : List Packet) :
    SiteBecomes s (t.inject x y l') x y d r (l ++ l') where
  only  := { h.only with routers := fun u v hne => (inject_router_other t l' hne).trans (h.only.routers u v hne) }
  cell  := h.cell
  sends := by simp [Sends, show t.router x y = _ from h.sends]

/-- A site whose cell becomes `c` with word `k` written, in the parts that the statements name. -/
theorem SiteBecomes.wordFrame {c : Cell} {k : Nat} {v : SyncWord} (h : SiteBecomes s t x y (c.setSw k v) r l) (hk : k < 2) :
    OnlySite s t x y ∧ (t.cell x y).sw k = v ∧ (t.cell x y).sw (1 - k) = c.sw (1 - k) ∧
      { t.cell x y with w0 := c.w0, w1 := c.w1 } = c ∧ Sends t x y r l := by
  obtain ⟨honly, hcell, hsends⟩ := h
  obtain ⟨hword, hother, hrest⟩ := setSw_frame c v hk
  rw [hcell]
  exact ⟨honly, hword, hother, hrest, hsends⟩

end

/-! ### Operations (R202, R204, R206, R207) -/

section
variable (s : State) (x y : Nat) (p : Packet) (r : Router)

theorem siteBecomes_faulted (code : Code) :
    SiteBecomes s
      (swReport (((taken s x y r).setCell x y ((s.cell x y).swCount 1)).inject x y [p.fault s.myMod x y portL code 0]) x y p code)
      x y ((s.cell x y).swCount 1) r (faultAnswers s.myMod x y p code) :=
  (((siteBecomes_taken s x y r).setCell _).inject _).inject _

variable {s x y p}

theorem swApply_bad {f : Dword → Word → SwOut} {code : Code}
    (hf : f ((s.cell x y).sw (swIndex p % 2)).word (word p.arg.toNat) = .bad code) :
    SiteBecomes s (swApply (taken s x y r) x y p f) x y ((s.cell x y).swCount 1) r (faultAnswers s.myMod x y p code) := by
  simp only [swApply, onRouter_cell_eq, onRouter_myMod_eq, hf]
  exact siteBecomes_faulted s x y p r code

theorem swApply_done {f : Dword → Word → SwOut} {w : Dword}
    (hf : f ((s.cell x y).sw (swIndex p % 2)).word (word p.arg.toNat) = .done w) :
    let k := swIndex p % 2
    let v := (s.cell x y).sw k
    SiteBecomes s (swApply (taken s x y r) x y p f) x y (((s.cell x y).swCount 0).setSw k (v.wrote w)) r
      (p.answer s.myMod x y portL opSyncrsp [swItem s.myMod w codeOk p.op false (swIndex p)] :: v.woken s.myMod x y w) := by
  intro k v
  simp only [swApply, onRouter_cell_eq, onRouter_myMod_eq, hf, swStore_eq, swCount_sw]
  exact ((siteBecomes_taken s x y r).setCell _).inject _

/-- A WAIT_GE on a word of KIND 3 faults (R202, R204). -/
theorem swWait_bad (hkind : swKind ((s.cell x y).sw (swIndex p % 2)).word = 3) :
    SiteBecomes s (swWait (taken s x y r) x y p) x y ((s.cell x y).swCount 1) r (faultAnswers s.myMod x y p syncGeneration) := by
  simp only [swWait, onRouter_cell_eq, onRouter_myMod_eq, hkind, reduceIte]
  exact siteBecomes_faulted s x y p r syncGeneration

section
variable (hkind : swKind ((s.cell x y).sw (swIndex p % 2)).word ≠ 3)
include hkind

/-- A WAIT_GE whose condition holds is answered at once (R206). -/
theorem swWait_holds (hholds : swHolds ((s.cell x y).sw (swIndex p % 2)).word (word p.arg.toNat) = true) :
    SiteBecomes s (swWait (taken s x y r) x y p) x y ((s.cell x y).swCount 0) r
      [waitAnswer s.myMod x y p ((s.cell x y).sw (swIndex p % 2)).word false] := by
  simp only [swWait, onRouter_cell_eq, onRouter_myMod_eq, hkind, hholds, reduceIte]
  exact ((siteBecomes_taken s x y r).setCell _).inject _

variable (hholds : swHolds ((s.cell x y).sw (swIndex p % 2)).word (word p.arg.toNat) = false)
include hholds

/-- A WAIT_GE whose condition does not hold is parked while the word's list has room (R206). -/
theorem swWait_parked (hroom : ((s.cell x y).sw (swIndex p % 2)).waiters.length < 32) :
    SiteBecomes s (swWait (taken s x y r) x y p) x y
      ((((s.cell x y).swCount 0).swCount 2).setSw (swIndex p % 2) (((s.cell x y).sw (swIndex p % 2)).parked p)) r [] := by
  simp only [swWait, onRouter_cell_eq, onRouter_myMod_eq, hkind, hholds, hroom, Bool.false_eq_true, reduceIte]
  exact (siteBecomes_taken s x y r).setCell _

/-- A WAIT_GE that finds the list full is answered PENDING (R206). -/
theorem swWait_pending (hfull : 32 ≤ ((s.cell x y).sw (swIndex p % 2)).waiters.length) :
    SiteBecomes s (swWait (taken s x y r) x y p) x y (((s.cell x y).swCount 0).swCount 3) r
      [waitAnswer s.myMod x y p ((s.cell x y).sw (swIndex p % 2)).word true] := by
  simp only [swWait, onRouter_cell_eq, onRouter_myMod_eq, hkind, hholds, Nat.not_lt_of_ge hfull, Bool.false_eq_true, reduceIte]
  exact ((siteBecomes_taken s x y r).setCell _).inject _

end
end

/-! ### Registers (R210, R211) -/

theorem swClear_becomes (s : State) (x y k : Nat) :
    let v := (s.cell x y).sw k
    SiteBecomes s (swClear s x y k) x y ((s.cell x y).setSw k { v with word := 0, waiters := [] }) (s.router x y)
      (v.waiters.map (waiterRsp s.myMod x y 0 runCancelled)) :=
  ((SiteBecomes.refl s x y).setCell _).inject _

theorem swWriteHi_becomes (s : State) (x y k : Nat) (h : Word) :
    let v := (s.cell x y).sw k
    let w := join32 h v.heldLo
    SiteBecomes s (swWriteHi s x y k h) x y ((s.cell x y).setSw k (v.wrote w)) (s.router x y) (v.woken s.myMod x y w) :=
  ((SiteBecomes.refl s x y).setCell _).inject _

/-! ### The commands -/

/-- The five operations are `swApply` of their outcome to the request that is theirs. -/
theorem exec_syncOperation {s : State} {x y : Nat} {i : Instr} {is : Packet → Bool} {f : Dword → Word → SwOut}
    (h : ∃ e ∈ [(Instr.syncAdd x y, (fun (p : Packet) => decide (p.op = 0x08)), swAdd),
      (.syncSub x y, (fun p => decide (p.op = 0x09)), swSub),
      (.syncSet x y, (fun p => decide (p.op = 0x0A) && ! bitB p.arg 31), swSet),
      (.syncSetConfigure x y, (fun p => decide (p.op = 0x0A) && bitB p.arg 31), swConfigure),
      (.arrive x y, (fun p => decide (p.op = 0x0B)), swArrive)], e = (i, is, f)) :
    exec i s = s.syncOp x y is (fun s p => swApply s x y p f) := by
  obtain ⟨e, hmem, he⟩ := h
  simp only [List.mem_cons, List.not_mem_nil, or_false, he] at hmem
  rcases hmem with hop | hop | hop | hop | hop <;> cases hop <;> rfl

theorem exec_waitGe (s : State) (x y : Nat) :
    exec (.waitGe x y) s = s.syncOp x y (fun p => decide (p.op = 0x0C)) (fun s p => swWait s x y p) := rfl

theorem syncOperationsWriteTheWord : SyncOperationsWriteTheWord := by
  intro s x y i is f hsite hop c
  have hexec := exec_syncOperation (s := s) hop
  refine ⟨fun hnone => hexec.trans (syncOp_idle _ hsite hnone), ?_⟩
  intro p r hhead k
  have hserved := fun his => hexec.trans (syncOp_served _ hsite hhead his)
  refine ⟨fun his => hexec.trans (syncOp_other _ hsite hhead his), ?bad, ?done⟩
  case bad =>
    intro code his hf
    obtain ⟨honly, hcell, hsends⟩ := swApply_bad r hf
    exact ⟨_, hserved his, honly, hcell, hsends⟩
  case done =>
    intro w his hf
    exact ⟨_, hserved his, (swApply_done r hf).wordFrame (Nat.mod_lt _ Nat.two_pos)⟩

theorem waitsAreAnsweredParkedOrPending : WaitsAreAnsweredParkedOrPending := by
  intro s x y hsite c
  refine ⟨fun hnone => (exec_waitGe s x y).trans (syncOp_idle _ hsite hnone), ?_⟩
  intro p r hhead k v o rsp done parked
  refine ⟨fun hop => (exec_waitGe s x y).trans (syncOp_other _ hsite hhead (decide_eq_false hop)), ?_⟩
  intro hop
  have hserved := (exec_waitGe s x y).trans (syncOp_served _ hsite hhead (decide_eq_true hop))
  have answered : ∀ {d : Cell} {l : List Packet}, SiteBecomes s (swWait (taken s x y r) x y p) x y d r l → done d l :=
    fun ⟨honly, hcell, hsends⟩ => ⟨_, hserved, honly, hcell, hsends⟩
  exact ⟨fun hkind => answered (swWait_bad r hkind),
    fun hkind hholds => answered (swWait_holds r hkind hholds),
    fun hkind hholds hroom => answered (swWait_parked r hkind hholds hroom),
    fun hkind hholds hfull => answered (swWait_pending r hkind hholds hfull)⟩

end Sys2Proof.Claims

section
open Sys2Proof Sys2Proof.Machine Sys2Proof.Claims

/-- Settles O12: each command is one write of a sync word (`setSw_frame`) and the answers to the waiters that this frees. -/
theorem syncRegistersWork : Obligations.SyncRegistersWork := by
  unfold Obligations.SyncRegistersWork
  intro s x y hsite c clears
  refine ⟨fun hout => ⟨?outside, fun k v hk => ⟨?writeOutside, ?readOutside⟩⟩,
    fun hm hbody => ⟨?clr0, ?clr1, ?clrCnt, ?writeHi, ?readLo⟩⟩
  case outside =>
    simp only [List.forall_mem_cons, List.not_mem_nil, false_implies, implies_true, and_true]
    exact ⟨(exec_clr0 s).trans (onSw_out _ hsite hout), (exec_clr1 s).trans (onSw_out _ hsite hout),
      (exec_swClrCnt s).trans (onSw_out _ hsite hout)⟩
  case writeOutside => exact (exec_swWordHiWrite s v hk).trans (onSw_out _ hsite hout)
  case readOutside => exact (exec_swWordLoRead s hk).trans (onSw_out _ hsite hout)
  case clr0 => exact ⟨_, (exec_clr0 s).trans (onSw_in _ hsite hm hbody), (swClear_becomes s x y 0).wordFrame (by decide)⟩
  case clr1 => exact ⟨_, (exec_clr1 s).trans (onSw_in _ hsite hm hbody), (swClear_becomes s x y 1).wordFrame (by decide)⟩
  case clrCnt => exact ⟨_, (exec_swClrCnt s).trans (onSw_in _ hsite hm hbody), onCell_onlyCell .., onCell_cell_same ..⟩
  case writeHi =>
    intro k v hk w
    exact ⟨_, (exec_swWordHiWrite s v hk).trans (onSw_in _ hsite hm hbody), (swWriteHi_becomes s x y k v).wordFrame hk⟩
  case readLo =>
    intro k hk
    refine ⟨_, (exec_swWordLoRead s hk).trans (onSw_in _ hsite hm hbody), onCell_onlyCell .., ?_⟩
    rw [swReadLo, onCell_cell_same]
    exact setSw_frame c _ hk

/-- Settles O48, by the outcome of the operation and by the four cases of a WAIT_GE. -/
theorem syncWordOperationsAreAnswered : Obligations.SyncWordOperationsAreAnswered := by
  unfold Obligations.SyncWordOperationsAreAnswered
  exact ⟨syncOperationsWriteTheWord, waitsAreAnsweredParkedOrPending⟩

end
